-- ==== Sys2Proof/Word.lean ====
section
/-!
DEFINITION. The data units of R5 and the sets of lanes of R57. Bit 0 is the least significant (R6).
-/
namespace Sys2Proof

/-- 8 bits (R5). -/
abbrev Byte := BitVec 8
/-- 32 bits (R5). -/
abbrev Word := BitVec 32
/-- 64 bits (R5). -/
abbrev DWord := BitVec 64
/-- A 56-bit program counter or virtual address (R57, R150). -/
abbrev Addr := BitVec 56
/-- A set of the 32 lanes of a warp: bit L stands for lane L (R61). -/
abbrev LaneSet := BitVec 32
/-- A 9-bit cause code (R342). -/
abbrev Cause := BitVec 9

end Sys2Proof
end

