-- ==== Sys2Proof/Syntax.lean ====
section
/-!
DEFINITION. The instructions: one constructor for each row of the operation table. Rows 0 to 165 are instruction
words (R35 to R50) with their fields named; the others are the steps of the other agents of the part.
-/
namespace Sys2Proof

/-- What a 7-bit operand field names (R39). `imm` is field value 127, the immediate. -/
inductive Opnd where
  | v (n : BitVec 6) | s (n : BitVec 5) | p (n : BitVec 3) | m (n : Fin 12) | q (n : BitVec 2)
  | zero | lane | tid | wid | gid | nthr | pcv | imm
  deriving DecidableEq, Repr

/-- The type codes of R43, in the order of their codes; `reserved` is code 15. -/
inductive Ty where
  | i32 | n32 | i64 | n64 | i16 | n16 | i8 | n8 | f32 | f16 | bf16 | e4m3 | e5m2 | e2m1 | e2m1s | reserved
  deriving DecidableEq, Repr

/-- The fields of an F-form word but its opcode (R36): mod[7:4] as a type code and mod[3:0] as `sub`. -/
structure FWord where
  d : Opnd
  a : Opnd
  b : Opnd
  c : Opnd
  neg : Bool
  pidx : BitVec 3
  ty : Ty
  sub : BitVec 4
  imm : BitVec 13
  deriving DecidableEq, Repr

/-- The fields of an L-form word but its opcode (R37). -/
structure LWord where
  d : Opnd
  a : Opnd
  ty : Ty
  sub : BitVec 3
  imm : BitVec 32
  deriving DecidableEq, Repr

/-- The half-opcodes of a P-form pair (R45), in the order of their values. -/
inductive HalfOp where
  | hnop | addI32 | subI32 | and | or | xor | shl | shr | sar | mov | fadd | fmul | fmin | fmax | minI32 | maxI32
  deriving DecidableEq, Repr

/-- The second operand of a half: a register, or the byte that hmod[3] selects (R38). -/
inductive HalfSrc where
  | reg (n : BitVec 6) | imm (x : BitVec 8)
  deriving DecidableEq, Repr

/-- One half of a P-form pair (R38, R45); an empty half has every field 0. -/
structure Half where
  op : HalfOp
  d : BitVec 6
  s : HalfSrc
  deriving DecidableEq, Repr

/-- A word that is no instruction (R51): its cause code and, for an illegal pair, the half of R358. -/
structure Illegal where
  cause : Cause
  half : Bool
  deriving DecidableEq, Repr

/-- Whose an Akvar request is (R325, R332): the host node that sends it, and its tag. -/
structure HostTag where
  node : Nat
  tag : Nat
  deriving DecidableEq, Repr

/-- A request of another package at a home of this one (R152). -/
inductive RemoteReq where
  | read (n : Nat) | write (bytes : List Byte)
  | atomic (op : BitVec 4) (ty : Ty) (x : DWord) | cas (ty : Ty) (expected new : DWord)
  deriving DecidableEq, Repr

/-- The instructions and steps, one constructor for each row of the table. -/
inductive Instr where
  /-- NOP (R75). Does nothing and steps each issuing lane past the word. -/
  | nop (f : FWord)
  /-- BRA (R77). F-form unconditional branch by a signed word offset in imm13. -/
  | bra (f : FWord)
  /-- BRA_L (R76). L-form unconditional branch by a signed word offset in imm32. -/
  | braL (f : LWord)
  /-- BRC (R78). F-form branch taken per lane when operand a compares against zero by cc. -/
  | brc (f : FWord)
  /-- BRC_L (R76). L-form conditional branch with its offset in imm32. -/
  | brcL (f : LWord)
  /-- BRX (R77). Indirect branch of each lane to a 64-bit target held in a vector pair or scalar register. -/
  | brx (f : FWord)
  /-- CALL (R79). F-form call that writes pc + 8 to an even vector pair and branches. -/
  | call (f : FWord)
  /-- CALL_L (R76). L-form call with its offset in imm32. -/
  | callL (f : LWord)
  /-- RET (R79). Returns each lane to the address in a vector pair, marked as a return for the predictor. -/
  | ret (f : FWord)
  /-- EXIT (R89). Ends every lane of E, dropping it from masks and barriers while its outstanding operations still complete. -/
  | exit (f : FWord)
  /-- TAIL (R91). Ends every lane of E and may take a retirement-tracker entry so that the group's warp resources free early. -/
  | tail (f : FWord)
  /-- YPT (R88). Yield point: acts as nop unless the group's pre-emption request is raised, in which case the lanes wait at a yield. -/
  | ypt (f : FWord)
  /-- MJOIN (R80). Adds the lanes of E to a mask register and checks its release condition. -/
  | mjoin (f : FWord)
  /-- MLEAVE (R80). Removes the lanes of E from a mask register and checks its release condition. -/
  | mleave (f : FWord)
  /-- MWAIT (R80). Makes each lane of E wait on a mask register until every lane in the mask waits. -/
  | mwait (f : FWord)
  /-- MSET (R80). Scalar-side write of a mask register from a uniform source, restricted to live lanes. -/
  | mset (f : FWord)
  /-- MGET (R80). Copies a mask register into a vector register or a per-lane predicate. -/
  | mget (f : FWord)
  /-- SERB (R83). Opens a lane-serialisation region for the issuing lanes. -/
  | serb (f : FWord)
  /-- SERE (R83). Ends the current lane's turn in a serialisation region and passes the turn to the next lane. -/
  | sere (f : FWord)
  /-- RGN (R84). Names up to four register runs as a working-set hint for the operand buffer. -/
  | rgn (f : FWord)
  /-- BAR (R85). Arrives at a group barrier and waits on the generation it arrived in. -/
  | bar (f : FWord)
  /-- BARA (R85). Arrives at a group barrier and records a token of the current generation. -/
  | bara (f : FWord)
  /-- BARW (R85). Waits on a barrier while the thread's token equals the current generation. -/
  | barw (f : FWord)
  /-- SLEEP (R87). Makes the lanes of E wait for a cycle count from 0 to 4,095. -/
  | sleep (f : FWord)
  /-- LNCH (R206). Scalar-side read of a 64-byte launch record and its append to a hardware queue. -/
  | lnch (f : FWord)
  /-- SEMSIG (R207). Adds to or sets a cross-die semaphore with release order at .dev. -/
  | semsig (f : FWord)
  /-- SEMWT (R207). Rests until a semaphore reaches a target, then returns its value with acquire order. -/
  | semwt (f : FWord)
  /-- ADD (R113). F-form integer add, wrapping or saturating. -/
  | add (f : FWord)
  /-- ADD_L (R37). L-form integer add with a 32-bit immediate second source. -/
  | addL (f : LWord)
  /-- SUB (R113). F-form integer subtract, wrapping or saturating. -/
  | sub (f : FWord)
  /-- SUB_L (R37). L-form integer subtract with a 32-bit immediate second source. -/
  | subL (f : LWord)
  /-- MUL (R113). F-form integer multiply giving the low half, wrapping or saturating. -/
  | mul (f : FWord)
  /-- MUL_L (R37). L-form integer multiply with a 32-bit immediate. -/
  | mulL (f : LWord)
  /-- MULH (R113). Integer multiply returning the high half of the double-width product. -/
  | mulh (f : FWord)
  /-- MAD (R113). Integer multiply-add formed exactly before one wrap or clamp. -/
  | mad (f : FWord)
  /-- DIV (R114). Integer division truncating toward zero; a zero divisor faults in its lane. -/
  | div (f : FWord)
  /-- REM (R114). Integer remainder with the sign of the dividend; a zero divisor faults in its lane. -/
  | rem (f : FWord)
  /-- MIN (R113). F-form integer minimum. -/
  | min (f : FWord)
  /-- MIN_L (R37). L-form integer minimum with a 32-bit immediate. -/
  | minL (f : LWord)
  /-- MAX (R113). F-form integer maximum. -/
  | max (f : FWord)
  /-- MAX_L (R37). L-form integer maximum with a 32-bit immediate. -/
  | maxL (f : LWord)
  /-- ABS (R113). Integer absolute value, wrapping or saturating. -/
  | abs (f : FWord)
  /-- NEG (R113). Integer negation, wrapping or saturating. -/
  | neg (f : FWord)
  /-- AND (R115). F-form bitwise and, or a predicate operation when the destination is a predicate. -/
  | and (f : FWord)
  /-- AND_L (R37). L-form bitwise and with a 32-bit immediate. -/
  | andL (f : LWord)
  /-- OR (R115). F-form bitwise or, or a predicate operation. -/
  | or (f : FWord)
  /-- OR_L (R37). L-form bitwise or with a 32-bit immediate. -/
  | orL (f : LWord)
  /-- XOR (R115). F-form bitwise exclusive or, or a predicate operation. -/
  | xor (f : FWord)
  /-- XOR_L (R37). L-form bitwise exclusive or with a 32-bit immediate. -/
  | xorL (f : LWord)
  /-- NOT (R115). Bitwise complement, or predicate negation. -/
  | not (f : FWord)
  /-- ANDN (R115). F-form a and not b. -/
  | andn (f : FWord)
  /-- ANDN_L (R37). L-form a and not b with a 32-bit immediate. -/
  | andnL (f : LWord)
  /-- SHL (R116). Logical shift left by an n32 count. -/
  | shl (f : FWord)
  /-- SHR (R116). Logical shift right by an n32 count. -/
  | shr (f : FWord)
  /-- SAR (R116). Arithmetic shift right by an n32 count. -/
  | sar (f : FWord)
  /-- ROT (R116). Rotate left by a count taken modulo the width. -/
  | rot (f : FWord)
  /-- CLZ (R117). Counts the leading zero bits. -/
  | clz (f : FWord)
  /-- POPC (R117). Counts the set bits. -/
  | popc (f : FWord)
  /-- BREV (R117). Reverses the bits within the width. -/
  | brev (f : FWord)
  /-- BFE (R118). Extracts a bit field, extended by the signedness of the type. -/
  | bfe (f : FWord)
  /-- BFI (R118). Inserts a bit field of a into d. -/
  | bfi (f : FWord)
  /-- SEL (R119). Selects a or b per lane by a predicate. -/
  | sel (f : FWord)
  /-- CMP (R119). F-form integer compare that writes a predicate. -/
  | cmp (f : FWord)
  /-- CMP_L (R37). L-form integer compare with a 32-bit immediate. -/
  | cmpL (f : LWord)
  /-- LEA (R120). F-form address formed from base, scaled index and displacement. -/
  | lea (f : FWord)
  /-- LEA_L (R37). L-form address formation with imm32 as the index. -/
  | leaL (f : LWord)
  /-- SEXT (R121). Sign-extends a narrow value. -/
  | sext (f : FWord)
  /-- ZEXT (R121). Zero-extends a narrow value. -/
  | zext (f : FWord)
  /-- MOV (R123). Copies a register at the width of its type. -/
  | mov (f : FWord)
  /-- LI (R123). F-form load of a 13-bit immediate. -/
  | li (f : FWord)
  /-- LI_L (R37). L-form load of a 32-bit or f32 immediate. -/
  | liL (f : LWord)
  /-- SHFL (R124). Gives each lane the value of a register in a source lane chosen by mode. -/
  | shfl (f : FWord)
  /-- VOTE (R125). Forms all, any, eq or ballot over a predicate across E. -/
  | vote (f : FWord)
  /-- BCST (R124). Broadcasts one lane's register to every lane of E. -/
  | bcst (f : FWord)
  /-- SCAN (R126). Inclusive or exclusive prefix combination across E in ascending lane order. -/
  | scan (f : FWord)
  /-- VRED (R127). Reduces across E by a fixed lane tree into a result register and advances its sequence number. -/
  | vred (f : FWord)
  /-- QGET (R128). Scalar-side read of a result register once its sequence number reaches the expected value. -/
  | qget (f : FWord)
  /-- ELECT (R125). Sets a predicate true in the lowest lane of E only. -/
  | elect (f : FWord)
  /-- VSHP (R129). Writes the shape tag of a register. -/
  | vshp (f : FWord)
  /-- FADD (R134). F-form f32 add rounded once by mode. -/
  | fadd (f : FWord)
  /-- FADD_L (R37). L-form f32 add with an f32 immediate. -/
  | faddL (f : LWord)
  /-- FSUB (R134). F-form f32 subtract. -/
  | fsub (f : FWord)
  /-- FSUB_L (R37). L-form f32 subtract with an f32 immediate. -/
  | fsubL (f : LWord)
  /-- FMUL (R134). F-form f32 multiply. -/
  | fmul (f : FWord)
  /-- FMUL_L (R37). L-form f32 multiply with an f32 immediate. -/
  | fmulL (f : LWord)
  /-- FFMA (R134). Fused f32 multiply-add with one rounding. -/
  | ffma (f : FWord)
  /-- FDIV (R134). f32 divide rounded once. -/
  | fdiv (f : FWord)
  /-- FSQRT (R134). f32 square root rounded once. -/
  | fsqrt (f : FWord)
  /-- FRCP (R135). Correctly rounded f32 reciprocal. -/
  | frcp (f : FWord)
  /-- FRSQ (R135). Correctly rounded f32 reciprocal square root. -/
  | frsq (f : FWord)
  /-- FEXP2 (R135). Correctly rounded f32 power of two. -/
  | fexp2 (f : FWord)
  /-- FLOG2 (R135). Correctly rounded f32 base-2 logarithm. -/
  | flog2 (f : FWord)
  /-- FSINPI (R135). Correctly rounded sin(pi x). -/
  | fsinpi (f : FWord)
  /-- FCOSPI (R135). Correctly rounded cos(pi x). -/
  | fcospi (f : FWord)
  /-- FMIN (R136). F-form f32 minimum with NaN and signed-zero rules. -/
  | fmin (f : FWord)
  /-- FMIN_L (R37). L-form f32 minimum with an f32 immediate. -/
  | fminL (f : LWord)
  /-- FMAX (R136). F-form f32 maximum. -/
  | fmax (f : FWord)
  /-- FMAX_L (R37). L-form f32 maximum with an f32 immediate. -/
  | fmaxL (f : LWord)
  /-- FCMP (R137). F-form f32 compare that writes a predicate. -/
  | fcmp (f : FWord)
  /-- FCMP_L (R37). L-form f32 compare with an f32 immediate. -/
  | fcmpL (f : LWord)
  /-- FRND (R138). Rounds an f32 to an integral value by mode. -/
  | frnd (f : FWord)
  /-- FCVT (R139). Converts between float formats with a rounding code in imm13. -/
  | fcvt (f : FWord)
  /-- F2I (R140). Rounds an f32 to an integer type and clamps. -/
  | f2i (f : FWord)
  /-- I2F (R140). Rounds an integer into f32. -/
  | i2f (f : FWord)
  /-- FCLASS (R141). Writes a one-hot class word for a float value. -/
  | fclass (f : FWord)
  /-- BEXP (R143). Decodes one block element to f32 from a header and a code. -/
  | bexp (f : FWord)
  /-- BPACK (R144). Encodes an f32 value as an element code of a block header. -/
  | bpack (f : FWord)
  /-- BSCL (R145). Chooses a shared block scale over the finite values of E. -/
  | bscl (f : FWord)
  /-- BHDR (R146). Forms a block header half from scale and aux. -/
  | bhdr (f : FWord)
  /-- NDOT (R147). Narrow packed dot product added to an accumulator. -/
  | ndot (f : FWord)
  /-- RND (R148). Takes one generator draw per lane as n32 or as a uniform f32. -/
  | rnd (f : FWord)
  /-- LD (R169). Global load through the L1, or at the home for S pages and remote nodes. -/
  | ld (f : FWord)
  /-- ST (R169). Global store. -/
  | st (f : FWord)
  /-- LSP (R169). Scratchpad load that waits on presence. -/
  | lsp (f : FWord)
  /-- SSP (R169). Scratchpad store that waits on presence. -/
  | ssp (f : FWord)
  /-- LHV (R169). Hive-memory load at the hive bank. -/
  | lhv (f : FWord)
  /-- SHV (R169). Hive-memory store at the hive bank. -/
  | shv (f : FWord)
  /-- ATOM (R173). Atomic read-modify-write at the home, returning the old value. -/
  | atom (f : FWord)
  /-- CAS (R173). Compare-and-swap at the home, returning the old value. -/
  | cas (f : FWord)
  /-- RED (R173). Reduction at the home with no result. -/
  | red (f : FWord)
  /-- FENCE (R175). Acquire, release or both at a scope for each lane of E. -/
  | fence (f : FWord)
  /-- PCHK (R176). Tests scratchpad line presence without waiting. -/
  | pchk (f : FWord)
  /-- PCLR (R177). Clears the presence bit of a scratchpad line. -/
  | pclr (f : FWord)
  /-- PFCH (R178). Prefetches a global line into L1 or its home L2. -/
  | pfch (f : FWord)
  /-- CPY (R230). Forks one copy from a six-register copy record on the core's copy engine. -/
  | cpy (f : FWord)
  /-- CJOB (R230). Reads a job card and forks it on the die's job-card engine. -/
  | cjob (f : FWord)
  /-- CWAIT (R231). Rests until a completion object reaches a target or bit 63 is set, then returns it with acquire order. -/
  | cwait (f : FWord)
  /-- CPOLL (R231). Reads a completion object once with acquire order. -/
  | cpoll (f : FWord)
  /-- COLL (R232). Forks an allreduce, reduce-scatter or allgather on the die's collective engine. -/
  | coll (f : FWord)
  /-- MMAC (R241). Forks a solo or pair plane-form multiply-accumulate into accumulator tiles. -/
  | mmac (f : FWord)
  /-- MZERO (R244). Writes +0.0 into every element of a tile. -/
  | mzero (f : FWord)
  /-- MLOAD (R244). Loads a tile from the scratchpad, converting to f32. -/
  | mload (f : FWord)
  /-- MDRAIN (R246). Forks a drain of a tile to the scratchpad, to memory as an add-on-store, or into a peer tile. -/
  | mdrain (f : FWord)
  /-- MSTAT (R248). Reads the state of the core's matrix array. -/
  | mstat (f : FWord)
  /-- SBIND (R264). Binds or unbinds a surface slot from a descriptor. -/
  | sbind (f : FWord)
  /-- SLD (R265). Reads the packed samples of a pixel of a surface. -/
  | sld (f : FWord)
  /-- SST (R266). Writes samples, a motion vector or a key flag into a tile's staging tile. -/
  | sst (f : FWord)
  /-- SSTC (R267). Writes one transform level into a cell of a staging tile. -/
  | sstc (f : FWord)
  /-- SRES (R268). Forks a resolve that final-codes the staged and provisional tiles of a rectangle. -/
  | sres (f : FWord)
  /-- CULLBF (R275). Back-face culls a triangle into a predicate. -/
  | cullbf (f : FWord)
  /-- CULLFR (R275). Frustum culls a triangle. -/
  | cullfr (f : FWord)
  /-- CULLSM (R275). Culls a triangle that covers no pixel centre. -/
  | cullsm (f : FWord)
  /-- CULLHZ (R275). Culls a triangle hidden by hierarchical depth. -/
  | cullhz (f : FWord)
  /-- PEXP (R276). Clips and exports triangles to the current draw, or closes the packet with .fin. -/
  | pexp (f : FWord)
  /-- ISECTB (R285). Intersects a ray with the moving boxes of a box node. -/
  | isectb (f : FWord)
  /-- ISECTT (R285). Intersects a ray with a moving triangle. -/
  | isectt (f : FWord)
  /-- PIX (R281). Sets the colour of the lane's fragment. -/
  | pix (f : FWord)
  /-- FDISC (R281). Discards the lane's fragment. -/
  | fdisc (f : FWord)
  /-- FDEP (R281). Sets the depth of the lane's fragment. -/
  | fdep (f : FWord)
  /-- MBSEND (R299). Reserves an action slot of a step mailbox and forks its delivery. -/
  | mbsend (f : FWord)
  /-- MBRECV (R299). Takes the head observation of a mailbox into a buffer, with acquire order. -/
  | mbrecv (f : FWord)
  /-- MBPOLL (R299). Reads a mailbox's counts, status and head version without waiting. -/
  | mbpoll (f : FWord)
  /-- MBVER (R299). Writes the policy version register with release order. -/
  | mbver (f : FWord)
  /-- PBOPEN (R304). Snapshots v40 to v55 into the proposal copy and opens the bank. -/
  | pbopen (f : FWord)
  /-- PBX (R304). Closes the bank and abandons the proposal. -/
  | pbx (f : FWord)
  /-- PACC (R305). Commits or discards each open lane's proposal by comparing a log-ratio with a log-uniform. -/
  | pacc (f : FWord)
  /-- PBSTAT (R306). Reads and optionally clears the proposal counters. -/
  | pbstat (f : FWord)
  /-- CSRR (R326). Reads a control and status register. -/
  | csrr (f : FWord)
  /-- CSRW (R326). Writes a control and status register. -/
  | csrw (f : FWord)
  /-- CSRS (R326). Sets bits of a control and status register. -/
  | csrs (f : FWord)
  /-- CSRC (R326). Clears bits of a control and status register. -/
  | csrc (f : FWord)
  /-- TRAP (R355). Raises software trap cause 0x1C0 + n with epc past the instruction. -/
  | trap (f : FWord)
  /-- ERET (R356). Returns handler-mode lanes to their epc. -/
  | eret (f : FWord)
  /-- BRK (R355). Raises breakpoint cause 0x1B0 with epc at the instruction. -/
  | brk (f : FWord)
  /-- P_FORM_PAIR (R47). Issues two restricted halves together, reading all registers before either half writes. -/
  | pFormPair (h1 h2 : Half)
  /-- ILLEGAL_WORD_ISSUE (R52). A fetched word that fails the checks of R51 raises an illegal encoding or illegal pair in every issuing lane. -/
  | illegalWordIssue (e : Illegal)
  /-- FAULT_SERVICE_REWALK (R364). The Bieno fault service walks the page table again once and unparks the lanes or delivers to the handler with unres. -/
  | faultServiceRewalk (g w arrival : Nat)
  /-- SLEEP_EXPIRY (R87). Sleeping lanes resume after their cycle count. -/
  | sleepExpiry (g w : Nat)
  /-- LANE_REST_RELEASE (R60). A lane resting at an instruction completes it once the awaited condition holds. -/
  | laneRestRelease (g w arrival : Nat)
  /-- HOST_MEMORY_WRITE (R332). An Akvar write of a host node, performed in issue order as a release at .sys. -/
  | hostMemoryWrite (tag : HostTag) (addr : BitVec 52) (bytes : List Byte)
  /-- HOST_MEMORY_READ (R332). An Akvar read by a host node of device memory. -/
  | hostMemoryRead (tag : HostTag) (addr : BitVec 52) (n : Nat)
  /-- REMOTE_ACCESS (R152). An access from another package performed at the home bank of this node. -/
  | remoteAccess (node : Nat) (addr : BitVec 52) (rq : RemoteReq)
  /-- RDMA_WRITE (R335). Incoming RoCEv2 RDMA write, performed in packet sequence order. -/
  | rdmaWrite (node : Nat) (addr : BitVec 52) (bytes : List Byte)
  /-- RDMA_READ (R335). Incoming RoCEv2 RDMA read. -/
  | rdmaRead (node : Nat) (addr : BitVec 52) (n : Nat)
  /-- RDMA_SEND (R335). Incoming RoCEv2 send. -/
  | rdmaSend (node qp : Nat) (bytes : List Byte)
  /-- RDMA_FETCH_ADD (R335). Incoming RDMA fetch-add performed at the home bank. -/
  | rdmaFetchAdd (node : Nat) (addr : BitVec 52) (x : DWord)
  /-- RDMA_COMPARE_SWAP (R335). Incoming RDMA compare-swap performed at the home bank. -/
  | rdmaCompareSwap (node : Nat) (addr : BitVec 52) (expected new : DWord)
  /-- REMOTE_ACCESS_TIMEOUT (R373). An access to another node unanswered within 1 ms faults with 0x181. -/
  | remoteAccessTimeout (node : Nat)
  /-- L1_EVICTION (R156). An L1 line is evicted, writing back an M line to its home. -/
  | l1Eviction (core line : Nat) (lost : Bool)
  /-- REGISTER_SCRUB (R370). The scrubber corrects allocated register words in place and records uncorrectable ones as 0x162. -/
  | registerScrub (g w : Nat) (field : BitVec 9) (lane : Nat) (bad : Bool)
  /-- LAUNCH_RECORD_CONSUME (R195). The distributor takes a ready record at the consumer index once its waits hold, clears it and advances the index. -/
  | launchRecordConsume (q : Nat)
  /-- PLACE_GROUP (R200). The distributor places one group per cycle by dealing or refill from the chosen queue. -/
  | placeGroup (die : Nat)
  /-- GROUP_RESTORE (R202). A saved group is restored from the save area on an eligible core. -/
  | groupRestore (q : Nat)
  /-- GROUP_RESOURCE_FREE (R90). A finished group's resources, or its retirement-tracker entry, are freed once its outstanding operations complete. -/
  | groupResourceFree (g : Nat)
  /-- QUEUE_ENABLE (R194). A write of en = 1 to qctl enables the queue and starts its trap sequence at 1. -/
  | queueEnable (tag q : Nat)
  /-- QUEUE_DISABLE_KILL (R389). A write of en = 0 to qctl of a queue with groups kills it, recorded as 0x1D3. -/
  | queueDisableKill (tag q : Nat)
  /-- PREEMPTION_REQUEST (R202). Setting preq stops placement and raises the pre-emption request of the queue's resident groups. -/
  | preemptionRequest (tag q : Nat)
  /-- PREEMPTION_WITHDRAW (R202). Clearing preq before a save releases the group's yielding lanes. -/
  | preemptionWithdraw (tag q : Nat)
  /-- PREEMPTION_DEADLINE (R202). dl cycles after the raise, a group not yet at a yield point is force-saved and 0x150 recorded. -/
  | preemptionDeadline (g : Nat)
  /-- GROUP_SAVE_WRITE (R202). Once outstanding operations complete, the copy engine writes the group save and frees the group. -/
  | groupSaveWrite (g : Nat)
  /-- SAVE_OPS_TIMEOUT (R392). Outstanding operations not completed dl cycles into a save kill the queue with 0x151. -/
  | saveOpsTimeout (g : Nat)
  /-- QUEUE_KILL_COMPLETE (R389). When the kill's engine threads have ended and resources are freed, en reads 0. -/
  | queueKillComplete (q : Nat)
  /-- KILL_ENGINE_TIMEOUT (R389). An engine thread without its final arrival 1.7e6 cycles after a kill fails with 0x1D4. -/
  | killEngineTimeout (op : Nat)
  /-- WORLD_SWITCH_REQUEST (R314). The hypervisor requests that a cluster switch its resident virtual function, applying R203 to the outgoing tenant. -/
  | worldSwitchRequest (c f : Nat)
  /-- WORLD_SWITCH_COMPLETE (R314). With no outgoing group left, caches and TLBs are flushed, counters folded and the new function made resident. -/
  | worldSwitchComplete (c : Nat)
  /-- REVOCATION_START (R316). Revocation of a borrowed cluster stops the borrower's placement and raises pre-emption requests. -/
  | revocationStart (c : Nat)
  /-- REVOCATION_SAVE_TIMEOUT (R316). After 85,000 cycles unsaved groups are force-saved, abandoning running mmac, recorded as 0x1D0. -/
  | revocationSaveTimeout (c : Nat)
  /-- REVOCATION_COMPLETE (R316). Saved groups are requeued, cores scrubbed, the cluster returned and event kind 3 posted. -/
  | revocationComplete (c : Nat)
  /-- LAYOUT_PREPARE (R340). A write of lctl checks the staged layout and sets prep or rej. -/
  | layoutPrepare (tag : Nat) (gen : BitVec 32)
  /-- LAYOUT_FLIP (R340). The Bieno copies the staged layout into the live registers, sets lgen and posts resize events. -/
  | layoutFlip
  /-- CLUSTER_LAYOUT_APPLY (R318). A cluster applies the live layout at its next kernel boundary. -/
  | clusterLayoutApply (c : Nat)
  /-- TLB_INVALIDATE (R334). A write of tlbinv while idle removes the named translations from every TLB and sets busy. -/
  | tlbInvalidate (tag : Nat) (value : DWord)
  /-- TLB_INVALIDATE_DONE (R334). busy clears once no walk or access using an old entry remains. -/
  | tlbInvalidateDone
  /-- SEMAPHORE_WINDOW_WRITE (R333). A window write of a semaphore acts as semsig.set at .sys. -/
  | semaphoreWindowWrite (tag n : Nat) (value : DWord)
  /-- MAILBOX_OPEN (R290). A write of open = 1 empties both FIFOs, sets status 0 and opens the mailbox. -/
  | mailboxOpen (tag die n : Nat)
  /-- MAILBOX_CLOSE (R290). A write of open = 0 closes the mailbox with status 5. -/
  | mailboxClose (tag die n : Nat)
  /-- EPISODE_START (R288). A write of run = 1 resets the drone core and starts its episode in its window. -/
  | episodeStart (tag die k : Nat)
  /-- EPISODE_STOP (R288). A write of run = 0 stops the drone core and closes its mailboxes with status 5. -/
  | episodeStop (tag die k : Nat)
  /-- VF_DISABLE (R390). Clearing en in vfctl kills every queue of the function with 0x1D2 and stops its drone cores. -/
  | vfDisable (tag f : Nat)
  /-- REGISTER_WINDOW_WRITE (R333). An aligned 8-byte write to a window register with no behaviour of its own, checked against tag and access. -/
  | registerWindowWrite (tag : Nat) (off : BitVec 30) (value : DWord)
  /-- ATTEST (R339). Bieno mailbox command 1 returns a report signed by the identity key. -/
  | attest (die : Nat)
  /-- STAGE_IMAGE (R339). Bieno mailbox command 2 writes data into the inactive flash slot. -/
  | stageImage (die : Nat)
  /-- SELECT_SLOT (R339). Bieno mailbox command 3 updates the active slot in the flash directory. -/
  | selectSlot (die : Nat)
  /-- WATCHPOINT_ARM (R374). Bieno mailbox command 4 arms a device watchpoint over a range for a queue. -/
  | watchpointArm (tag die : Nat)
  /-- WATCHPOINT_DISARM (R374). Bieno mailbox command 5 disarms a watchpoint. -/
  | watchpointDisarm (tag die : Nat)
  /-- LINK_LOG_READ (R399). Bieno mailbox command 6 returns the permit-fault counts and state of a port. -/
  | linkLogRead (die : Nat)
  /-- WATCHPOINT_HIT (R375). A write overlapping an armed range writes a record and delivers an imprecise trap to the named queue. -/
  | watchpointHit
  /-- COPY_PIECE_LANDED (R218). A 4 KiB piece of a copy lands, adding a progressive arrival or, for the last piece, the final arrival. -/
  | copyPieceLanded (op : Nat)
  /-- ENGINE_STALL_RESOLVED (R380). The Bieno service resolves a stall and the engine thread continues, or fails with unres. -/
  | engineStallResolved (op : Nat)
  /-- COMB_COLLECTOR_MOVE (R20). The collector copies a live record forward and installs its offset by compare-and-swap. -/
  | combCollectorMove (die : Nat)
  /-- JOB_CARD_OUTPUT_LANDED (R228). Produced bytes of a job card land in a scratchpad line, which becomes present before the card's final arrival. -/
  | jobCardOutputLanded (op : Nat)
  /-- JOB_CARD_DONE (R228). The job-card engine finishes decoding, writes olen and adds its final arrival. -/
  | jobCardDone (op : Nat)
  /-- COLLECTIVE_DONE (R232). A rank's collective destination is complete and its engine adds 1 to done. -/
  | collectiveDone (op : Nat)
  /-- COLLECTIVE_RANK_TIMEOUT (R381). A rank not reached within 1 ms fails the collective with 0x0EF. -/
  | collectiveRankTimeout (op rank : Nat)
  /-- MMAC_COMMIT (R241). After the last K-group, both tiles are committed in one step and the scoreboard entries clear. -/
  | mmacCommit (op : Nat)
  /-- MMAC_FAILURE (R384). A failing mmac discards its working copy and delivers a trap to its issuing lanes. -/
  | mmacFailure (op : Nat)
  /-- MDRAIN_DELIVERY (R247). A drain delivers its tile and adds its final arrival. -/
  | mdrainDelivery (op : Nat)
  /-- PEER_ADD (R246). A peer drain adds into a peer tile after the peer's pending operations on it. -/
  | peerAdd (op : Nat)
  /-- RESOLVE_TILE_CODING (R261). A resolve final-codes one tile at its home, installing the record and updating the rate state. -/
  | resolveTileCoding (op : Nat)
  /-- MAILBOX_DELIVERY (R299). A delivery thread places a sent message into its reserved slot. -/
  | mailboxDelivery (op : Nat)
  /-- DRAW_REPROJECTION (R277). A draw with rp set reprojects the previous visibility buffer pixel by pixel and rebuilds cmap and hz. -/
  | drawReprojection (draw tile : Nat)
  /-- DRAW_RASTERISE (R278). A raster unit rasterises a screen tile's exports in order-key order. -/
  | drawRasterise (draw tile : Nat)
  /-- PIXEL_GROUP_PLACE (R280). A raster unit places a pixel-shader group of fragments on a core of its cluster. -/
  | pixelGroupPlace (draw tile : Nat)
  /-- BLEND_APPLY (R281). The blender applies an ended fragment's colour to its pixel in order-key order. -/
  | blendApply (draw tile : Nat)
  /-- DRAW_DONE (R283). When a closed draw's fragments and sample writes have completed, the raster adds 1 to done. -/
  | drawDone (draw : Nat)
  /-- DRONE_INSTRUCTION (R289). A drone core executes one RV64 instruction, including window-checked fetches, loads, stores, AMOs and fences. -/
  | droneInstruction (die k : Nat)
  /-- DMBSEL (R297). Drone CSR write selecting a mailbox, ignored if not bound. -/
  | dmbsel (die k : Nat) (value : DWord)
  /-- DMBRX (R297). Drone CSR read that takes the head action into the buffer and returns a status word. -/
  | dmbrx (die k : Nat) (rd : BitVec 5)
  /-- DMBTX (R297). Drone csrrw that sends the buffer as an observation. -/
  | dmbtx (die k : Nat) (rd : BitVec 5) (value : DWord)
  /-- DMBCLOSE (R297). Drone CSR write that closes the selected mailbox with status 2. -/
  | dmbclose (die k : Nat)
  /-- DMBCNT (R297). Drone CSR read of counts and status, checked for binding. -/
  | dmbcnt (die k : Nat) (rd : BitVec 5)
  /-- DRONE_MAILBOX_WAIT_RELEASE (R297). A dmbrx or dmbtx waiting on an empty or full FIFO completes once a message or slot arrives or the mailbox closes. -/
  | droneMailboxWaitRelease (die k : Nat)
  /-- EPISODE_RUNAWAY (R296). The step budget expires while a step is owed; the core stops and its mailboxes close with status 3. -/
  | episodeRunaway (die k : Nat)
  /-- EPISODE_FAULT_STOP (R395). A window refusal or uncorrectable error stops the drone core and closes its mailboxes with status 4. -/
  | episodeFaultStop (die k : Nat) (why : BitVec 8) (off : BitVec 48)
  /-- POWER_GOOD (R336). Power-good starts the Bienos, which verify and distribute the image, train ports and bring the device up. -/
  | powerGood (cxl : List Nat)
  /-- DEVICE_RESET (R340). A device reset clears semaphores, slots and layout registers. -/
  | deviceReset
  /-- BIENO_WATCHDOG_RESET (R400). A Bieno's watchdog resets it, recording 0x1E0 and rolling a layout commit forward. -/
  | bienoWatchdogReset (die : Nat)
  /-- THERMAL_HALT (R400). A die at 115 °C kills every queue with 0x1E2 and halts the device. -/
  | thermalHalt (die : Nat)
  /-- THERMAL_THROTTLE (R400). A die at 105 °C or above holds the package clock at 1.0 GHz. -/
  | thermalThrottle (die : Nat)
  /-- POWER_CAP_CLOCK_STEP (R341). The Bieno lowers or raises the main clock by 100 MHz to hold the power cap. -/
  | powerCapClockStep (up : Bool)
  /-- LINK_PERMIT_MISMATCH (R398). A permit-audit mismatch stops, replays and retrains a link, logged as 0x190. -/
  | linkPermitMismatch (port : Nat) (retrained : Bool)
  /-- BIENO_RESTART (R400). A Bieno that was reset returns to service, so parked lanes and stalled engine threads resume. -/
  | bienoRestart (die : Nat)
  /-- THERMAL_HOLD_END (R400). When no die remains at 105 °C or above, the Bieno stops holding the main clock at 1.0 GHz. -/
  | thermalHoldEnd
  /-- POWER_LOSS (R327). A loss of power ends every tenant's work until the next power-good. -/
  | powerLoss
  deriving DecidableEq, Repr

end Sys2Proof
end

