-- ==== Sys2Proof/Machine/Encoding.lean ====
section
/-!
DEFINITION. The encoding checks of R51 in their order, with the details of R357 and R358: what each instruction word
accepts in each field, written from the encoding tables of the chapters.
-/
namespace Sys2Proof

/-- The kinds of operand of R39: vector, scalar, predicate, mask, result, `zero`, the uniform specials `wid`, `gid`
and `nthr`, the lane specials `lane`, `tid` and `pcv`, and the immediate. -/
inductive Kind where
  | v | s | p | m | q | z | u | l | i
  deriving DecidableEq, Repr

/-- The kind of an operand (R39). -/
def Opnd.kind : Opnd → Kind
  | .v _ => .v | .s _ => .s | .p _ => .p | .m _ => .m | .q _ => .q
  | .zero => .z | .wid => .u | .gid => .u | .nthr => .u
  | .lane => .l | .tid => .l | .pcv => .l | .imm => .i

/-- The width in bits of a type's values (R92, R93). -/
def Ty.width : Ty → Nat
  | .i8 | .n8 | .e4m3 | .e5m2 => 8
  | .i16 | .n16 | .f16 | .bf16 => 16
  | .i64 | .n64 => 64
  | .e2m1 | .e2m1s => 4
  | _ => 32

/-- Whether a type is an integer type (R92). -/
def Ty.isInt : Ty → Bool
  | .i32 | .n32 | .i64 | .n64 | .i16 | .n16 | .i8 | .n8 => true
  | _ => false

/-- Whether a type is a signed integer type (R10). -/
def Ty.signed : Ty → Bool
  | .i32 | .i64 | .i16 | .i8 => true
  | _ => false

/-- Whether a type is a 32- or 64-bit integer type. -/
def Ty.isWide : Ty → Bool
  | .i32 | .n32 | .i64 | .n64 => true
  | _ => false

/-- Whether a type is one of the float types f32, f16, bf16, e4m3, e5m2 and e2m1 (R131). -/
def Ty.isFloat : Ty → Bool
  | .f32 | .f16 | .bf16 | .e4m3 | .e5m2 | .e2m1 => true
  | _ => false

/-- Whether a type code names a floating-point type (R42). -/
def Ty.isFl : Ty → Bool
  | .e2m1s => true
  | t => t.isFloat

/-- The type of a code (R43). -/
def Ty.ofCode (c : BitVec 4) : Ty :=
  match c.toNat with
  | 0 => .i32 | 1 => .n32 | 2 => .i64 | 3 => .n64 | 4 => .i16 | 5 => .n16 | 6 => .i8 | 7 => .n8
  | 8 => .f32 | 9 => .f16 | 10 => .bf16 | 11 => .e4m3 | 12 => .e5m2 | 13 => .e2m1 | 14 => .e2m1s | _ => .reserved

/-- The code of a type (R43). -/
def Ty.code : Ty → BitVec 4
  | .i32 => 0 | .n32 => 1 | .i64 => 2 | .n64 => 3 | .i16 => 4 | .n16 => 5 | .i8 => 6 | .n8 => 7
  | .f32 => 8 | .f16 => 9 | .bf16 => 10 | .e4m3 => 11 | .e5m2 => 12 | .e2m1 => 13 | .e2m1s => 14 | .reserved => 15

/-- The first cause of a list whose condition holds. -/
def firstBad : List (Bool × Cause) → Option Cause
  | [] => none
  | (b, c) :: l => if b then some c else firstBad l

/-! ### F-form -/

/-- What an instruction's description says of its F-form word. A position with no kinds is unused. -/
structure FSpec where
  /-- kinds accepted in d, a, b and c -/
  d : List Kind := []
  a : List Kind := []
  b : List Kind := []
  c : List Kind := []
  /-- the description says scalar-side, whatever the destination (R41) -/
  scalar : Bool := false
  /-- sources a, b and c that are floating-point operands (R42), by the word's type code -/
  fa : Bool := false
  fb : Bool := false
  fc : Bool := false
  /-- fields that name an even pair (R62) -/
  pd : Bool := false
  pa : Bool := false
  pb : Bool := false
  pc : Bool := false
  /-- a destination of the wrong kind for the mode, and the like (0x013) -/
  kindBad : Bool := false
  /-- predicate and non-predicate operands mixed (0x017) -/
  mixed : Bool := false
  /-- a type that the instruction does not accept (0x018) -/
  tyBad : Bool := false
  /-- an undefined code of a modifier or control field (0x019) -/
  codeBad : Bool := false
  /-- stochastic rounding on the scalar side (0x01A) -/
  stoch : Bool := false
  /-- mod[7:4] is named by a field -/
  tyUsed : Bool := false
  /-- the bits of mod[3:0] that a field names -/
  subUsed : BitVec 4 := 0
  /-- the bits of imm13 that a field names -/
  immUsed : BitVec 13 := 0
  /-- another nonzero unused field or bit (0x01B) -/
  restBad : Bool := false
  /-- a place field with col 13 to 15 (0x01C) -/
  placeBad : Bool := false
  /-- the word takes no predicate (0x01D) -/
  noPred : Bool := false

/-- An odd vector register (R62). -/
def Opnd.oddV : Opnd → Bool
  | .v n => n.toNat % 2 == 1
  | _ => false

/-- A field that holds 0. -/
def Opnd.isZeroField (o : Opnd) : Bool := o == .v 0

/-- A word whose d names a scalar register, or whose description says so, is scalar-side (R41). -/
def FSpec.isScalar (sp : FSpec) (f : FWord) : Bool := sp.scalar || sp.d.contains .s && f.d.kind == .s

/-- A source that its position does not accept, the cases of 0x014 and 0x016 apart. -/
def srcBad (sc : Bool) (ks : List Kind) (fl : Bool) (o : Opnd) : Bool :=
  !ks.isEmpty && !ks.contains o.kind && !(fl && o.kind == .i) && !(sc && [Kind.v, .p, .m, .l].contains o.kind)

/-- A lane source in a scalar-side word (0x014). -/
def laneBad (sc : Bool) (ks : List Kind) (o : Opnd) : Bool :=
  sc && !ks.isEmpty && [Kind.v, .p, .m, .l].contains o.kind

/-- A destination that its position does not accept (R40). -/
def dstBad (ks : List Kind) (o : Opnd) : Bool :=
  !ks.isEmpty && (!ks.contains o.kind || o == .p 7)

/-- A nonzero unused field (0x01B). -/
def unusedBad (ks : List Kind) (o : Opnd) : Bool := ks.isEmpty && !o.isZeroField

/-- A used field that names an odd vector register (0x015 at a 64-bit type). -/
def oddBad (ks : List Kind) (o : Opnd) : Bool := !ks.isEmpty && o.oddV
/-- A used field that holds 127 (0x016 for a floating-point operand). -/
def immBad (ks : List Kind) (o : Opnd) : Bool := !ks.isEmpty && o == .imm

/-- How many fields of a word hold 127. -/
def FWord.imms (f : FWord) : Nat := ([f.d, f.a, f.b, f.c].filter (· == .imm)).length

/-- Checks 4, 5 and 6 of R51 on an F-form word, with the details of R357: the lowest detail of the first failing
check. -/
def FSpec.check (sp : FSpec) (f : FWord) : Option Cause :=
  let sc := sp.isScalar f
  let immUsed : BitVec 13 := if f.imms != 0 && sp.immUsed == 0 then 0x1FFF else sp.immUsed
  firstBad
    [ (decide (f.imms > 1) || dstBad sp.d f.d || srcBad sc sp.a sp.fa f.a || srcBad sc sp.b sp.fb f.b
        || srcBad sc sp.c sp.fc f.c || sp.kindBad, 0x013),
      (laneBad sc sp.a f.a || laneBad sc sp.b f.b || laneBad sc sp.c f.c, 0x014),
      (sp.pd && oddBad sp.d f.d || sp.pa && oddBad sp.a f.a || sp.pb && oddBad sp.b f.b || sp.pc && oddBad sp.c f.c, 0x015),
      (sp.fa && immBad sp.a f.a || sp.fb && immBad sp.b f.b || sp.fc && immBad sp.c f.c, 0x016),
      (sp.mixed, 0x017), (sp.tyBad, 0x018), (sp.codeBad, 0x019), (sp.stoch, 0x01A),
      (unusedBad sp.d f.d || unusedBad sp.a f.a || unusedBad sp.b f.b || unusedBad sp.c f.c
        || !sp.tyUsed && f.ty != .i32 || f.sub &&& ~~~sp.subUsed != 0 || f.imm &&& ~~~immUsed != 0 || sp.restBad, 0x01B),
      (sp.placeBad, 0x01C),
      (sp.noPred && (f.pidx != 7 || f.neg), 0x01D) ]

/-- Vector, scalar, `zero`, uniform and lane specials: the register sources of R110. -/
def kR : List Kind := [.v, .s, .z, .u, .l]
/-- The sources of R110 with the immediate. -/
def kRI : List Kind := [.v, .s, .z, .u, .l, .i]
/-- Whether a field names s_k with k above the last that its table allows, so that a record would run past s31. -/
def Opnd.runBad (o : Opnd) (last : Nat) : Bool :=
  match o with
  | .s n => decide (n.toNat > last)
  | _ => false
/-- Vector or scalar register: the destinations of row 1. -/
def kVS : List Kind := [.v, .s]
/-- A scalar register, `zero` or the immediate (R205). -/
def kSZI : List Kind := [.s, .z, .i]

def Ty.is64 (t : Ty) : Bool := t.width == 64

/-! ### Row 0 (R75, R205) -/

def spNone : FSpec := {}
def spBra : FSpec := { immUsed := 0x1FFF }
def spBrc (f : FWord) : FSpec :=
  { a := [.v, .s, .z], fa := f.ty.isFl, pa := f.ty.is64, tyBad := !(f.ty.isWide || f.ty == .f32), tyUsed := true,
    subUsed := 15, codeBad := decide (f.sub.toNat > 5), immUsed := 0x1FFF }
def spBrx : FSpec := { a := kVS, pa := true }
def spRet : FSpec := { a := [.v], pa := true }
def spCall : FSpec := { d := [.v], pd := true, immUsed := 0x1FFF }
def spMaskD : FSpec := { d := [.m] }
def spMwait : FSpec := { a := [.m] }
def spMset : FSpec := { d := [.m], a := [.s, .z, .u, .i], scalar := true }
def spMget : FSpec := { d := [.v, .p], a := [.m] }
def spSer : FSpec := { noPred := true }
/-- `rgn` (R84): a run whose valid bit is 0 has its field and code at 0. -/
def spRgn (f : FWord) : FSpec :=
  let m : BitVec 8 := f.ty.code ++ f.sub
  let on := fun k => f.imm.getLsbD k
  let ks := fun k => if on k then [Kind.v] else []
  { d := ks 0, a := ks 1, b := ks 2, c := ks 3, tyUsed := true, subUsed := 15, immUsed := 15,
    restBad := [0, 1, 2, 3].any (fun k => !on k && (m >>> (2 * k)) &&& 3 != 0) }
def spBar : FSpec := { immUsed := 15 }
/-- `sleep` (R87): an immediate count stands in imm13[11:0]. -/
def spSleep (f : FWord) : FSpec :=
  { a := kSZI, immUsed := if f.a == .imm then 0xFFF else 0 }
def spLnch : FSpec := { a := kSZI, b := kSZI, scalar := true }
def spSemsig : FSpec := { a := kSZI, b := kSZI, scalar := true, subUsed := 1 }
def spSemwt : FSpec := { d := [.s], a := kSZI, b := kSZI, scalar := true }

/-! ### Row 1 (R112) -/

/-- An integer instruction of the sources a, b and c; `cnt` says that b and c are counts (R110). -/
def spInt (n : Nat) (cnt : Bool) (ok : Ty → Bool) (sub : BitVec 4) (f : FWord) : FSpec :=
  let w := f.ty.is64
  let fl := f.ty.isFl
  { d := kVS, a := kRI, b := if n > 1 then kRI else [], c := if n > 2 then kRI else [], fa := fl, fb := fl && !cnt,
    fc := fl && !cnt, pd := w, pa := w, pb := w && !cnt, pc := w && !cnt, tyBad := !ok f.ty, tyUsed := true, subUsed := sub }

/-- The logic instructions (R115): with a predicate destination every source is a predicate and the type is n32. -/
def spLogic (n : Nat) (f : FWord) : FSpec :=
  let w := f.ty.is64
  let ks : List Kind := [.v, .s, .z, .u, .l, .i, .p]
  let srcs := if n > 1 then [f.a, f.b] else [f.a]
  { d := [.v, .s, .p], a := ks, b := if n > 1 then ks else [], fa := f.ty.isFl, fb := f.ty.isFl, pd := w, pa := w, pb := w,
    mixed := if f.d.kind == .p then srcs.any (·.kind != .p) else srcs.any (·.kind == .p),
    tyBad := if f.d.kind == .p then f.ty != .n32 else !f.ty.isInt, tyUsed := true }

def okMov (t : Ty) : Bool := t.isInt || t == .f32
/-- `sel` (R119): f32 is accepted, and field c names p0 to p7. -/
def spSel (f : FWord) : FSpec :=
  let w := f.ty.is64
  let fl := f.ty.isFl
  { d := kVS, a := kRI, b := kRI, c := [.p], fa := fl, fb := fl, pd := w, pa := w, pb := w,
    tyBad := !okMov f.ty, tyUsed := true }
def spCmp (f : FWord) : FSpec :=
  { d := [.p], a := kRI, b := kRI, fa := f.ty.isFl, fb := f.ty.isFl, pa := f.ty.is64, pb := f.ty.is64, tyBad := !f.ty.isInt, tyUsed := true, subUsed := 15,
    codeBad := decide (f.sub.toNat > 5) }
/-- `lea` (R120): the index is one register, and mod[2] is 0 at a 32-bit type. -/
def spLea (f : FWord) : FSpec :=
  let w := f.ty.is64
  { d := kVS, a := kRI, b := kRI, c := kRI, fa := f.ty.isFl, fc := f.ty.isFl, pd := w, pa := w, pc := w, tyBad := !f.ty.isWide, tyUsed := true, subUsed := 7,
    codeBad := f.ty.isWide && !w && f.sub.getLsbD 2 }
/-- `sext` and `zext` (R121): at a 32-bit type the result is an even pair. -/
def spExt (ok : Ty → Bool) (f : FWord) : FSpec :=
  { d := kVS, a := kRI, fa := f.ty.isFl, pd := f.ty.width == 32 || f.ty.is64, pa := f.ty.is64, tyBad := !ok f.ty, tyUsed := true }
def okSext (t : Ty) : Bool := t == .i8 || t == .i16 || t == .i32
def okZext (t : Ty) : Bool := t == .n8 || t == .n16 || t == .n32
def okAbs (t : Ty) : Bool := t.isInt && t.signed

/-! ### Row 2 (R122) -/

def okLane (t : Ty) : Bool := t.isWide || t == .f32
def spMov (f : FWord) : FSpec :=
  { d := kVS, a := kR, fa := f.ty.isFl, pd := f.ty.is64, pa := f.ty.is64, tyBad := !okMov f.ty, tyUsed := true }
def spLi (f : FWord) : FSpec :=
  { d := kVS, a := [.i], fa := f.ty.isFl, pd := f.ty.is64, tyBad := !okMov f.ty, tyUsed := true }
/-- `shfl`, `bcst` and `scan` write a vector register: the table of R122 says only d, and a scalar d, which would make a
lane exchange scalar-side (R41), is refused with 0x013 (DESIGN CHOICE, log 22). -/
def spShfl (f : FWord) : FSpec :=
  { d := [.v], a := [.v], b := kRI, fa := f.ty.isFl, pd := f.ty.is64, pa := f.ty.is64, tyBad := !okLane f.ty,
    tyUsed := true, subUsed := 3 }
def spVote (f : FWord) : FSpec :=
  { d := [.v, .p], a := [.p], subUsed := 3,
    kindBad := (f.d.kind == .v) != (f.sub &&& 3 == 2) }
def spBcst (f : FWord) : FSpec :=
  { d := [.v], a := [.v], b := [.s, .z, .u, .i], fa := f.ty.isFl, pd := f.ty.is64, pa := f.ty.is64, tyBad := !okLane f.ty,
    tyUsed := true }
/-- The op codes of `scan` and `vred`: 6 and 7 are undefined, and 3 to 5 at f32 (R122). -/
def opBad (t : Ty) (op : Nat) : Bool := decide (op > 5) || t == .f32 && decide (op > 2)
/-- `scan` and `vred`: the table of R122 says only a, which may be a register, a special operand or an immediate (DESIGN CHOICE, log 25). -/
def spScan (f : FWord) : FSpec :=
  { d := [.v], a := kRI, fa := f.ty.isFl, pd := f.ty.is64, pa := f.ty.is64, tyBad := !okLane f.ty, tyUsed := true,
    subUsed := 15, codeBad := opBad f.ty (f.sub.toNat % 8) }
def spVred (f : FWord) : FSpec :=
  { d := [.q], a := kRI, fa := f.ty.isFl, pa := f.ty.is64, tyBad := !okLane f.ty, tyUsed := true, subUsed := 7,
    codeBad := opBad f.ty (f.sub.toNat % 8) }
def spQget : FSpec := { d := [.s], a := [.q], b := [.s, .i], scalar := true }
def spElect : FSpec := { d := [.p] }
/-- `vshp` (R129). -/
def spVshp : FSpec := { d := [.v], a := [.v] }

/-! ### Row 3 (R131) and row 4 (R142) -/

/-- An f32 instruction of `n` sources whose rounding codes are those below `rms`; 1 stands for no field, as for `frcp` to
`fcospi`, whose row of R131 says `0 only`: a nonzero mod[2:0] there is an unnamed bit, 0x01B, and no rounding code
(DESIGN CHOICE, log 22). -/
def spF (n rms : Nat) (f : FWord) : FSpec :=
  { d := kVS, a := kR, b := if n > 1 then kR else [], c := if n > 2 then kR else [], fa := true,
    fb := true, fc := true, pd := f.ty.is64, pa := f.ty.is64, pb := f.ty.is64, pc := f.ty.is64, tyBad := f.ty != .f32, tyUsed := true, subUsed := if rms > 1 then 7 else 0,
    codeBad := decide (rms > 1 ∧ f.sub.toNat % 8 ≥ rms) }
def spFcmp (f : FWord) : FSpec :=
  { d := [.p], a := kR, b := kR, fa := true, fb := true, pa := f.ty.is64, pb := f.ty.is64, tyBad := f.ty != .f32, tyUsed := true, subUsed := 7 }
/-- `fcvt` (R131, R139): two types in mod, the rounding code in imm13[2:0]. -/
def spFcvt (f : FWord) : FSpec :=
  let src := Ty.ofCode f.sub
  { d := kVS, a := kR, fa := true, pd := f.ty.is64, pa := src.is64, tyBad := !f.ty.isFloat || !src.isFloat || f.ty == src, tyUsed := true, subUsed := 15,
    immUsed := 7, codeBad := decide (f.imm.toNat % 8 > 5), stoch := f.d.kind == .s && f.imm.toNat % 8 == 5 }
def spF2i (f : FWord) : FSpec :=
  { d := kVS, a := kR, fa := true, pd := f.ty.is64, tyBad := !f.ty.isInt, tyUsed := true, subUsed := 7,
    codeBad := decide (f.sub.toNat % 8 > 5), stoch := f.d.kind == .s && f.sub.toNat % 8 == 5 }
/-- `i2f`: its source is an integer operand, which R132 does not bar from 127; row 3 names no immediate, and the model
accepts imm13 there (DESIGN CHOICE, log 22). -/
def spI2f (f : FWord) : FSpec :=
  { d := kVS, a := kRI, pa := f.ty.is64, tyBad := !f.ty.isInt, tyUsed := true, subUsed := 7,
    codeBad := decide (f.sub.toNat % 8 > 5), stoch := f.d.kind == .s && f.sub.toNat % 8 == 5 }
def spFclass (f : FWord) : FSpec := 
  { d := kVS, a := kR, fa := true, pd := f.ty.is64, pa := f.ty.is64, tyBad := !f.ty.isFloat, tyUsed := true }
def spBexp (f : FWord) : FSpec :=
  { d := kVS, a := kR, b := kR, pd := f.ty.is64, pa := f.ty.is64, pb := f.ty.is64, tyBad := f.ty != .f32, tyUsed := true }
def spBpack (f : FWord) : FSpec :=
  { d := kVS, a := kR, b := kR, fa := true, pd := f.ty.is64, pa := f.ty.is64, pb := f.ty.is64, tyBad := f.ty != .f32,
    tyUsed := true, subUsed := 7, codeBad := decide (f.sub.toNat % 8 > 5), stoch := f.d.kind == .s && f.sub.toNat % 8 == 5 }
def spBscl (f : FWord) : FSpec :=
  { d := [.v], a := kR, fa := true, subUsed := 15, codeBad := f.sub == 0 || decide (f.sub.toNat > 10) }
def spBhdr (f : FWord) : FSpec := { d := kVS, a := kRI, b := kRI, subUsed := 15, codeBad := decide (f.sub.toNat > 10) }
def okNdot : Ty → Bool
  | .i8 | .n8 | .i16 | .n16 | .e4m3 | .e5m2 | .f16 | .bf16 | .e2m1 => true
  | _ => false
def spNdot (f : FWord) : FSpec :=
  let fl := f.ty.isFl
  let w := f.ty.is64
  { d := kVS, a := kR, b := kR, c := kRI, fa := fl, fb := fl, fc := fl, pd := w, pa := w, pb := w, pc := w, tyBad := !okNdot f.ty, tyUsed := true }
def spRnd (f : FWord) : FSpec := { d := [.v], pd := f.ty.is64, tyBad := f.ty != .n32 && f.ty != .f32, tyUsed := true }

/-! ### Row 5 (R164 to R166) -/

/-- The index of a memory operand: with none, the scale field is 0 (R166). -/
def kIdx : List Kind := [.v, .z]
def spLd (hints : Nat) (f : FWord) : FSpec :=
  { d := kVS, a := [.s], b := kIdx, pd := f.ty.is64, tyBad := !f.ty.isInt, tyUsed := true,
    subUsed := if hints > 0 then 15 else 3, codeBad := decide (hints > 0 ∧ f.sub.toNat / 4 ≥ 3), immUsed := 0x1FFF,
    restBad := f.b == .zero && f.sub &&& 3 != 0 }
def spSt (hints : Bool) (f : FWord) : FSpec :=
  { a := [.s], b := kIdx, c := kR, pc := f.ty.is64, tyBad := !f.ty.isInt, tyUsed := true,
    subUsed := if hints then 15 else 3, codeBad := hints && (f.sub.toNat / 4 == 1 || f.sub.toNat / 4 == 3), immUsed := 0x1FFF,
    restBad := f.b == .zero && f.sub &&& 3 != 0 }
/-- The control word of `atom`, `cas` and `red` (R165): ord, scope, sp and scale. -/
def ctlBad (red : Bool) (imm : BitVec 13) : Bool :=
  let ord := imm.toNat % 4
  (red && (ord == 1 || ord == 3)) || decide (imm.toNat / 4 % 8 > 5) || imm.toNat / 32 % 4 == 3
def spAtom (f : FWord) : FSpec :=
  { d := [.v], a := [.s], b := kIdx, c := kR, fc := f.ty.isFl, pd := f.ty.is64, pc := f.ty.is64, tyBad := !okLane f.ty,
    tyUsed := true, subUsed := 15,
    codeBad := decide (f.sub.toNat > 6) || f.ty == .f32 && (f.sub == 3 || f.sub == 4 || f.sub == 5) || ctlBad false f.imm,
    immUsed := 0x1FF, restBad := f.b == .zero && f.imm.toNat / 128 % 4 != 0 }
def spCas (f : FWord) : FSpec :=
  { d := [.v], a := [.s], b := kIdx, c := kR, pd := f.ty.is64, pc := f.ty.is64, tyBad := !f.ty.isWide, tyUsed := true,
    codeBad := ctlBad false f.imm, immUsed := 0x1FF, restBad := f.b == .zero && f.imm.toNat / 128 % 4 != 0 }
def spRed (f : FWord) : FSpec :=
  { a := [.s], b := kIdx, c := kR, fc := f.ty.isFl, pc := f.ty.is64, tyBad := !okLane f.ty, tyUsed := true, subUsed := 15,
    codeBad := opBad f.ty f.sub.toNat || ctlBad true f.imm, immUsed := 0x1FF,
    restBad := f.b == .zero && f.imm.toNat / 128 % 4 != 0 }
/-- `fence` holds ord in mod[1:0], 1 to 3, and scope in mod[4:2], 0 to 5 (R164, R165). -/
def spFence (f : FWord) : FSpec :=
  let m := (f.ty.code ++ f.sub).toNat
  { tyUsed := true, subUsed := 15, codeBad := m % 4 == 0 || decide (m / 4 % 8 > 5), restBad := decide (m / 32 ≠ 0) }
def spPchk (f : FWord) : FSpec :=
  { d := [.p], a := [.s], b := kIdx, subUsed := 3, immUsed := 0x1FFF, restBad := f.b == .zero && f.sub &&& 3 != 0 }
def spPclr (f : FWord) : FSpec :=
  { a := [.s], b := kIdx, subUsed := 3, immUsed := 0x1FFF, restBad := f.b == .zero && f.sub &&& 3 != 0 }
def spPfch (f : FWord) : FSpec :=
  { a := [.s], b := kIdx, subUsed := 15, codeBad := decide (f.sub.toNat / 4 > 1), immUsed := 0x1FFF,
    restBad := f.b == .zero && f.sub &&& 3 != 0 }

/-! ### Rows 6 and 7 (R229, R238, R245): the tables allow s_k to k 26, 27 and 29 -/

/-- `cpy`: a record of six registers (R211, R229). -/
def spCpy (f : FWord) : FSpec := { a := [.s], scalar := true, kindBad := f.a.runBad 26 }
/-- An address in a: a scalar register alone. Whether R41 admits `zero`, `wid`, `gid` or `nthr` for the card of `cjob` and the object of
`cwait` and `cpoll` R229 does not say; they are refused with 0x013 (DESIGN CHOICE, log 25). -/
def spSA : FSpec := { a := [.s], scalar := true }
/-- `cwait` (R229, R231): an immediate target stands in imm13[11:0]; its a and that of `cpoll` as at `spSA` (log 25). -/
def spCwait (f : FWord) : FSpec :=
  { d := [.s], a := [.s], b := [.s, .i], scalar := true, immUsed := if f.b == .imm then 0xFFF else 0 }
def spCpoll : FSpec := { d := [.s], a := [.s], scalar := true }
def spColl (f : FWord) : FSpec :=
  let op := f.sub.toNat / 4
  let kind := f.sub.toNat % 4
  { a := [.s], scalar := true, kindBad := f.a.runBad 27, tyBad := !(okLane f.ty || f.ty == .bf16), tyUsed := true, subUsed := 15,
    codeBad := kind == 3 || op == 3 || kind == 2 && op != 0 }
def spMmac (f : FWord) : FSpec :=
  { a := [.s], scalar := true, kindBad := f.a.runBad 27, tyUsed := true, subUsed := 15, codeBad := f.sub == 0 || f.ty.code == 0,
    immUsed := 0x3F }
def spMzero : FSpec := { scalar := true, immUsed := 15 }
def spMload (f : FWord) : FSpec :=
  { a := [.s, .z], b := [.s, .z], scalar := true, tyBad := !(f.ty == .f32 || f.ty == .f16 || f.ty == .bf16), tyUsed := true,
    immUsed := 15 }
/-- The place field of imm13[8:0] has its column in [3:0] (R48). -/
def placeBad (imm : BitVec 13) : Bool := decide (imm.toNat % 16 ≥ 13)
def spMdrain (f : FWord) : FSpec :=
  let kind := f.imm.toNat / 2048
  { a := [.s], scalar := true, kindBad := f.a.runBad 29, tyUsed := true, subUsed := 15,
    tyBad := if kind == 0 then false else if kind == 1 then !f.ty.isFloat else f.ty != .f32,
    codeBad := kind == 1 && decide (f.imm.toNat % 8 > 5),
    immUsed := if kind == 0 then 0x19FF else if kind == 1 then 0x1807 else 0x1800,
    placeBad := kind == 0 && placeBad f.imm }
def spMstat : FSpec := { d := [.s], scalar := true }

/-! ### Rows 8 and 9 (R263, R286) -/

def spSbind : FSpec := { a := [.s, .z], scalar := true, immUsed := 0xFF }
/-- A coordinate of a pixel is not `pcv` (R263): a source that its position does not accept. -/
def FWord.coordBad (f : FWord) : Bool := f.a == .pcv || f.b == .pcv
def spSld (f : FWord) : FSpec := { d := [.v], a := kR, b := kR, kindBad := f.coordBad, immUsed := 0xFF }
/-- `sst` (R263): N from 1 to 15 in pixel mode, 0 for `.mv` and `.key`; mode 3 is undefined. -/
def spSst (f : FWord) : FSpec :=
  let mode := f.ty.code.toNat % 4
  { a := kR, b := kR, c := kR, kindBad := f.coordBad, tyUsed := true, subUsed := 15, immUsed := 0xFF,
    codeBad := mode == 3 || (mode == 0) == (f.sub == 0), restBad := decide (f.ty.code.toNat / 4 ≠ 0) }
def spSstc (f : FWord) : FSpec := { a := kR, b := kR, c := kR, kindBad := f.coordBad, immUsed := 0xFF }
def spSres (f : FWord) : FSpec :=
  { a := [.s, .z], b := if f.sub &&& 1 == 1 then [] else [.s, .z], scalar := true, subUsed := 1, immUsed := 0xFF }
def spCull (inv : Bool) : FSpec := { d := [.p], a := [.s], b := kR, subUsed := if inv then 1 else 0 }
def spPexp (f : FWord) : FSpec :=
  if f.sub &&& 1 == 1 then { subUsed := 1 } else { a := [.s], b := kR, c := kR, subUsed := 1 }
def spIsect : FSpec := { d := [.v], a := [.v], b := kVS, pb := true }
def spPix : FSpec := { a := kR }
def spFdep : FSpec := { a := kR, fa := true }

/-! ### Rows 10 and 11 (R298, R303, R325, R354) -/

/-- A mailbox number in imm13[9:0] (R298). -/
def mbUsed (o : Opnd) : BitVec 13 := if o == .imm then 0x3FF else 0
def spMbsend (f : FWord) : FSpec :=
  { d := [.s], a := [.s], b := [.s], c := [.s, .i], scalar := true, subUsed := 3, codeBad := decide (f.sub.toNat % 4 > 1),
    immUsed := mbUsed f.c }
def spMbrecv (f : FWord) : FSpec :=
  { d := [.s], a := [.s], b := [.s, .i], scalar := true, subUsed := 3, codeBad := decide (f.sub.toNat % 4 > 1),
    immUsed := mbUsed f.b }
def spMbpoll (f : FWord) : FSpec := { d := [.s], a := [.s, .i], scalar := true, immUsed := mbUsed f.a }
def spMbver : FSpec := { a := [.s, .i], scalar := true }
def spPacc (f : FWord) : FSpec := 
  { a := kVS, b := kVS, fa := true, fb := true, pa := f.ty.is64, pb := f.ty.is64, tyBad := f.ty != .f32, tyUsed := true }
def spPbstat : FSpec := { d := [.s], scalar := true, subUsed := 1 }

/-- The scopes of the control and status registers (R324). -/
inductive CsrScope where
  | warp | lane | context | fn
  deriving DecidableEq, Repr

/-- The scope and width of a register number (R324); none for a number absent from the map. -/
def csrInfo (n : Nat) : Option (CsrScope × Nat) :=
  if n = 0x00 then some (.warp, 64) else if n = 0x01 then some (.lane, 32) else if n = 0x02 then some (.warp, 56)
  else if n = 0x08 then some (.context, 56) else if n = 0x09 then some (.lane, 56) else if n = 0x0A then some (.lane, 9)
  else if 0x10 ≤ n ∧ n ≤ 0x17 then some (.fn, 64) else if 0x18 ≤ n ∧ n ≤ 0x1F then some (.fn, 48)
  else if n = 0x20 then some (.fn, 8) else if n = 0x28 then some (.fn, 64) else none

/-- The register number of a csr word: the whole of mod (R324). -/
def FWord.csr (f : FWord) : Nat := (f.ty.code ++ f.sub).toNat

/-- `csrr` (R325): a lane-scope register takes a vector destination, any other a scalar one. -/
def spCsrr (f : FWord) : FSpec :=
  match csrInfo f.csr with
  | none => { d := kVS, tyUsed := true, subUsed := 15, codeBad := true }
  | some (.lane, w) => { d := [.v], pd := decide (w > 32), tyUsed := true, subUsed := 15 }
  | some (_, _) => { d := [.s], scalar := true, tyUsed := true, subUsed := 15 }

/-- `csrw`, `csrs` and `csrc` (R325). -/
def spCsrw (f : FWord) : FSpec :=
  match csrInfo f.csr with
  | none => { a := kRI, tyUsed := true, subUsed := 15, codeBad := true }
  | some (.lane, w) => { a := kRI, pa := decide (w > 32), tyUsed := true, subUsed := 15 }
  | some (_, _) => { a := [.s, .z, .u, .i], scalar := true, tyUsed := true, subUsed := 15 }
def spTrap : FSpec := { immUsed := 0xFFF }
def spBrk : FSpec := { immUsed := 15 }

/-! ### L-form (R37, R42, R50) -/

/-- Whether an F-form word holds the immediate of an L-form operand of type `t` (R37): imm13 := imm32[12:0], read as
R42 gives, is the same value. -/
def immHeld (t : Ty) (imm : BitVec 32) : Bool :=
  let x : BitVec 64 := (imm.setWidth 13).signExtend 64
  match t with
  | .i64 => x == imm.signExtend 64
  | .n64 => x == imm.setWidth 64
  | .i32 | .n32 => x.setWidth 32 == imm
  | .i16 | .n16 => x.setWidth 16 == imm.setWidth 16
  | .i8 | .n8 => x.setWidth 8 == imm.setWidth 8
  | _ => false

/-- What an instruction's description says of its L-form word; its fields are those of `FSpec`. -/
structure LSpec where
  d : List Kind := []
  a : List Kind := []
  pd : Bool := false
  pa : Bool := false
  held : Bool := false
  mixed : Bool := false
  tyBad : Bool := false
  codeBad : Bool := false
  tyUsed : Bool := false
  subUsed : BitVec 3 := 0

/-- Checks 3 to 6 of R51 on an L-form word: 127 stands in no field (R40). -/
def LSpec.check (sp : LSpec) (f : LWord) : Option Cause :=
  let sc := f.d.kind == .s
  firstBad
    [ (sp.held, 0x012),
      (f.d == .imm || f.a == .imm || dstBad sp.d f.d || srcBad sc sp.a false f.a, 0x013),
      (laneBad sc sp.a f.a, 0x014), (sp.pd && f.d.oddV || sp.pa && f.a.oddV, 0x015), (sp.mixed, 0x017),
      (sp.tyBad, 0x018), (sp.codeBad, 0x019),
      (unusedBad sp.d f.d || unusedBad sp.a f.a || !sp.tyUsed && f.ty != .i32 || f.sub &&& ~~~sp.subUsed != 0, 0x01B) ]

/-- The branch offset is 32 bits, and imm13 sign-extended is what the F-form holds (R76). -/
def offHeld (f : LWord) : Bool := immHeld .i32 f.imm
def lsBra (f : LWord) : LSpec := { held := offHeld f }
def lsBrc (f : LWord) : LSpec :=
  { a := [.v, .s, .z], pa := f.ty.is64, held := offHeld f, tyBad := !(f.ty.isWide || f.ty == .f32), tyUsed := true, subUsed := 7,
    codeBad := decide (f.sub.toNat > 5) }
def lsCall (f : LWord) : LSpec := { d := [.v], pd := true, held := offHeld f }
def lsInt (sub : BitVec 3) (f : LWord) : LSpec :=
  { d := kVS, a := kR, pd := f.ty.is64, pa := f.ty.is64, held := immHeld f.ty f.imm, tyBad := !f.ty.isInt, tyUsed := true,
    subUsed := sub }
def lsLogic (f : LWord) : LSpec :=
  { d := [.v, .s, .p], a := [.v, .s, .z, .u, .l, .p], pd := f.ty.is64, pa := f.ty.is64, held := immHeld f.ty f.imm,
    mixed := f.d.kind == .p || f.a.kind == .p, tyBad := !f.ty.isInt, tyUsed := true }
def lsCmp (f : LWord) : LSpec :=
  { d := [.p], a := kR, pa := f.ty.is64, held := immHeld f.ty f.imm, tyBad := !f.ty.isInt, tyUsed := true, subUsed := 7,
    codeBad := decide (f.sub.toNat > 5) }
/-- `lea` in L-form (R120): imm32 is the index, an operand of 32 bits. -/
def lsLea (f : LWord) : LSpec :=
  { d := kVS, a := kR, pd := f.ty.is64, pa := f.ty.is64, held := immHeld .n32 f.imm, tyBad := !f.ty.isWide, tyUsed := true,
    subUsed := 7, codeBad := f.ty.isWide && !f.ty.is64 && f.sub.getLsbD 2 }
def lsLi (f : LWord) : LSpec :=
  { d := kVS, pd := f.ty.is64, held := immHeld f.ty f.imm, tyBad := !okMov f.ty, tyUsed := true }
def lsF (rms : Nat) (f : LWord) : LSpec :=
  { d := kVS, a := kR, pd := f.ty.is64, pa := f.ty.is64, held := immHeld f.ty f.imm, tyBad := f.ty != .f32, tyUsed := true, subUsed := if rms > 1 then 7 else 0,
    codeBad := decide (rms > 1 ∧ f.sub.toNat ≥ rms) }
def lsFcmp (f : LWord) : LSpec := 
  { d := [.p], a := kR, pa := f.ty.is64, held := immHeld f.ty f.imm, tyBad := f.ty != .f32, tyUsed := true, subUsed := 7 }

/-! ### P-form (R45, R46, R358) -/

/-- Whether a half reads its d register (R45). -/
def HalfOp.readsD : HalfOp → Bool
  | .hnop | .mov => false
  | _ => true

/-- The half-opcodes in the order of their values (R45). -/
def halfOps : List HalfOp :=
  [.hnop, .addI32, .subI32, .and, .or, .xor, .shl, .shr, .sar, .mov, .fadd, .fmul, .fmin, .fmax, .minI32, .maxI32]

def HalfOp.isShift (o : HalfOp) : Bool := o == .shl || o == .shr || o == .sar
def HalfOp.isFloat (o : HalfOp) : Bool := o == .fadd || o == .fmul || o == .fmin || o == .fmax

/-- The registers a half reads (R46). -/
def Half.reads (h : Half) : List Nat :=
  if h.op == .hnop then [] else
  (if h.op.readsD then [h.d.toNat] else []) ++ (match h.s with | .reg n => [n.toNat] | .imm _ => [])

/-- An empty half has every field 0 (R30, R358). -/
def Half.hnopBad (h : Half) : Bool := h.op == .hnop && (h.d != 0 || h.s != .reg 0)
/-- A shift immediate above 31 (0x024). -/
def Half.shiftBad (h : Half) : Bool :=
  h.op.isShift && (match h.s with | .imm x => decide (x.toNat > 31) | .reg _ => false)
/-- A float-half immediate of 0x7F or 0xFF (0x025). -/
def Half.floatBad (h : Half) : Bool :=
  h.op.isFloat && (match h.s with | .imm x => x == 0x7F || x == 0xFF | .reg _ => false)

/-- Both destinations in one bank (0x026). -/
def dstBankBad (h1 h2 : Half) : Bool :=
  h1.op != .hnop && h2.op != .hnop && h1.d.toNat % 4 == h2.d.toNat % 4
/-- A bank read more than twice (0x027). -/
def readBankBad (h1 h2 : Half) : Bool :=
  [0, 1, 2, 3].any (fun b => decide (((h1.reads ++ h2.reads).filter (· % 4 == b)).length > 2))

/-- The first of a list of conditions on the halves: its cause, and the lowest half that breaks it (R358). -/
def firstHalf : List (Bool × Bool × Cause) → Option Illegal
  | [] => none
  | (b1, b2, c) :: l => if b1 then some ⟨c, false⟩ else if b2 then some ⟨c, true⟩ else firstHalf l

/-- Checks 8 to 10 of R51 on a pair. -/
def pairCheck (h1 h2 : Half) : Option Illegal :=
  firstHalf [ (h1.hnopBad, h2.hnopBad, 0x023), (h1.shiftBad, h2.shiftBad, 0x024), (h1.floatBad, h2.floatBad, 0x025),
    (false, dstBankBad h1 h2, 0x026), (false, readBankBad h1 h2, 0x027) ]

end Sys2Proof
end

