-- ==== Sys2Proof/WellFormed.lean ====
section
/-!
DEFINITION. The well-formed instructions: those that no check of R51 refuses. The steps of the other agents are not
words and carry no check.
-/
namespace Sys2Proof

/-- Checks 3 to 10 of R51 on an instruction, with the cause of the first that fails (R357, R358). -/
def Instr.check : Instr → Option Cause
  | .nop f => spNone.check f
  | .bra f => spBra.check f
  | .braL f => (lsBra f).check f
  | .brc f => (spBrc f).check f
  | .brcL f => (lsBrc f).check f
  | .brx f => spBrx.check f
  | .call f => spCall.check f
  | .callL f => (lsCall f).check f
  | .ret f => spRet.check f
  | .exit f => spNone.check f
  | .tail f => spNone.check f
  | .ypt f => spNone.check f
  | .mjoin f => spMaskD.check f
  | .mleave f => spMaskD.check f
  | .mwait f => spMwait.check f
  | .mset f => spMset.check f
  | .mget f => spMget.check f
  | .serb f => spSer.check f
  | .sere f => spSer.check f
  | .rgn f => (spRgn f).check f
  | .bar f => spBar.check f
  | .bara f => spBar.check f
  | .barw f => spBar.check f
  | .sleep f => (spSleep f).check f
  | .lnch f => spLnch.check f
  | .semsig f => spSemsig.check f
  | .semwt f => spSemwt.check f
  | .add f => (spInt 2 false Ty.isInt 1 f).check f
  | .addL f => (lsInt 1 f).check f
  | .sub f => (spInt 2 false Ty.isInt 1 f).check f
  | .subL f => (lsInt 1 f).check f
  | .mul f => (spInt 2 false Ty.isInt 1 f).check f
  | .mulL f => (lsInt 1 f).check f
  | .mulh f => (spInt 2 false Ty.isWide 0 f).check f
  | .mad f => (spInt 3 false Ty.isInt 1 f).check f
  | .div f => (spInt 2 false Ty.isInt 1 f).check f
  | .rem f => (spInt 2 false Ty.isInt 0 f).check f
  | .min f => (spInt 2 false Ty.isInt 0 f).check f
  | .minL f => (lsInt 0 f).check f
  | .max f => (spInt 2 false Ty.isInt 0 f).check f
  | .maxL f => (lsInt 0 f).check f
  | .abs f => (spInt 1 false okAbs 1 f).check f
  | .neg f => (spInt 1 false Ty.isInt 1 f).check f
  | .and f => (spLogic 2 f).check f
  | .andL f => (lsLogic f).check f
  | .or f => (spLogic 2 f).check f
  | .orL f => (lsLogic f).check f
  | .xor f => (spLogic 2 f).check f
  | .xorL f => (lsLogic f).check f
  | .not f => (spLogic 1 f).check f
  | .andn f => (spLogic 2 f).check f
  | .andnL f => (lsLogic f).check f
  | .shl f => (spInt 2 true Ty.isInt 0 f).check f
  | .shr f => (spInt 2 true Ty.isInt 0 f).check f
  | .sar f => (spInt 2 true Ty.isInt 0 f).check f
  | .rot f => (spInt 2 true Ty.isInt 0 f).check f
  | .clz f => (spInt 1 false Ty.isInt 0 f).check f
  | .popc f => (spInt 1 false Ty.isInt 0 f).check f
  | .brev f => (spInt 1 false Ty.isInt 0 f).check f
  | .bfe f => (spInt 3 true Ty.isInt 0 f).check f
  | .bfi f => (spInt 3 true Ty.isInt 0 f).check f
  | .sel f => (spSel f).check f
  | .cmp f => (spCmp f).check f
  | .cmpL f => (lsCmp f).check f
  | .lea f => (spLea f).check f
  | .leaL f => (lsLea f).check f
  | .sext f => (spExt okSext f).check f
  | .zext f => (spExt okZext f).check f
  | .mov f => (spMov f).check f
  | .li f => (spLi f).check f
  | .liL f => (lsLi f).check f
  | .shfl f => (spShfl f).check f
  | .vote f => (spVote f).check f
  | .bcst f => (spBcst f).check f
  | .scan f => (spScan f).check f
  | .vred f => (spVred f).check f
  | .qget f => spQget.check f
  | .elect f => spElect.check f
  | .vshp f => spVshp.check f
  | .fadd f => (spF 2 4 f).check f
  | .faddL f => (lsF 4 f).check f
  | .fsub f => (spF 2 4 f).check f
  | .fsubL f => (lsF 4 f).check f
  | .fmul f => (spF 2 4 f).check f
  | .fmulL f => (lsF 4 f).check f
  | .ffma f => (spF 3 4 f).check f
  | .fdiv f => (spF 2 4 f).check f
  | .fsqrt f => (spF 1 4 f).check f
  | .frcp f => (spF 1 1 f).check f
  | .frsq f => (spF 1 1 f).check f
  | .fexp2 f => (spF 1 1 f).check f
  | .flog2 f => (spF 1 1 f).check f
  | .fsinpi f => (spF 1 1 f).check f
  | .fcospi f => (spF 1 1 f).check f
  | .fmin f => (spF 2 1 f).check f
  | .fminL f => (lsF 1 f).check f
  | .fmax f => (spF 2 1 f).check f
  | .fmaxL f => (lsF 1 f).check f
  | .fcmp f => (spFcmp f).check f
  | .fcmpL f => (lsFcmp f).check f
  | .frnd f => (spF 1 4 f).check f
  | .fcvt f => (spFcvt f).check f
  | .f2i f => (spF2i f).check f
  | .i2f f => (spI2f f).check f
  | .fclass f => (spFclass f).check f
  | .bexp f => (spBexp f).check f
  | .bpack f => (spBpack f).check f
  | .bscl f => (spBscl f).check f
  | .bhdr f => (spBhdr f).check f
  | .ndot f => (spNdot f).check f
  | .rnd f => (spRnd f).check f
  | .ld f => (spLd 1 f).check f
  | .st f => (spSt true f).check f
  | .lsp f => (spLd 0 f).check f
  | .ssp f => (spSt false f).check f
  | .lhv f => (spLd 0 f).check f
  | .shv f => (spSt false f).check f
  | .atom f => (spAtom f).check f
  | .cas f => (spCas f).check f
  | .red f => (spRed f).check f
  | .fence f => (spFence f).check f
  | .pchk f => (spPchk f).check f
  | .pclr f => (spPclr f).check f
  | .pfch f => (spPfch f).check f
  | .cpy f => (spCpy f).check f
  | .cjob f => spSA.check f
  | .cwait f => (spCwait f).check f
  | .cpoll f => spCpoll.check f
  | .coll f => (spColl f).check f
  | .mmac f => (spMmac f).check f
  | .mzero f => spMzero.check f
  | .mload f => (spMload f).check f
  | .mdrain f => (spMdrain f).check f
  | .mstat f => spMstat.check f
  | .sbind f => spSbind.check f
  | .sld f => (spSld f).check f
  | .sst f => (spSst f).check f
  | .sstc f => (spSstc f).check f
  | .sres f => (spSres f).check f
  | .cullbf f => (spCull true).check f
  | .cullfr f => (spCull false).check f
  | .cullsm f => (spCull false).check f
  | .cullhz f => (spCull false).check f
  | .pexp f => (spPexp f).check f
  | .isectb f => spIsect.check f
  | .isectt f => spIsect.check f
  | .pix f => spPix.check f
  | .fdisc f => spNone.check f
  | .fdep f => spFdep.check f
  | .mbsend f => (spMbsend f).check f
  | .mbrecv f => (spMbrecv f).check f
  | .mbpoll f => (spMbpoll f).check f
  | .mbver f => spMbver.check f
  | .pbopen f => spNone.check f
  | .pbx f => spNone.check f
  | .pacc f => (spPacc f).check f
  | .pbstat f => spPbstat.check f
  | .csrr f => (spCsrr f).check f
  | .csrw f => (spCsrw f).check f
  | .csrs f => (spCsrw f).check f
  | .csrc f => (spCsrw f).check f
  | .trap f => spTrap.check f
  | .eret f => spNone.check f
  | .brk f => spBrk.check f
  | .pFormPair h1 h2 => (pairCheck h1 h2).map (·.cause)
  | .illegalWordIssue _ | .faultServiceRewalk _ _ _ | .sleepExpiry _ _ | .laneRestRelease _ _ _
  | .hostMemoryWrite _ _ _ | .hostMemoryRead _ _ _ | .remoteAccess _ _ _ | .rdmaWrite _ _ _ | .rdmaRead _ _ _
  | .rdmaSend _ _ _ | .rdmaFetchAdd _ _ _ | .rdmaCompareSwap _ _ _ _ | .remoteAccessTimeout _ | .l1Eviction _ _ _
  | .registerScrub _ _ _ _ _ | .launchRecordConsume _ | .placeGroup _ | .groupRestore _ | .groupResourceFree _
  | .queueEnable _ _ | .queueDisableKill _ _ | .preemptionRequest _ _ | .preemptionWithdraw _ _
  | .preemptionDeadline _ | .groupSaveWrite _ | .saveOpsTimeout _ | .queueKillComplete _ | .killEngineTimeout _
  | .worldSwitchRequest _ _ | .worldSwitchComplete _ | .revocationStart _ | .revocationSaveTimeout _
  | .revocationComplete _ | .layoutPrepare _ _ | .layoutFlip | .clusterLayoutApply _ | .tlbInvalidate _ _
  | .tlbInvalidateDone | .semaphoreWindowWrite _ _ _ | .mailboxOpen _ _ _ | .mailboxClose _ _ _ | .episodeStart _ _ _
  | .episodeStop _ _ _ | .vfDisable _ _ | .registerWindowWrite _ _ _ | .attest _ | .stageImage _ | .selectSlot _
  | .watchpointArm _ _ | .watchpointDisarm _ _ | .linkLogRead _ | .watchpointHit | .copyPieceLanded _
  | .engineStallResolved _ | .combCollectorMove _ | .jobCardOutputLanded _ | .jobCardDone _ | .collectiveDone _
  | .collectiveRankTimeout _ _ | .mmacCommit _ | .mmacFailure _ | .mdrainDelivery _ | .peerAdd _
  | .resolveTileCoding _ | .mailboxDelivery _ | .drawReprojection _ _ | .drawRasterise _ _ | .pixelGroupPlace _ _
  | .blendApply _ _ | .drawDone _ | .droneInstruction _ _ | .dmbsel _ _ _ | .dmbrx _ _ _ | .dmbtx _ _ _ _
  | .dmbclose _ _ | .dmbcnt _ _ _ | .droneMailboxWaitRelease _ _ | .episodeRunaway _ _ | .episodeFaultStop _ _ _ _
  | .powerGood _ | .deviceReset | .bienoWatchdogReset _ | .thermalHalt _ | .thermalThrottle _ | .powerCapClockStep _
  | .linkPermitMismatch _ _ | .bienoRestart _ | .thermalHoldEnd | .powerLoss => none

/-- A well-formed instruction: no check refuses it. -/
def Instr.wellFormed (i : Instr) : Bool := i.check.isNone

end Sys2Proof
end

