-- ==== Sys2Proof/Decode.lean ====
section
/-!
DEFINITION. The decoder, total on every word, and the encoder: the forms of R35 to R38, the operand fields of R39, the
opcode map of R49 and R50, and the order of the checks of R51.
-/
namespace Sys2Proof

/-! ### Operand fields -/

/-- The operand a field value names (R39). -/
def Opnd.ofField (x : BitVec 7) : Opnd :=
  let n := x.toNat
  if n < 64 then .v (BitVec.ofNat 6 n) else if n < 96 then .s (BitVec.ofNat 5 (n - 64))
  else if n < 104 then .p (BitVec.ofNat 3 (n - 96)) else if h : n < 116 then .m ⟨n - 104, by omega⟩
  else if n < 120 then .q (BitVec.ofNat 2 (n - 116)) else if n = 120 then .zero else if n = 121 then .lane
  else if n = 122 then .tid else if n = 123 then .wid else if n = 124 then .gid else if n = 125 then .nthr
  else if n = 126 then .pcv else .imm

/-- The field value of an operand (R39). -/
def Opnd.field : Opnd → BitVec 7
  | .v n => BitVec.ofNat 7 n.toNat
  | .s n => BitVec.ofNat 7 (64 + n.toNat)
  | .p n => BitVec.ofNat 7 (96 + n.toNat)
  | .m n => BitVec.ofNat 7 (104 + n.val)
  | .q n => BitVec.ofNat 7 (116 + n.toNat)
  | .zero => 120 | .lane => 121 | .tid => 122 | .wid => 123 | .gid => 124 | .nthr => 125 | .pcv => 126 | .imm => 127

/-! ### The opcode map (R49, R50) -/

/-- Row 0 of R49, from offset 0. -/
def rowF0 : List (FWord → Instr) :=
  [.nop, .bra, .brc, .brx, .call, .ret, .exit, .tail, .ypt, .mjoin, .mleave, .mwait, .mset, .mget, .serb, .sere, .rgn, .bar, .bara, .barw, .sleep, .lnch, .semsig, .semwt]
/-- Row 1 of R49, from offset 0. -/
def rowF1 : List (FWord → Instr) :=
  [.add, .sub, .mul, .mulh, .mad, .div, .rem, .min, .max, .abs, .neg, .and, .or, .xor, .not, .andn, .shl, .shr, .sar, .rot, .clz, .popc, .brev, .bfe, .bfi, .sel, .cmp, .lea, .sext, .zext]
/-- Row 2 of R49, from offset 0. -/
def rowF2 : List (FWord → Instr) :=
  [.mov, .li, .shfl, .vote, .bcst, .scan, .vred, .qget, .elect, .vshp]
/-- Row 3 of R49, from offset 0. -/
def rowF3 : List (FWord → Instr) :=
  [.fadd, .fsub, .fmul, .ffma, .fdiv, .fsqrt, .frcp, .frsq, .fexp2, .flog2, .fsinpi, .fcospi, .fmin, .fmax, .fcmp, .frnd, .fcvt, .f2i, .i2f, .fclass]
/-- Row 4 of R49, from offset 0. -/
def rowF4 : List (FWord → Instr) :=
  [.bexp, .bpack, .bscl, .bhdr, .ndot, .rnd]
/-- Row 5 of R49, from offset 0. -/
def rowF5 : List (FWord → Instr) :=
  [.ld, .st, .lsp, .ssp, .lhv, .shv, .atom, .cas, .red, .fence, .pchk, .pclr, .pfch]
/-- Row 6 of R49, from offset 0. -/
def rowF6 : List (FWord → Instr) :=
  [.cpy, .cjob, .cwait, .cpoll, .coll]
/-- Row 7 of R49, from offset 0. -/
def rowF7 : List (FWord → Instr) :=
  [.mmac, .mzero, .mload, .mdrain, .mstat]
/-- Row 8 of R49, from offset 0. -/
def rowF8 : List (FWord → Instr) :=
  [.sbind, .sld, .sst, .sstc, .sres]
/-- Row 9 of R49, from offset 0. -/
def rowF9 : List (FWord → Instr) :=
  [.cullbf, .cullfr, .cullsm, .cullhz, .pexp, .isectb, .isectt, .pix, .fdisc, .fdep]
/-- Row 10 of R49, from offset 0. -/
def rowF10 : List (FWord → Instr) :=
  [.mbsend, .mbrecv, .mbpoll, .mbver, .pbopen, .pbx, .pacc, .pbstat]
/-- Row 11 of R49, from offset 0. -/
def rowF11 : List (FWord → Instr) :=
  [.csrr, .csrw, .csrs, .csrc, .trap, .eret, .brk]

/-- The rows of the map that hold an instruction. -/
def mapF : List (List (FWord → Instr)) :=
  [rowF0, rowF1, rowF2, rowF3, rowF4, rowF5, rowF6, rowF7, rowF8, rowF9, rowF10, rowF11]

/-- The F-form instruction of an opcode slot: row opcode / 32, offset opcode mod 32 (R49). -/
def opF (o : BitVec 9) : Option (FWord → Instr) := (mapF[o.toNat / 32]?).bind (·[o.toNat % 32]?)

/-- The L-form instruction of an opcode slot (R50). -/
def opL (o : BitVec 9) : Option (LWord → Instr) :=
  match o.toNat with
  | 1 => some .braL
  | 2 => some .brcL
  | 4 => some .callL
  | 32 => some .addL
  | 33 => some .subL
  | 34 => some .mulL
  | 39 => some .minL
  | 40 => some .maxL
  | 43 => some .andL
  | 44 => some .orL
  | 45 => some .xorL
  | 47 => some .andnL
  | 58 => some .cmpL
  | 59 => some .leaL
  | 65 => some .liL
  | 96 => some .faddL
  | 97 => some .fsubL
  | 98 => some .fmulL
  | 108 => some .fminL
  | 109 => some .fmaxL
  | 110 => some .fcmpL
  | _ => none

/-! ### Words -/

/-- The F-form fields of a word (R36). -/
def FWord.ofBits (w : BitVec 64) : FWord :=
  { d := Opnd.ofField (w.extractLsb' 46 7), a := Opnd.ofField (w.extractLsb' 39 7), b := Opnd.ofField (w.extractLsb' 32 7),
    c := Opnd.ofField (w.extractLsb' 25 7), neg := w.extractLsb' 24 1 == 1, pidx := w.extractLsb' 21 3,
    ty := Ty.ofCode (w.extractLsb' 17 4), sub := w.extractLsb' 13 4, imm := w.extractLsb' 0 13 }

/-- The F-form word of an opcode (R36). -/
def FWord.bits (o : BitVec 9) (f : FWord) : BitVec 64 :=
  0#2 ++ o ++ f.d.field ++ f.a.field ++ f.b.field ++ f.c.field ++ BitVec.ofBool f.neg ++ f.pidx ++ f.ty.code ++ f.sub ++ f.imm

/-- The L-form fields of a word (R37). -/
def LWord.ofBits (w : BitVec 64) : LWord :=
  { d := Opnd.ofField (w.extractLsb' 46 7), a := Opnd.ofField (w.extractLsb' 39 7), ty := Ty.ofCode (w.extractLsb' 35 4),
    sub := w.extractLsb' 32 3, imm := w.extractLsb' 0 32 }

/-- The L-form word of an opcode (R37). -/
def LWord.bits (o : BitVec 9) (f : LWord) : BitVec 64 :=
  2#2 ++ o ++ f.d.field ++ f.a.field ++ f.ty.code ++ f.sub ++ f.imm

/-- The half-opcode of a value (R45); none for 16 to 127. -/
def HalfOp.ofField (x : BitVec 7) : Option HalfOp := halfOps[x.toNat]?

/-- The value of a half-opcode (R45). -/
def HalfOp.field : HalfOp → BitVec 7
  | .hnop => 0 | .addI32 => 1 | .subI32 => 2 | .and => 3 | .or => 4 | .xor => 5 | .shl => 6 | .shr => 7 | .sar => 8
  | .mov => 9 | .fadd => 10 | .fmul => 11 | .fmin => 12 | .fmax => 13 | .minI32 => 14 | .maxI32 => 15

/-- The half that a 31-bit field holds, its reserved bits apart (R38). -/
def Half.ofBits (o : HalfOp) (x : BitVec 31) : Half :=
  { op := o, d := x.extractLsb' 18 6,
    s := if x.extractLsb' 11 1 == 1 then .imm (x.extractLsb' 0 8) else .reg (x.extractLsb' 12 6) }

/-- The 31-bit field of a half (R38). -/
def Half.bits (h : Half) : BitVec 31 :=
  match h.s with
  | .reg n => h.op.field ++ h.d ++ n ++ 0#4 ++ 0#8
  | .imm x => h.op.field ++ h.d ++ 0#6 ++ 8#4 ++ x

/-- Nonzero hmod[2:0] (0x021). -/
def hmodBad (x : BitVec 31) : Bool := x.extractLsb' 8 3 != 0
/-- Nonzero s with hmod[3] = 1, or nonzero imm8 with hmod[3] = 0 (0x022). -/
def halfFieldBad (x : BitVec 31) : Bool :=
  if x.extractLsb' 11 1 == 1 then x.extractLsb' 12 6 != 0 else x.extractLsb' 0 8 != 0

/-- A decoded word: an instruction, or what makes it illegal. -/
abbrev Decoded := Except Illegal Instr

/-- An instruction whose checks are still to run (R51, checks 3 to 6). -/
def checked (i : Instr) : Decoded :=
  match i.check with
  | none => .ok i
  | some c => .error ⟨c, false⟩

/-- A P-form word (R51, checks 7 to 10). -/
def decodePair (w : BitVec 64) : Decoded :=
  let x1 := w.extractLsb' 31 31
  let x2 := w.extractLsb' 0 31
  match HalfOp.ofField (x1.extractLsb' 24 7), HalfOp.ofField (x2.extractLsb' 24 7) with
  | none, _ => .error ⟨0x020, false⟩
  | some _, none => .error ⟨0x020, true⟩
  | some o1, some o2 =>
    let h1 := Half.ofBits o1 x1
    let h2 := Half.ofBits o2 x2
    match firstHalf [(hmodBad x1, hmodBad x2, 0x021), (halfFieldBad x1, halfFieldBad x2, 0x022)] with
    | some e => .error e
    | none => match pairCheck h1 h2 with
      | some e => .error e
      | none => .ok (.pFormPair h1 h2)

/-- The instruction a fetched word holds, or the outcome of the first check of R51 that fails. -/
def decode (w : BitVec 64) : Decoded :=
  let o := w.extractLsb' 53 9
  match (w.extractLsb' 62 2).toNat with
  | 0 => match opF o with
    | none => .error ⟨0x011, false⟩
    | some k => checked (k (FWord.ofBits w))
  | 1 => decodePair w
  | 2 => match opF o, opL o with
    | none, _ => .error ⟨0x011, false⟩
    | some _, none => .error ⟨0x012, false⟩
    | some _, some k => checked (k (LWord.ofBits w))
  | _ => .error ⟨0x010, false⟩

/-- What the issuing lanes run for a fetched word: its instruction, or the trap of an illegal word (R52). -/
def Decoded.instr : Decoded → Instr
  | .ok i => i
  | .error e => .illegalWordIssue e

/-- The word of an instruction; none for the steps of the other agents, which are not words. -/
def encode : Instr → Option (BitVec 64)
  | .nop f => some (f.bits 0x000)
  | .bra f => some (f.bits 0x001)
  | .braL f => some (f.bits 0x001)
  | .brc f => some (f.bits 0x002)
  | .brcL f => some (f.bits 0x002)
  | .brx f => some (f.bits 0x003)
  | .call f => some (f.bits 0x004)
  | .callL f => some (f.bits 0x004)
  | .ret f => some (f.bits 0x005)
  | .exit f => some (f.bits 0x006)
  | .tail f => some (f.bits 0x007)
  | .ypt f => some (f.bits 0x008)
  | .mjoin f => some (f.bits 0x009)
  | .mleave f => some (f.bits 0x00A)
  | .mwait f => some (f.bits 0x00B)
  | .mset f => some (f.bits 0x00C)
  | .mget f => some (f.bits 0x00D)
  | .serb f => some (f.bits 0x00E)
  | .sere f => some (f.bits 0x00F)
  | .rgn f => some (f.bits 0x010)
  | .bar f => some (f.bits 0x011)
  | .bara f => some (f.bits 0x012)
  | .barw f => some (f.bits 0x013)
  | .sleep f => some (f.bits 0x014)
  | .lnch f => some (f.bits 0x015)
  | .semsig f => some (f.bits 0x016)
  | .semwt f => some (f.bits 0x017)
  | .add f => some (f.bits 0x020)
  | .addL f => some (f.bits 0x020)
  | .sub f => some (f.bits 0x021)
  | .subL f => some (f.bits 0x021)
  | .mul f => some (f.bits 0x022)
  | .mulL f => some (f.bits 0x022)
  | .mulh f => some (f.bits 0x023)
  | .mad f => some (f.bits 0x024)
  | .div f => some (f.bits 0x025)
  | .rem f => some (f.bits 0x026)
  | .min f => some (f.bits 0x027)
  | .minL f => some (f.bits 0x027)
  | .max f => some (f.bits 0x028)
  | .maxL f => some (f.bits 0x028)
  | .abs f => some (f.bits 0x029)
  | .neg f => some (f.bits 0x02A)
  | .and f => some (f.bits 0x02B)
  | .andL f => some (f.bits 0x02B)
  | .or f => some (f.bits 0x02C)
  | .orL f => some (f.bits 0x02C)
  | .xor f => some (f.bits 0x02D)
  | .xorL f => some (f.bits 0x02D)
  | .not f => some (f.bits 0x02E)
  | .andn f => some (f.bits 0x02F)
  | .andnL f => some (f.bits 0x02F)
  | .shl f => some (f.bits 0x030)
  | .shr f => some (f.bits 0x031)
  | .sar f => some (f.bits 0x032)
  | .rot f => some (f.bits 0x033)
  | .clz f => some (f.bits 0x034)
  | .popc f => some (f.bits 0x035)
  | .brev f => some (f.bits 0x036)
  | .bfe f => some (f.bits 0x037)
  | .bfi f => some (f.bits 0x038)
  | .sel f => some (f.bits 0x039)
  | .cmp f => some (f.bits 0x03A)
  | .cmpL f => some (f.bits 0x03A)
  | .lea f => some (f.bits 0x03B)
  | .leaL f => some (f.bits 0x03B)
  | .sext f => some (f.bits 0x03C)
  | .zext f => some (f.bits 0x03D)
  | .mov f => some (f.bits 0x040)
  | .li f => some (f.bits 0x041)
  | .liL f => some (f.bits 0x041)
  | .shfl f => some (f.bits 0x042)
  | .vote f => some (f.bits 0x043)
  | .bcst f => some (f.bits 0x044)
  | .scan f => some (f.bits 0x045)
  | .vred f => some (f.bits 0x046)
  | .qget f => some (f.bits 0x047)
  | .elect f => some (f.bits 0x048)
  | .vshp f => some (f.bits 0x049)
  | .fadd f => some (f.bits 0x060)
  | .faddL f => some (f.bits 0x060)
  | .fsub f => some (f.bits 0x061)
  | .fsubL f => some (f.bits 0x061)
  | .fmul f => some (f.bits 0x062)
  | .fmulL f => some (f.bits 0x062)
  | .ffma f => some (f.bits 0x063)
  | .fdiv f => some (f.bits 0x064)
  | .fsqrt f => some (f.bits 0x065)
  | .frcp f => some (f.bits 0x066)
  | .frsq f => some (f.bits 0x067)
  | .fexp2 f => some (f.bits 0x068)
  | .flog2 f => some (f.bits 0x069)
  | .fsinpi f => some (f.bits 0x06A)
  | .fcospi f => some (f.bits 0x06B)
  | .fmin f => some (f.bits 0x06C)
  | .fminL f => some (f.bits 0x06C)
  | .fmax f => some (f.bits 0x06D)
  | .fmaxL f => some (f.bits 0x06D)
  | .fcmp f => some (f.bits 0x06E)
  | .fcmpL f => some (f.bits 0x06E)
  | .frnd f => some (f.bits 0x06F)
  | .fcvt f => some (f.bits 0x070)
  | .f2i f => some (f.bits 0x071)
  | .i2f f => some (f.bits 0x072)
  | .fclass f => some (f.bits 0x073)
  | .bexp f => some (f.bits 0x080)
  | .bpack f => some (f.bits 0x081)
  | .bscl f => some (f.bits 0x082)
  | .bhdr f => some (f.bits 0x083)
  | .ndot f => some (f.bits 0x084)
  | .rnd f => some (f.bits 0x085)
  | .ld f => some (f.bits 0x0A0)
  | .st f => some (f.bits 0x0A1)
  | .lsp f => some (f.bits 0x0A2)
  | .ssp f => some (f.bits 0x0A3)
  | .lhv f => some (f.bits 0x0A4)
  | .shv f => some (f.bits 0x0A5)
  | .atom f => some (f.bits 0x0A6)
  | .cas f => some (f.bits 0x0A7)
  | .red f => some (f.bits 0x0A8)
  | .fence f => some (f.bits 0x0A9)
  | .pchk f => some (f.bits 0x0AA)
  | .pclr f => some (f.bits 0x0AB)
  | .pfch f => some (f.bits 0x0AC)
  | .cpy f => some (f.bits 0x0C0)
  | .cjob f => some (f.bits 0x0C1)
  | .cwait f => some (f.bits 0x0C2)
  | .cpoll f => some (f.bits 0x0C3)
  | .coll f => some (f.bits 0x0C4)
  | .mmac f => some (f.bits 0x0E0)
  | .mzero f => some (f.bits 0x0E1)
  | .mload f => some (f.bits 0x0E2)
  | .mdrain f => some (f.bits 0x0E3)
  | .mstat f => some (f.bits 0x0E4)
  | .sbind f => some (f.bits 0x100)
  | .sld f => some (f.bits 0x101)
  | .sst f => some (f.bits 0x102)
  | .sstc f => some (f.bits 0x103)
  | .sres f => some (f.bits 0x104)
  | .cullbf f => some (f.bits 0x120)
  | .cullfr f => some (f.bits 0x121)
  | .cullsm f => some (f.bits 0x122)
  | .cullhz f => some (f.bits 0x123)
  | .pexp f => some (f.bits 0x124)
  | .isectb f => some (f.bits 0x125)
  | .isectt f => some (f.bits 0x126)
  | .pix f => some (f.bits 0x127)
  | .fdisc f => some (f.bits 0x128)
  | .fdep f => some (f.bits 0x129)
  | .mbsend f => some (f.bits 0x140)
  | .mbrecv f => some (f.bits 0x141)
  | .mbpoll f => some (f.bits 0x142)
  | .mbver f => some (f.bits 0x143)
  | .pbopen f => some (f.bits 0x144)
  | .pbx f => some (f.bits 0x145)
  | .pacc f => some (f.bits 0x146)
  | .pbstat f => some (f.bits 0x147)
  | .csrr f => some (f.bits 0x160)
  | .csrw f => some (f.bits 0x161)
  | .csrs f => some (f.bits 0x162)
  | .csrc f => some (f.bits 0x163)
  | .trap f => some (f.bits 0x164)
  | .eret f => some (f.bits 0x165)
  | .brk f => some (f.bits 0x166)
  | .pFormPair h1 h2 => some (1#2 ++ h1.bits ++ h2.bits)
  | .illegalWordIssue _ | .faultServiceRewalk _ _ _ | .sleepExpiry _ _ | .laneRestRelease _ _ _
  | .hostMemoryWrite _ _ _ | .hostMemoryRead _ _ _ | .remoteAccess _ _ _ | .rdmaWrite _ _ _ | .rdmaRead _ _ _
  | .rdmaSend _ _ _ | .rdmaFetchAdd _ _ _ | .rdmaCompareSwap _ _ _ _ | .remoteAccessTimeout _ | .l1Eviction _ _ _
  | .registerScrub _ _ _ _ _ | .launchRecordConsume _ | .placeGroup _ | .groupRestore _ | .groupResourceFree _
  | .queueEnable _ _ | .queueDisableKill _ _ | .preemptionRequest _ _ | .preemptionWithdraw _ _
  | .preemptionDeadline _ | .groupSaveWrite _ | .saveOpsTimeout _ | .queueKillComplete _ | .killEngineTimeout _
  | .worldSwitchRequest _ _ | .worldSwitchComplete _ | .revocationStart _ | .revocationSaveTimeout _
  | .revocationComplete _ | .layoutPrepare _ _ | .layoutFlip | .clusterLayoutApply _ | .tlbInvalidate _ _
  | .tlbInvalidateDone | .semaphoreWindowWrite _ _ _ | .mailboxOpen _ _ _ | .mailboxClose _ _ _ | .episodeStart _ _ _
  | .episodeStop _ _ _ | .vfDisable _ _ | .registerWindowWrite _ _ _ | .attest _ | .stageImage _ | .selectSlot _
  | .watchpointArm _ _ | .watchpointDisarm _ _ | .linkLogRead _ | .watchpointHit | .copyPieceLanded _
  | .engineStallResolved _ | .combCollectorMove _ | .jobCardOutputLanded _ | .jobCardDone _ | .collectiveDone _
  | .collectiveRankTimeout _ _ | .mmacCommit _ | .mmacFailure _ | .mdrainDelivery _ | .peerAdd _
  | .resolveTileCoding _ | .mailboxDelivery _ | .drawReprojection _ _ | .drawRasterise _ _ | .pixelGroupPlace _ _
  | .blendApply _ _ | .drawDone _ | .droneInstruction _ _ | .dmbsel _ _ _ | .dmbrx _ _ _ | .dmbtx _ _ _ _
  | .dmbclose _ _ | .dmbcnt _ _ _ | .droneMailboxWaitRelease _ _ | .episodeRunaway _ _ | .episodeFaultStop _ _ _ _
  | .powerGood _ | .deviceReset | .bienoWatchdogReset _ | .thermalHalt _ | .thermalThrottle _ | .powerCapClockStep _
  | .linkPermitMismatch _ _ | .bienoRestart _ | .thermalHoldEnd | .powerLoss => none

/-- The instruction of a table row's bits, numbered as the opcode table numbers them: the bits of the one 64-bit word
from bit 0 upward (R35); none where the decoder refuses the word. -/
def decodeTableWord (_nbits w : Nat) : Option Instr :=
  match decode (BitVec.ofNat 64 w) with
  | .ok i => some i
  | .error _ => none

end Sys2Proof
end

