-- ==== Sys2Proof/Config.lean ====
section
/-!
DEFINITION. What the spec leaves open: constants without a body, so that no proof can see their values. Each is named
in the assumption log.
-/
namespace Sys2Proof

/-- The contents of a configuration image (R337): repair site, comb-store base and size by die, node number, hive MiB by
cluster, power cap, and the Akvar routes: node, port and an alternate port; which of the nodes are hosts (R151). -/
structure SlotImage where
  node : Nat
  repair : List Nat
  combBase : List Nat
  combSize : List Nat
  hive : List Nat
  capW : Option Nat
  routes : List (Nat × Nat × Option Nat)
  hosts : List Nat
  deriving DecidableEq, Repr, Inhabited

namespace Config

/-- Which of the enabled moves step `tick` makes (R404, log 1). -/
opaque pick : Nat → Nat
/-- How many main-clock cycles pass at step `tick` (R404, log 2). -/
opaque elapsed : Nat → Nat
/-- The free values, taken in turn by the counter `Dev.free` (log 2). -/
opaque freeValue : Nat → Nat
/-- The home cluster of a surface tile, by slot and tile (R261, log 5). -/
opaque tileHome : Nat → Nat → Nat
/-- The 64-byte SHAKE256 digest of a text, as a number (R338, log 21). -/
opaque digest : List Byte → Nat
/-- The identity public key, as a number of 1,793 bytes (R338, log 21). -/
opaque identityKey : Nat
/-- The Falcon-1024 signature by the identity key of a text, as 1,280 bytes (R338, log 21). -/
opaque sign : List Byte → Nat

/-- The 64-byte SHAKE256 digest of some number of bytes, given by those that are not 0, as a number (R338, log 21). -/
opaque slotDigest : Nat → List (Nat × Byte) → Nat
/-- Whether a signature, as a number of 1,280 bytes, of a digest verifies against the root key (R336, R338, log 21). -/
opaque verifies : Nat → Nat → Bool
/-- The configuration in an image of some number of bytes, given by those that are not 0 (R337, log 7). -/
opaque slotImage : Nat → List (Nat × Byte) → SlotImage
/-- The bytes behind a CXL port of another package (R151, log 7). -/
opaque farCxl : Nat → Nat → Nat
/-- The L1 set, 0 to 127, of a physical line (R13, log 5). -/
opaque l1Set : Nat → Nat
/-- The logical cluster of a die whose L2 bank is the home of a physical line (R155, log 5). -/
opaque homeCluster : Nat → Nat
/-- The identification registers of a drone core, by core and register number (R287, log 20). -/
opaque droneId : Nat → Nat → Nat

end Config
end Sys2Proof
end

