-- ==== Sys2Proof/Machine/Map.lean ====
section
/-!
DEFINITION. Sparse maps: the one way every sparse piece of state is kept. A map is a list of keys and values with
keys strictly rising and no entry equal to the value of an unlisted key, so equal maps are equal lists.
-/
namespace Sys2Proof

/-- A sparse map from numbers. -/
abbrev SMap (α : Type) := List (Nat × α)

/-- The value at key `k`; `d` is what an unlisted key reads as. -/
def look {α : Type} (d : α) : SMap α → Nat → α
  | [], _ => d
  | (j, v) :: m, k => if j = k then v else look d m k

/-- The entries whose key is not `k`. -/
def drop1 {α : Type} : SMap α → Nat → SMap α
  | [], _ => []
  | (j, v) :: m, k => if j = k then drop1 m k else (j, v) :: drop1 m k

/-- `(k, v)` put before the first larger key. -/
def insert1 {α : Type} : SMap α → Nat → α → SMap α
  | [], k, v => [(k, v)]
  | (j, w) :: m, k, v => if k < j then (k, v) :: (j, w) :: m else (j, w) :: insert1 m k v

/-- Write `v` at key `k`; writing the unlisted value removes the entry. -/
def put {α : Type} [DecidableEq α] (d : α) (m : SMap α) (k : Nat) (v : α) : SMap α :=
  if v = d then drop1 m k else insert1 (drop1 m k) k v

/-- Every listed value changed by `f`; entries that become the unlisted value go. -/
def mapVals {α : Type} [DecidableEq α] (d : α) (f : Nat → α → α) : SMap α → SMap α
  | [] => []
  | (k, v) :: m => if f k v = d then mapVals d f m else (k, f k v) :: mapVals d f m

/-- The listed keys. -/
def keysOf {α : Type} (m : SMap α) : List Nat := m.map (·.1)

/-- The canonical form: keys strictly rising from above `lo`, no entry equal to `d`. -/
def canonFrom {α : Type} [DecidableEq α] (d : α) : Option Nat → SMap α → Bool
  | _, [] => true
  | lo, (k, v) :: m => (match lo with | none => true | some l => decide (l < k)) && decide (v ≠ d) && canonFrom d (some k) m

/-- The canonical form of a map. -/
def canon {α : Type} [DecidableEq α] (d : α) (m : SMap α) : Bool := canonFrom d none m

/-- Memory: a map from addresses to bytes. -/
abbrev Memory := List Host.Cell

/-- What a byte of memory that nothing has written reads as (DESIGN CHOICE, log 3). -/
def unwritten : Byte := 0

/-- One byte of memory. -/
def Memory.byte (m : Memory) (a : Nat) : Byte := look unwritten m a

/-- Write one byte. -/
def Memory.setByte (m : Memory) (a : Nat) (b : Byte) : Memory := put unwritten m a b

/-- The canonical form of memory. -/
def Memory.wf (m : Memory) : Bool := canon unwritten m

/-- `n` bytes from `a`, little-endian (R5). -/
def Memory.read (m : Memory) (a : Nat) : Nat → Nat
  | 0 => 0
  | n + 1 => (Memory.byte m a).toNat + 256 * Memory.read m (a + 1) n

/-- Write the low `n` bytes of `v` at `a`, little-endian (R5). -/
def Memory.write (m : Memory) (a : Nat) : Nat → Nat → Memory
  | 0, _ => m
  | n + 1, v => Memory.write (Memory.setByte m a (BitVec.ofNat 8 v)) (a + 1) n (v / 256)

/-- Write a list of bytes at `a`. -/
def Memory.writeBytes (m : Memory) (a : Nat) : List Byte → Memory
  | [] => m
  | b :: bs => Memory.writeBytes (Memory.setByte m a b) (a + 1) bs

/-- `n` bytes from `a` as a list. -/
def Memory.readBytes (m : Memory) (a : Nat) : Nat → List Byte
  | 0 => []
  | n + 1 => Memory.byte m a :: Memory.readBytes m (a + 1) n

end Sys2Proof
end

