-- ==== Sys2Proof/Machine/State.lean ====
section
/-!
DEFINITION. The state of the part as plain data, and its value right after reset. Sparse pieces are `SMap`s; the value
that an unlisted key stands for is named beside each.
-/
namespace Sys2Proof.Machine

/-- How the machine can stop. It has no constructor: every trap, kill and halt of the spec is a next state. -/
inductive Fault : Type
  deriving DecidableEq, Repr

/-- Why an instruction has no meaning here. -/
inductive Refusal where
  /-- Raised by `exec` for an instruction whose meaning is not written yet. Safe: the run ends there. -/
  | notModelled (mnemonic : String)
  deriving DecidableEq, Repr

/-! ### The memory model (R180 to R191) -/

/-- A thread of R180 and the unit that it stands at: `level` 0 for a lane, 1 for an engine at a core, 2 at a cluster, 3 at a
die, 4 outside the device; `key` is the group of a lane, or the engine's identity. -/
structure Thr where
  level : Nat
  die : Nat
  cl : Nat
  row : Nat
  key : Nat
  warp : Nat
  lane : Nat
  deriving DecidableEq, Repr

/-- A write as the location's order holds it (R157): its identity, its thread, where it stands (see `Dev.past`), the bytes
that it replaced, whether a home-bank operation made it, its release scope (0 none, else scope + 1), and the writes that
happen before it. -/
structure Write where
  id : Nat
  by_ : Thr
  place : Nat
  old : List Byte
  rmw : Bool
  rel : Nat
  before : List Nat
  deriving DecidableEq, Repr

/-- What a thread has of the writes (R182 to R186): those that happen before its next access, those that would happen
before its next release, those that its reads have returned or that it made, and its widest release fence (scope + 1). -/
structure View where
  know : List Nat
  cum : List Nat
  seen : List Nat
  rel : Nat
  deriving DecidableEq, Repr

/-- A thread that has met nothing. -/
def View.init : View := ⟨[], [], [], 0⟩

/-- Where an access lands: a physical address and whether it is performed as streaming, a scratchpad offset, or a hive
address (R150). -/
inductive Loc where
  | g (pa : Nat) (stream : Bool) | sp (off : Nat) | hv (a : Nat)
  deriving DecidableEq, Repr

/-- A plain load of some lanes that has issued and is not yet performed (R186; log 4): the model's own. Its bytes go to `dst` when it is;
`know` and `seen` are what the lanes' read goes behind no more, as at the issue. -/
structure Lag where
  g : Nat
  w : Nat
  lanes : LaneSet
  loc : Loc
  n : Nat
  dst : Opnd
  ty : Ty
  know : List Nat
  seen : List Nat
  deriving DecidableEq, Repr

/-! ### Warps (04) -/

/-- A vector register as its shape tag holds it (R64): one word, a base and a stride, or 32 words. -/
inductive VReg where
  | u (w : Word) | a (b t : Word) | g (ws : List Word)
  deriving DecidableEq, Repr

/-- Why a lane rests at its instruction (R60): the address sum and lines of a presence wait, the result register and
sequence of a `qget`, a home cluster without a free comb segment with the D5 and D6 of its record (R385), the captured payload
of an `mbsend` (R299), or another condition. -/
inductive RestWhy where
  | presence (sum : Nat) (lines : List Nat) | qget (q e : Nat) | segment (home d5 d6 : Nat) | send (bytes : List Byte) | other
  deriving DecidableEq, Repr

/-- What a lane waits for (R57, R60, R204). A resting lane belongs to the arrival `arr` that rested together (R59). -/
inductive Wait where
  | none | mask (m : Nat) | bar (b : Nat) | sleep (till : Nat) | yield | rest (arr : Nat) (why : RestWhy)
  deriving DecidableEq, Repr

/-- A lane parked for the Bieno fault service (R345): its cause, the address to walk again, whether the access writes
or fetches, the D5 and D6 of its record. -/
structure Park where
  cause : Cause
  va : Nat
  write : Bool
  d5 : Nat
  d6 : Nat
  arr : Nat                       -- the sub-warp: the lanes that stopped together
  deriving DecidableEq, Repr

/-- The fragment of a pixel-shader lane (R280, R281). -/
structure Frag where
  x : Nat
  y : Nat
  z : Word
  id : Word
  order : Nat
  colour : Option Word
  disc : Bool
  depth : Word
  deriving DecidableEq, Repr

/-- A warp (R61, R57, R83, R85, R100, R204, R300). -/
structure Warp where
  live : LaneSet
  handler : LaneSet
  bank : LaneSet
  park : SMap (Option Park)       -- none: not parked
  pc : SMap Addr                  -- 0
  epc : SMap Addr                 -- 0
  ecause : SMap Cause             -- 0
  wait : SMap Wait                -- none
  v : SMap VReg                   -- u 0
  prop : SMap (List Word)         -- []: words 0
  s : SMap DWord                  -- 0
  p : SMap LaneSet                -- 0
  m : SMap LaneSet                -- 0
  q : SMap (DWord × BitVec 16)    -- (0, 0)
  rngkey : DWord
  rngctr : SMap Word              -- 0
  drawd : BitVec 56
  draw : Option Nat               -- the current draw (R273), none after pexp.fin
  drawn : List Nat                -- the draws that it takes part in and whose packet it has not closed (R273)
  acc : Word
  rej : Word
  tok : SMap (Option Word)        -- key 16 × lane + barrier; none
  arrived : SMap LaneSet          -- by barrier; empty
  ser : LaneSet                   -- lanes of the open serialisation region still to execute sere (R83)
  left : SMap (Option (Nat × Nat)) -- barrier and counter of a wait that a lane left for a trap (R361); none
  word : SMap DWord               -- the word of each lane's latest issue, for its records (R352); 0
  held : LaneSet                  -- lanes whose trap record is still to be written (R353, R402)
  view : SMap View                -- by lane; View.init
  met : List (Nat × Nat × List Nat) -- accesses of the warp: place, bytes, what happens before a later one there (R184)
  frag : SMap (Option Frag)       -- none
  quad : Nat
  age : Nat
  readySince : Option Nat
  stall : Option (Nat × Addr)     -- what keeps the instruction at a counter from its issue: a tile (R71), or 16 for the warp's
                                  -- instructions that have not completed (R329)
  deriving DecidableEq, Repr

/-! ### Groups, grids and queues (13) -/

/-- A launch record's dwords (R196). -/
structure LaunchRec where
  d0 : DWord
  d1 : DWord
  d2 : DWord
  d3 : DWord
  d4 : DWord
  d5 : DWord
  d6 : DWord
  d7 : DWord
  deriving DecidableEq, Repr

/-- A scratchpad line (R158, R177): its presence bit and its count of outstanding copies. -/
structure Line where
  present : Bool
  count : Nat
  by_ : List Nat                  -- the writes that set its presence, and what happens before them (R190)
  deriving DecidableEq, Repr

/-- A line as it is given to a group. -/
def Line.fresh : Line := ⟨true, 0, []⟩

/-- An accumulator tile: element (i, j) at key 64i + j; +0.0 (R236). -/
abbrev Tile := SMap Word

/-- The causes of a pre-emption request (R403). -/
structure PreReq where
  preq : Bool
  switch : Bool
  revoke : Bool
  requeue : Bool
  deriving DecidableEq, Repr

def PreReq.no : PreReq := ⟨false, false, false, false⟩

/-- A resident group (R55, R199). `gid` is its index in its grid. -/
structure Group where
  id : Nat
  queue : Nat
  grid : Nat
  gid : Nat
  lr : LaunchRec
  vf : Nat
  die : Nat
  cl : Nat
  row : Nat
  warps : List Warp
  scratch : Memory
  lines : SMap Line               -- Line.fresh
  tiles : SMap Tile               -- []
  holds : List (Nat × Nat)        -- (tile, operation): scoreboard entries (R237)
  tileKnow : SMap (List Nat)      -- by tile: the accesses of the operations that have committed to it (R243); []
  gens : SMap Word                -- 0
  pools : List (Nat × Word × List Nat) -- barrier, generation, what its arrivals bring (R86)
  pre : PreReq
  preAt : Nat                     -- when the request was raised
  saving : Option (Nat × Bool)    -- a save in progress: its start, and whether it is forced
  tracker : Bool                  -- a retirement-tracker entry is held (R91)
  tailed : Bool
  freed : Bool                    -- its warp slots are freed (R90)
  pixel : Option (Nat × Nat)      -- placed by a raster unit for this draw and screen tile (R280)
  started : Nat
  ended : Option Nat              -- when its last live thread ended
  discarded : Bool                -- it runs again from its start (R203)
  stall : Option Nat              -- the address at which its save stalls (R402)
  deriving DecidableEq, Repr

/-- A grid (R200, R347). -/
structure Grid where
  id : Nat
  queue : Nat
  lr : LaunchRec
  tvec : BitVec 56
  next : Nat                      -- lowest group index never placed
  again : List Nat                -- discarded indexes to run again (R203)
  deal : Option (Nat × Bool)      -- dealing: the place in `cores` of the next core and whether this round placed; none: refill
  cores : List Nat                -- eligible cores: 8 × logical cluster + row
  freeing : List (Nat × Nat)      -- freeing events (core, time), R200
  finished : SMap (Nat × Nat)     -- by cluster: finished groups and their total cycles (R203)
  know : List Nat                 -- the writes that happen before its accesses (R191, R196)
  deriving DecidableEq, Repr

/-- A saved group in its queue's save area (R202, R204). -/
structure Saved where
  grid : Nat
  gid : Nat
  off : Nat
  len : Nat                       -- the bytes of its save
  kept : List Bool                -- the warps whose records it holds
  head : Bool                     -- requeued by a revocation (R316)
  hold : Option Nat               -- the cluster whose revocation it waits for
  lr : LaunchRec
  core : Nat                      -- the core it left
  ran : Nat                       -- the cycles it ran
  hidden : List Warp              -- by warp: what the save area does not hold (R361, R352, R184)
  pools : List (Nat × Word × List Nat) -- as in the group (R86)
  tileKnow : SMap (List Nat)      -- as in the group (R243)
  lines : SMap Line               -- as in the group: what set their presence (R190)
  pixel : Option (Nat × Nat)      -- of a raster unit's group: its draw and screen tile
  frags : SMap (Option Frag)      -- and its fragments
  deriving DecidableEq, Repr

/-- A hardware queue (R194, R351, R389). -/
structure Queue where
  ring : DWord
  idx : DWord
  ctl : DWord
  save : DWord
  rev : DWord
  seq : Word                      -- trap sequence of the next record
  fill : Nat                      -- save-area fill point
  saved : List Saved
  kill : Option Nat               -- when a kill in progress began
  stall : Option (Nat × Nat)      -- a stalled translation of the distributor: its identity and address (R391)
  deriving DecidableEq, Repr

/-- A queue after reset: qctl.dl is 0x3_0D40 (R194). -/
def Queue.init : Queue :=
  { ring := 0, idx := 0, ctl := 0x30D4000, save := 0, rev := 0, seq := 1, fill := 0, saved := [], kill := none, stall := none }

/-- A die's distributor (R198). -/
structure Dist where
  counts : SMap Nat               -- by class; 0
  last : SMap Nat                 -- by class: the queue that placed last; 0
  deriving DecidableEq, Repr

def Dist.init : Dist := ⟨[], []⟩

/-! ### Engines (15, 17, 18, 21) -/

/-- Where an engine operation was issued (R378). -/
structure Origin where
  g : Nat
  w : Nat
  gid : Nat
  grid : Nat
  queue : Nat
  vf : Nat
  die : Nat
  cl : Nat
  row : Nat
  lanes : LaneSet
  pc : Addr
  word : DWord
  op : Nat                        -- the thread's own identity, an operation's or a draw's; 0 before its fork
  deriving DecidableEq, Repr

/-- What an engine thread does. -/
inductive OpKind where
  /-- a copy (R211): its record, the key, lane and counter of its draws, the expected CRC, the pieces landed -/
  | copy (rec : List DWord) (key : DWord) (lane : Nat) (ctr : Word) (crc : Word) (landed : Nat)
  /-- a job card (R226) with its address after it, and the bytes already landed -/
  | card (rec : List DWord) (landed : Nat)
  /-- a collective (R232) and, once the ranks have met, what this rank receives -/
  | coll (rec : List DWord) (kind op : Nat) (ty : Ty) (got : Option (List Byte))
  /-- a matrix operation (R239): N, M, z, tile, the follower group of a pair and its core, the cycles that it has run without waiting
  (R242), and the K-groups that a read of the array has shown as accumulated (R248) -/
  | mmac (rec : List DWord) (n m : Nat) (z : Bool) (tile : Nat) (follower : Option (Nat × Nat)) (ran shown : Nat)
  /-- a drain (R245): kind, tile, S or peer tile, rounding code, place, draws, the tile once read -/
  | drain (rec : List DWord) (kind tile su rm place : Nat) (key : DWord) (lane : Nat) (ctr : Word) (read : Option Tile)
  /-- a resolve (R268): slot, rectangle, the next tile to visit -/
  | resolve (slot tx0 ty0 tx1 ty1 next : Nat)
  /-- a mailbox delivery (R299): the mailbox and the message it places -/
  | deliver (die box msg : Nat)
  /-- a thread that has only its final arrival left, which has met V = 0 (R378, R380): the level and kind of its writes, what
  it adds, the scratchpad lines that land with it, the length that a card has still to write and where (R382), and the code of its stall -/
  | arrive (level kind n : Nat) (lines : List Nat) (len : Option (Nat × Nat)) (stop : Cause)
  deriving DecidableEq, Repr

/-- An outstanding engine operation: `done` is its completion object, 0 for none; `stall` is the code, D5 and D6 of a
stall (R380). -/
structure Op where
  id : Nat
  src : Origin
  done : Nat
  kind : OpKind
  stall : Option (Cause × Nat × Nat)
  started : Nat
  view : View                     -- its thread's (R188)
  deriving DecidableEq, Repr

/-- A comb-store segment (R221): its writer while open, and its records as (offset, length) in 32-byte units with the
physical address of the owning mapping entry and the slot of its surface, plus 1; 0 for a page of a compressed buffer. -/
structure Seg where
  writer : Option Nat
  isSealed : Bool
  fill : Nat
  recs : List (Nat × Nat × Nat × Nat)
  deriving DecidableEq, Repr

/-! ### Surfaces (18) -/

/-- A surface slot (R249, R260); `desc` is D0, D1 and D2 of its descriptor. -/
structure Slot where
  d0 : DWord
  d1 : DWord
  d2 : DWord
  depth : Nat
  hold : Nat
  qcur : Nat
  spent : Nat
  ncoded : Nat
  deriving DecidableEq, Repr

/-- A staging tile (R261): samples at channel × 256 + 16 × py + px, vectors by motion block, cells at
channel × 16 + cell as the 16 levels of a level-mode cell or none, the staging qp, and its write order. -/
structure Stage where
  slot : Nat
  tile : Nat
  samples : SMap Nat
  vecs : List (Int × Int)
  key : Bool
  cells : SMap (Option (List Int))
  qp : Nat
  order : Nat
  bad : Bool                      -- it cannot be corrected (R385)
  deriving DecidableEq, Repr

/-! ### Draws (20) -/

/-- A clip-space vertex (R274): x, y, z and w in f32. -/
structure Vert where
  x : Word
  y : Word
  z : Word
  w : Word
  deriving DecidableEq, Repr

/-- An exported triangle (R276): its order key (packet, n), id word, original vertices and fan. -/
structure Export where
  packet : Nat
  n : Nat
  id : Word
  verts : List Vert
  fan : List (Vert × Vert × Vert)
  tiles : List Nat
  know : List Nat                 -- the writes that happen before it (R283)
  deriving DecidableEq, Repr

/-- A fragment on its way to the blender (R278 to R281). -/
structure Pending where
  order : Nat
  x : Nat
  y : Nat
  z : Word
  id : Word
  b1 : Word
  b2 : Word
  placed : Bool
  ended : Option (Option Word × Word)   -- colour, if it writes one, and depth
  know : List Nat                 -- the writes that happen before its shading (R283)
  deriving DecidableEq, Repr

/-- A draw (R272, R273, R282, R283). -/
structure Draw where
  id : Nat
  addr : Nat
  desc : List DWord
  vf : Nat
  die : Nat
  queue : Nat
  grid : Nat
  src : Origin
  closed : List Nat               -- closed packets
  counts : SMap Nat               -- exports so far by packet (R276); 0
  exports : List Export
  reproj : List Nat               -- screen tiles reprojected
  hzKnow : SMap (List Nat)        -- by screen tile: the writes of `hz` by its reprojection (R275); []
  rastered : SMap (List (Nat × Nat))  -- by screen tile: exports rasterised
  shaded : List Nat               -- screen tiles whose visibility pixels have been shaded
  frags : SMap (List Pending)     -- by screen tile
  vecsSet : List Nat              -- surface tiles that have received their vectors
  failed : Bool                   -- it counts as closed and applied; its packets export nothing more (R388); with a `stall`, its
                                  -- final arrival is still to be made (R380)
  stall : Option (Cause × Nat × Nat)
  started : Nat
  view : View                     -- its thread's (R283)
  deriving DecidableEq, Repr

/-! ### Drone cores and mailboxes (21) -/

/-- What a drone core waits for (R297). -/
inductive DroneWait where
  | none | rx (rd : BitVec 5) | tx (rd : BitVec 5) (value : DWord)
  deriving DecidableEq, Repr

/-- A drone core (R287, R297, R395). -/
structure Drone where
  base : DWord
  size : DWord
  evf : Nat
  run : Bool                      -- the run bit as last written
  state : Nat
  budget : Nat
  why : Nat
  off : Nat
  pc : DWord
  x : SMap DWord
  f : SMap DWord
  machine : Bool
  csr : SMap DWord
  resv : Option (Nat × Nat)       -- load reservation: physical address and size
  since : Nat                     -- the writes before its episode began, which its fetches see (R289)
  owes : Option Nat
  wait : DroneWait
  sel : Nat
  buf : DWord
  win : DWord
  view : View                     -- its thread's
  deriving DecidableEq, Repr

/-- A drone core after reset. -/
def Drone.init : Drone :=
  { base := 0, size := 0, evf := 0, run := false, state := 0, budget := 0, why := 0, off := 0, pc := 0, x := [], f := [], machine := true,
    csr := [], resv := none, since := 0, owes := none, wait := .none, sel := 0, buf := 0, win := 0, view := View.init }

/-- A mailbox message (R290, R292). -/
structure Msg where
  id : Nat
  bytes : List Byte
  ver : BitVec 16
  placed : Bool
  know : List Nat                 -- what happens before its receive (R191)
  deriving DecidableEq, Repr

/-- A step mailbox (R290). -/
structure Box where
  mvf : Nat
  core : Nat
  isOpen : Bool
  status : Nat
  act : List Msg
  obs : List Msg
  deriving DecidableEq, Repr

/-- A mailbox after reset: closed with status 5. -/
def Box.init : Box := ⟨0, 0, false, 5, [], []⟩

/-! ### Tenants (24) -/

/-- A virtual function's registers (R311) and its event sequence. -/
structure Vf where
  ctl : DWord
  pt : DWord
  ev : DWord
  irq : DWord
  seq : Word                      -- the next event record's number (R318)
  deriving DecidableEq, Repr

/-- A virtual function after reset: wmask 0xFFFF, tc 3 (R311). -/
def Vf.init : Vf := ⟨0x30FFFF, 0, 0, 0, 1⟩

/-- A partition's registers (R312). -/
structure Part where
  gnt : DWord
  mrg : DWord
  deriving DecidableEq, Repr

/-- A cluster's tenancy (R314 to R318). -/
structure Clu where
  resident : Option Nat
  target : Option Nat             -- a world switch in progress
  borrower : Option Nat           -- the partition that borrows it
  revoke : Option Nat             -- when its revocation began
  layout : Option (SMap Part)     -- an old layout it still runs under; none: the live one
  raster : Nat                    -- the core row that its raster unit placed on last (R280)
  kills : List Nat                -- the queues that its revocation killed (R393)
  deriving DecidableEq, Repr

def Clu.init : Clu := ⟨none, none, none, none, none, 0, []⟩

/-! ### The device and its management -/

/-- The configuration of the part (R12, R151, R332, R337) as start-up fixed it. -/
structure Cfg where
  node : Nat
  repair : SMap Nat               -- disabled cluster site by die; 12
  combBase : SMap Nat             -- by die; 0
  combSize : SMap Nat             -- by die; 0
  hive : SMap Nat                 -- hive MiB by cluster; 0
  routes : List Nat
  ports : SMap (Nat × Option Nat) -- by node: the Akvar port of its route, and an alternate (R398); (0, none)
  hosts : List Nat
  cxl : SMap Nat                  -- bytes behind CXL port 2d + h; 0
  deriving DecidableEq, Repr

/-- A device watchpoint (R374). -/
structure Watch where
  hiveSpace : Bool
  addr : Nat
  len : Nat
  queue : Nat
  deriving DecidableEq, Repr

/-- A trap record whose write stalls (R402): where it goes, for which queue and function, the lanes of a warp that it holds
up, whether a kill waits for it (R350), and the engine thread, draw or distributor stall that the service leaves until then
(R353); 0 for none. -/
structure Late where
  id : Nat
  queue : Nat
  vf : Nat
  va : Nat
  bytes : List Byte
  group : Nat
  warp : Nat
  lanes : LaneSet
  kill : Bool
  next : Option Nat               -- the consumer index that the kill moves past (R389)
  op : Nat
  know : List Nat                 -- the writes that happen before it (R376)
  deriving DecidableEq, Repr

/-- A watchpoint hit still to be delivered (R375). -/
structure Hit where
  queue : Nat
  kind : Nat
  d5 : Nat
  d6 : Nat
  ids : List Nat                  -- the write itself (R376): one or more entries of the history
  deriving DecidableEq, Repr

/-- The issue whose instruction `exec` runs: the model's own, set by the fetch (log 9). -/
structure Cur where
  g : Nat
  w : Nat
  lanes : LaneSet
  pc : Addr
  word : DWord
  arr : Nat                       -- the arrival whose rest ends, its issue counted before (R60, R401); 0 for none
  deriving DecidableEq, Repr

/-- An arrival that rests (R60): its lanes complete the instruction that they issued, with the registers as they stood
then (R71). -/
structure Rested where
  arr : Nat
  g : Nat
  w : Nat
  pc : Addr
  word : DWord
  regs : Warp
  why : RestWhy                   -- why it rests now
  policy : BitVec 16              -- `polver` as it stood then (R295)
  deriving DecidableEq, Repr

/-- A translation that a TLB holds (R13, R14, R163): `unit` is a core's 0 to 383, a cluster's from 384 or a die's from 432. -/
structure Tlb where
  unit : Nat
  vf : Nat
  page : Nat                      -- the virtual 4 KiB page that filled it
  leaf : DWord
  level : Nat
  deriving DecidableEq, Repr

/-- The compute side of the part: all that an instruction can reach. -/
structure Dev where
  cfg : Cfg
  now : Nat
  free : Nat
  nextId : Nat
  cur : Option Cur
  rested : List Rested
  past : List Write               -- newest first; places are physical addresses, hive keys and scratchpad keys
  fences : List (Thr × Nat × List Nat) -- the `fence.ar` so far: thread, scope, what happens before (R185)
  lags : List Lag                 -- loads not yet performed, oldest first (R186)
  groups : List Group
  lastWarp : SMap Nat             -- by 4 × core + quadrant: the warp issued last, 64 × group + warp + 1 (R201); 0: none
  grids : List Grid
  queues : SMap Queue             -- Queue.init
  dists : SMap Dist               -- by die; Dist.init
  mem : Memory
  hive : Memory                   -- key 2^22 × cluster + offset
  l1 : SMap Nat                   -- 2^45 × core + line: 0 I, 1 S, 2 E, 3 + queue M, + 2^10 × sectors held,
                                  -- + 2^12 for the next victim of its set (R170)
  tlb : List Tlb
  ibuf : SMap (List (Nat × DWord)) -- physical dword: replaced words and the identity counter then (R54); []
  bad : SMap Bool                 -- granules that cannot be corrected (R371); false
  owner : SMap Nat                -- by physical line, its last writer (R372): 0 none, 1 one without a queue, 2 + queue
  badReg : List (Nat × Nat × Nat × Nat)  -- (group, warp, field, lane); the proposal copy of vN is field 256 + N (R397)
  badTile : List (Nat × Nat)      -- (group, tile)
  tlbinv : DWord
  sems : SMap DWord               -- 0
  semKnow : SMap (List Nat)       -- by semaphore: what happens before a read of it (R191, R207); []
  ops : List Op
  segs : SMap Seg                 -- die × 2^20 + index; free
  slots : SMap (Option Slot)      -- (16 × die + vf) × 256 + slot; none: unbound
  stages : List Stage
  draws : List Draw
  drones : SMap Drone             -- 32 × die + k; Drone.init
  boxes : SMap Box                -- 1024 × die + n; Box.init
  polver : SMap (BitVec 16)       -- 16 × die + vf; 0
  polKnow : SMap (List Nat)       -- 16 × die + vf: what happens before a read of it (R184, R299); []
  vfs : SMap Vf                   -- Vf.init
  parts : SMap Part               -- live; zero
  clus : SMap Clu                 -- Clu.init
  evsel : SMap DWord              -- (16 × die + vf) × 8 + i; 0
  evcnt : SMap (BitVec 48)        -- 0
  evovf : SMap (BitVec 8)         -- 16 × die + vf; 0
  ovfs : SMap (BitVec 16)         -- 16 × die + vf: counters that overflowed in this cycle, and above them those with ie (R323); 0
  odd : SMap Nat                  -- 16 × die + vf: copied bytes not yet counted, below 256 (R320); 0
  watch : SMap (Option Watch)     -- none
  hits : List Hit
  late : List Late
  downDie : List Nat              -- die boundaries that are down (R398)
  downNode : List Nat             -- nodes that do not answer (R373)
  bienoHeld : List Nat            -- dies whose Bieno is held by a reset (R400)
  halted : Bool                   -- after 0x1E2, or without a valid image (R400, R336)
  power : Bool                    -- R327
  flits : SMap (Nat × Nat)        -- Akvar flits sent and received by port; (0, 0)
  deriving DecidableEq, Repr

/-- A link's log (R398, R399). -/
structure Link where
  n190 : Nat
  n191 : Nat
  down : Bool
  retries : Nat
  deriving DecidableEq, Repr

def Link.init : Link := ⟨0, 0, false, 0⟩

/-- The management side of the part, which no instruction reaches. -/
structure Mgmt where
  status : Nat                    -- identity status (R338)
  flash : Memory                  -- xSPI flash bytes (R337)
  slot : Nat                      -- the slot in use
  pages : SMap Memory             -- Bieno mailbox pages by die (R339)
  asked : SMap (Option Nat)       -- a command not yet answered, by die, with its tag
  staged : SMap Part              -- staged layout (R312)
  lgen : Word
  prep : Word
  rej : Bool
  clock : Nat                     -- main clock in MHz (R341)
  capW : Nat                      -- power cap in W
  cap : Nat                       -- the clock the power cap allows, in MHz
  hot : List Nat                  -- dies at or above 105 °C (R400)
  links : SMap Link               -- by port 0 to 27; Link.init
  host : List Byte                -- the last value delivered to a host or remote reader
  rdma : SMap (List (List Byte))  -- received sends by queue pair
  deriving DecidableEq, Repr

/-- A move chosen from outside or queued by the machine: the issue of a warp, the end of an arrival's rest, or another
agent's step. -/
inductive Move where
  | issue (g w : Nat)
  | resume (arr : Nat)
  | event (i : Instr)
  deriving DecidableEq, Repr

/-- The state of the part. -/
structure State where
  dev : Dev
  mg : Mgmt
  agenda : List Move
  tick : Nat
  deriving DecidableEq, Repr

/-! ### Reset -/

/-- The configuration after start-up: the image's contents are not the spec's (log 7). -/
def Cfg.init : Cfg :=
  { node := 1, repair := [], combBase := [], combSize := [], hive := [], routes := [], ports := [], hosts := [], cxl := [] }

/-- The compute side after reset. -/
def Dev.init : Dev :=
  { cfg := Cfg.init, now := 0, free := 0, nextId := 1, cur := none, rested := [], past := [], fences := [], lags := [], groups := [], lastWarp := [], grids := [], queues := [], dists := [],
    mem := [], hive := [], l1 := [], tlb := [], ibuf := [], bad := [], owner := [], badReg := [], badTile := [], tlbinv := 0, sems := [], semKnow := [],
    ops := [], segs := [], slots := [], stages := [], draws := [], drones := [], boxes := [], polver := [], polKnow := [], vfs := [],
    parts := [], clus := [], evsel := [], evcnt := [], evovf := [], ovfs := [], odd := [], watch := [], hits := [], late := [], downDie := [], downNode := [],
    bienoHeld := [], halted := false, power := true, flits := [] }

/-- The management side after reset: status 0 (R336), the clock at 1,700 MHz (R16), the cap at 3,200 W (R341), the
directory's magic, slot A and firmware of major version 3 (R1, R337; logs 7 and 14). -/
def Mgmt.init : Mgmt :=
  { status := 0, flash := Memory.write (Memory.write [] 0 4 0x4C455631) 0x1000 2 3, slot := 0, pages := [], asked := [], staged := [], lgen := 0,
    prep := 0, rej := false, clock := 1700, capW := 3200, cap := 1700, hot := [], links := [], host := [], rdma := [] }

/-- The machine right after reset. -/
def State.reset : State := { dev := Dev.init, mg := Mgmt.init, agenda := [], tick := 0 }

/-- Lift a change of the compute side. -/
def State.onDev (s : State) (f : Dev → Dev) : Host.Outcome State Fault Refusal := .next { s with dev := f s.dev }

/-- Lift a change of both sides. -/
def State.onAll (s : State) (f : Dev → Mgmt → Dev × Mgmt) : Host.Outcome State Fault Refusal :=
  .next { s with dev := (f s.dev s.mg).1, mg := (f s.dev s.mg).2 }

end Sys2Proof.Machine
end

