-- ==== Sys2Proof/Machine/Phys.lean ====
section
/-!
DEFINITION. Memory below the instructions: the physical map (R151), writes at the homes with the watchpoints they hit
(R375), the history of the writes and what a read may return (R157, R180 to R187), event counters and event records (R318 to
R323), page-table walks and TLBs (R153, R163, R364, R365) and the states of L1 lines (R155, R156).
-/
namespace Sys2Proof.Machine

/-- A fault of a lane: its cause and what D5 and D6 of its record hold (R352). -/
structure Flt where
  cause : Cause
  d5 : Nat
  d6 : Nat
  deriving DecidableEq, Repr

/-- A field of `n` bits of a number, from bit `lo`. -/
def bits (x lo n : Nat) : Nat := x / 2 ^ lo % 2 ^ n

/-- The next free value; the counter advances (log 2). -/
def Dev.fresh (d : Dev) : Dev × Nat := ({ d with free := d.free + 1 }, Config.freeValue d.free)

/-- A free bit. -/
def Dev.freeBit (d : Dev) : Dev × Bool := (d.fresh.1, d.fresh.2 % 2 == 1)

/-- The bytes of a number, little-endian. -/
def toBytes : Nat → Nat → List Byte
  | 0, _ => []
  | n + 1, x => BitVec.ofNat 8 x :: toBytes n (x / 256)

/-- The number that little-endian bytes hold. -/
def ofBytes : List Byte → Nat
  | [] => 0
  | b :: bs => b.toNat + 256 * ofBytes bs

/-! ### The physical map (R151) -/

/-- What a physical address names. -/
inductive Place where
  | ram (die : Nat) | window | hole | far (node : Nat)
  deriving DecidableEq, Repr

/-- An address with its own node number replaced by 0 (R151). -/
def Cfg.norm (c : Cfg) (pa : Nat) : Nat := if pa / 2 ^ 44 = c.node then pa % 2 ^ 44 else pa

/-- What an offset of a package's map names; `cxl` gives the bytes behind its CXL ports. -/
def placeIn (cxl : Nat → Nat) (off : Nat) : Place :=
  if off < 2 ^ 40 then (if off % 2 ^ 38 < 192 * 2 ^ 30 then .ram (off / 2 ^ 38) else .hole)
  else if off < 2 ^ 42 then .hole
  else if off < 2 ^ 42 + 2 ^ 30 then .window
  else if off < 2 ^ 43 then .hole
  else
    let die := (off - 2 ^ 43) / 2 ^ 41
    let half := (off - 2 ^ 43) % 2 ^ 41 / 2 ^ 40
    if off % 2 ^ 40 < cxl (2 * die + half) then .ram die else .hole

/-- What a normalised physical address names: another package has the same map, with its own CXL memory; a host node has
none. -/
def Cfg.place (c : Cfg) (pa : Nat) : Place :=
  let node := pa / 2 ^ 44
  if node = 0 then placeIn (look 0 c.cxl) (pa % 2 ^ 44)
  else if c.hosts.contains node then .far node
  else match placeIn (Config.farCxl node) (pa % 2 ^ 44) with
    | .ram _ => .far node
    | p => p

/-- The die boundaries, numbered 0 to 3 as R11 lists them, that traffic from one die to another crosses. -/
def diePath (src dst : Nat) : List Nat :=
  match src, dst with
  | 0, 1 | 1, 0 => [0]
  | 2, 3 | 3, 2 => [1]
  | 0, 2 | 2, 0 => [2]
  | 1, 3 | 3, 1 => [3]
  | 0, 3 => [0, 3]
  | 3, 0 => [1, 2]
  | 1, 2 => [0, 2]
  | 2, 1 => [1, 3]
  | _, _ => []

/-- Why a place does not answer an agent of a die, if so (R373). -/
def Dev.unreached (d : Dev) (die : Nat) (pl : Place) : Option Cause :=
  match pl with
  | .ram h => if (diePath die h).any d.downDie.contains then some 0x180 else none
  | .far n => if d.downNode.contains n then some 0x181 else none
  | _ => none

/-- The die whose L2 performs an access of a die's agent (R152). -/
def homeDie (die : Nat) : Place → Nat
  | .ram h => h
  | _ => die

/-! ### Writes at a home (R375) -/

/-- The identity of a writer, as D5 of a watchpoint record names it (R375). -/
structure Who where
  kind : Nat
  rmw : Bool := false
  tag : Nat := 16
  die : Nat := 0
  cl : Nat := 0
  row : Nat := 0
  queue : Nat := 0
  node : Nat := 0
  noq : Bool := false            -- the writer acts for no queue
  thr : Thr := ⟨3, 0, 0, 0, 0, 0, 0⟩ -- the thread, for the memory model; the device's own writes by default
  rel : Nat := 0                 -- the scope of a release write, plus 1
  before : List Nat := []        -- the writes that happen before it
  words : Bool := false          -- its words of 4 bytes are writes of their own (R187, R188)
  behind : List Nat := []        -- the words that come right behind the newest write there; without `words`, all of it (R157)
  deriving DecidableEq, Repr

/-- The dword D5 of a writer. -/
def Who.word (w : Who) : Nat :=
  w.kind + (if w.rmw then 8 else 0) + w.tag * 2 ^ 4 + w.die * 2 ^ 9 + w.cl * 2 ^ 11 + w.row * 2 ^ 15 + w.queue * 2 ^ 18 + w.node * 2 ^ 26

/-- The hits of a write of `n` bytes (R375), which is the entries `ids` of the history. -/
def Dev.hit (d : Dev) (hive : Bool) (who : Who) (a n : Nat) (ids : List Nat) : List Hit :=
  d.watch.filterMap (fun e => match e.2 with
    | some x => if x.hiveSpace == hive && decide (a < x.addr + x.len) && decide (x.addr < a + n) then
        some ⟨x.queue, who.kind, who.word, a + n % 256 * 2 ^ 56, ids⟩ else none
    | none => none)

/-- Whether an armed range overlaps a physical line, so that no L1 allocates it (R374). -/
def Dev.watched (d : Dev) (line : Nat) : Bool :=
  d.watch.any (fun e => match e.2 with
    | some x => !x.hiveSpace && decide (line * 128 < x.addr + x.len) && decide (x.addr < line * 128 + 128)
    | none => false)

/-- The lines that `n` bytes from `a` touch, for units of `u` bytes. -/
def unitsOf (u a n : Nat) : List Nat :=
  if n = 0 then [] else (List.range ((a + n - 1) / u - a / u + 1)).map (· + a / u)

/-- The units of `u` bytes that `n` bytes from `a` cover whole. -/
def wholeUnits (u a n : Nat) : List Nat := (unitsOf u a n).filter (fun g => decide (a ≤ g * u ∧ g * u + u ≤ a + n))

/-- The words a write replaces stay fetchable by grids that are resident now (R54, log 5). -/
def keepOld (next : Nat) (old new : Memory) (ib : SMap (List (Nat × DWord))) : List Nat → SMap (List (Nat × DWord))
  | [] => ib
  | w :: ws =>
    let o := Memory.read old (8 * w) 8
    let ib := if o = Memory.read new (8 * w) 8 then ib else put [] ib w ((next, BitVec.ofNat 64 o) :: look [] ib w)
    keepOld next old new ib ws

/-- A write of `n` bytes ends the load reservations of drone cores that it overlaps (log 20). -/
def unreserve (pa n : Nat) (ds : SMap Drone) : SMap Drone :=
  mapVals Drone.init (fun _ c => match c.resv with
    | some (a, k) => if a < pa + n ∧ pa < a + k then { c with resv := none } else c
    | none => c) ds

/-- The owner tag that a writer leaves on a line (R372). -/
def Who.owner (w : Who) : Nat := if w.kind ≤ 2 ∧ !w.noq then 2 + w.queue else 1

/-! ### The memory model: what a read may return (R180 to R187)

The order of a location's writes is the order in which they are performed (R157). A read may pass over the newest of them
and return an older one where R186 allows it; which one it returns is a free value. -/

/-- The union of two sets of writes. -/
def uni (a b : List Nat) : List Nat := a ++ b.filter (fun i => !a.contains i)

/-- The place of a hive address and of a scratchpad offset of a group in the history of writes. -/
def hivePlace (a : Nat) : Nat := 2 ^ 60 + a
def scratchPlace (g off : Nat) : Nat := 2 ^ 61 + g * 2 ^ 21 + off

/-- The place of samples: slot `key`, tile, pixel of the tile and channel, two bytes each; and that of the slot's binding, above them. -/
def samplePlace (key tile px ch : Nat) : Nat := 2 ^ 62 + key * 2 ^ 28 + ((tile * 256 + px) * 4 + ch) * 2
def bindPlace (key : Nat) : Nat := 2 ^ 62 + key * 2 ^ 28 + 2 ^ 27

/-- A write whose place is no more: no read meets it. -/
def Write.gone (w : Write) : Write := { w with place := 2 ^ 80, old := [] }

/-- A write with every byte that it replaced in `n` bytes from `a` as 0. -/
def Write.blank (a n : Nat) (w : Write) : Write :=
  { w with old := (List.range w.old.length).map (fun j => if a ≤ w.place + j ∧ w.place + j < a + n then 0 else w.old.getD j 0) }

/-- Whether a write overlaps `n` bytes from `a`, and whether it covers one byte. -/
def Write.spans (w : Write) (a n : Nat) : Bool := decide (w.place < a + n ∧ a < w.place + w.old.length)
def Write.covers (w : Write) (a : Nat) : Bool := w.spans a 1

/-- Whether a scope (0 `.wp` to 5 `.sys`) taken for one thread includes another (R181). -/
def Thr.reaches (s : Nat) (t u : Thr) : Bool :=
  let core := t.die == u.die && t.cl == u.cl && t.row == u.row
  match s with
  | 0 => t.level == 0 && u.level == 0 && t.key == u.key && t.warp == u.warp
  | 1 => decide (t.level ≤ 1 ∧ u.level ≤ 1) && core
  | 2 => decide (t.level ≤ 2 ∧ u.level ≤ 2) && t.die == u.die && t.cl == u.cl
  | 3 => decide (t.level ≤ 3 ∧ u.level ≤ 3) && t.die == u.die
  | 4 => decide (t.level ≤ 3 ∧ u.level ≤ 3)
  | _ => true

/-- Whether two operations meet (R181). -/
def meets (s : Nat) (t : Thr) (r : Nat) (u : Thr) : Bool := t.reaches s u && u.reaches r t

/-- The writes of some identities. -/
def Dev.writesOf (d : Dev) (ids : List Nat) : List Write := d.past.filter (fun w => ids.contains w.id)

/-- What a read that returned some writes gains as an acquire read of a scope: the release writes among them, and those
that a home-bank operation among them follows in its location's order, where the two meet (R182, R183). -/
def Dev.gains (d : Dev) (t : Thr) (s : Nat) (ids : List Nat) : List Nat :=
  let rs := d.writesOf ids
  let from_ := d.past.filter (fun w => w.rel > 0 && meets (w.rel - 1) w.by_ s t
    && rs.any (fun r => r.id == w.id || r.rmw && w.spans r.place r.old.length && (d.past.dropWhile (·.id != r.id)).contains w))
  from_.foldl (fun m w => uni (w.id :: m) w.before) []

/-- A thread gains writes that happen before its next access. -/
def View.gain (v : View) (ids : List Nat) : View := { v with know := uni v.know ids, cum := uni v.cum ids }

/-- An acquire read or fence of a thread, on the writes that some reads returned. -/
def Dev.acquire (d : Dev) (t : Thr) (s : Nat) (ids : List Nat) (v : View) : View := v.gain (d.gains t s ids)

/-- A read of a thread has returned some writes: they happen before its next release (R184). -/
def Dev.observe (d : Dev) (ids : List Nat) (v : View) : View :=
  { v with seen := uni v.seen ids, cum := (d.writesOf ids).foldl (fun m w => uni (uni m [w.id]) w.before) v.cum }

/-- Two views as one: of the lanes of an arrival, which read together. -/
def View.join (v u : View) : View := ⟨uni v.know u.know, uni v.cum u.cum, uni v.seen u.seen, Nat.max v.rel u.rel⟩

/-- What a read is about to return: the bytes, the writes passed over and the writes in view, newest first. -/
structure Glance where
  d : Dev
  bytes : List Byte
  past : List Write
  shown : List Write
  deriving DecidableEq, Repr

/-- One write of the history, from the newest: it may be passed over unless the thread has returned it or a later one at
some byte; a free choice. -/
def Glance.step (a n : Nat) (seen : List Nat) (g : Glance) (w : Write) : Glance :=
  let inRange := (List.range n).map (· + a)
  if seen.contains w.id || inRange.any (fun b => w.covers b && g.shown.any (·.covers b)) then { g with shown := g.shown ++ [w] } else
  let p := g.d.freeBit
  if p.2 then
    { g with
      d := p.1
      bytes := (inRange.zip g.bytes).map (fun e => if w.covers e.1 then w.old.getD (e.1 - w.place) 0 else e.2)
      past := g.past ++ [w] }
  else { g with d := p.1, shown := g.shown ++ [w] }

/-- The writes that the bytes in view stand for. -/
def topWrites (a n : Nat) (ws : List Write) : List Nat :=
  ((List.range n).filterMap (fun i => (ws.find? (·.covers (a + i))).map (·.id))).eraseDups

/-- The second condition of R186: a write that happens before the read is passed over only for one that does not happen
before it. -/
def Glance.lawful (a n : Nat) (know : List Nat) (g : Glance) : Bool :=
  g.past.all (fun h => !know.contains h.id || (List.range n).all (fun i => !h.covers (a + i) ||
    (match g.shown.find? (·.covers (a + i)) with
      | some u => !h.before.contains u.id
      | none => false)))

/-- A read of `n` bytes at a place whose newest contents are `now`, by a thread that knows the writes `know` and must not
go behind `seen`: the bytes, and the writes that they come from (R186, R187). -/
def Dev.glimpse (d : Dev) (know seen : List Nat) (a n : Nat) (now : List Byte) : Dev × List Byte × List Nat :=
  let es := d.past.filter (·.spans a n)
  let g := es.foldl (Glance.step a n seen) ⟨d, now, [], []⟩
  if g.lawful a n know then (g.d, g.bytes, topWrites a n g.shown) else (g.d, now, topWrites a n es)

/-- A write of bytes that comes right behind the newest write there, or is the newest where there is none: the history, and the bytes
that the place holds then; `w.old` is what it held (R157). -/
def slip (past : List Write) (w : Write) (bs : List Byte) : List Write × List Byte :=
  let apart := fun (u : Write) => !u.spans w.place bs.length
  match past.dropWhile apart with
  | [] => (w :: past, bs)
  | u :: rest =>
    let own := List.range bs.length
    let old := own.map (fun i => if u.covers (w.place + i) then u.old.getD (w.place + i - u.place) 0 else w.old.getD i 0)
    let under := (List.range u.old.length).map (fun j =>
      if w.place ≤ u.place + j ∧ u.place + j < w.place + bs.length then bs.getD (u.place + j - w.place) 0 else u.old.getD j 0)
    (past.takeWhile apart ++ { u with old := under } :: { w with old := old } :: rest,
      own.map (fun i => if u.covers (w.place + i) then w.old.getD i 0 else bs.getD i 0))

/-- The part of `n` bytes from `a` that lies in word `u` of 4 bytes: address and length. -/
def wordPart (a n u : Nat) : Nat × Nat := (Nat.max a (4 * u), Nat.min (a + n) (4 * u + 4) - Nat.max a (4 * u))

/-- A write of bytes over `now` enters its location's order: the history, and the bytes that the place holds then. -/
def Dev.enter (d : Dev) (who : Who) (place : Nat) (now bs : List Byte) : List Write × List Byte :=
  let w := fun (past : List Write) (p : Nat) (old : List Byte) => (⟨past.length, who.thr, p, old, who.rmw, who.rel, who.before⟩ : Write)
  if who.words then
    (unitsOf 4 place bs.length).foldl (fun r u =>
      let c := wordPart place bs.length u
      let part := fun (l : List Byte) => (l.drop (c.1 - place)).take c.2
      let q := if who.behind.contains u then slip r.1 (w r.1 c.1 (part now)) (part bs) else (w r.1 c.1 (part now) :: r.1, part bs)
      (q.1, r.2 ++ q.2)) (d.past, [])
  else if who.behind.isEmpty then (w d.past place now :: d.past, bs)
  else slip d.past (w d.past place now) bs

/-- The entries of a later history that an earlier one has not. -/
def newIds (n : Nat) (past : List Write) : List Nat := (List.range (past.length - n)).map (· + n)

/-- Whether a plain write of a thread may come before the newest write there: it is another thread's, is no home-bank operation,
and the thread neither knows it nor has returned it (R157, R186). -/
def Dev.mayTrail (d : Dev) (t : Thr) (know seen : List Nat) (place n : Nat) : Bool :=
  match d.past.find? (·.spans place n) with
  | some u => !u.rmw && u.by_ != t && !know.contains u.id && !seen.contains u.id
  | none => false

/-- A write of bytes at their home: the memory, the words it replaces, the granules it makes good (R371), the L1 copies
it invalidates (R156), the owner tags it leaves (R372), the reservations it ends and the watchpoints it hits (R375). -/
def Dev.poke (d : Dev) (who : Who) (pa : Nat) (bs : List Byte) : Dev :=
  let n := bs.length
  let e := d.enter who pa (Memory.readBytes d.mem pa n) bs
  let m := Memory.writeBytes d.mem pa e.2
  { d with
    mem := m
    past := e.1
    ibuf := if d.groups.isEmpty then d.ibuf else keepOld d.nextId d.mem m d.ibuf (unitsOf 8 pa n)
    bad := (wholeUnits 64 pa n).foldl (fun b g => put false b g false) d.bad
    l1 := d.l1.filter (fun e => !(unitsOf 128 pa n).contains (e.1 % 2 ^ 45))
    owner := (unitsOf 128 pa n).foldl (fun m l => put 0 m l who.owner) d.owner
    drones := unreserve pa n d.drones
    hits := d.hits ++ d.hit false who pa n (newIds d.past.length e.1) }

/-- The key of a hive granule among the bad granules. -/
def hiveGran (g : Nat) : Nat := 2 ^ 60 + g
/-- The key of a scratchpad granule of a group among the bad granules. -/
def scratchGran (gid g : Nat) : Nat := 2 ^ 61 + gid * 2 ^ 20 + g

/-- A write of bytes to hive memory. -/
def Dev.pokeHive (d : Dev) (who : Who) (a : Nat) (bs : List Byte) : Dev :=
  let e := d.enter who (hivePlace a) (Memory.readBytes d.hive a bs.length) bs
  { d with
    hive := Memory.writeBytes d.hive a e.2
    past := e.1
    bad := (wholeUnits 8 a bs.length).foldl (fun b g => put false b (hiveGran g) false) d.bad
    hits := d.hits ++ d.hit true who a bs.length (newIds d.past.length e.1) }

/-- The first physical granule that `n` bytes from `a` touch and that cannot be corrected (R371). -/
def Dev.badAt (d : Dev) (a n : Nat) : Option Nat :=
  ((unitsOf 64 a n).find? (fun g => look false d.bad g)).map (· * 64)

/-! ### Event records and counters (R318 to R323) -/

/-- Whether a physical write of `n` bytes by the device itself lands (R402): a granule that cannot be corrected is not
written in part (R371). -/
def Dev.lands (d : Dev) (die pa n : Nat) : Bool :=
  !(unitsOf 64 (d.cfg.norm pa) n).any (fun g => look false d.bad g && !(wholeUnits 64 (d.cfg.norm pa) n).contains g) && match d.cfg.place (d.cfg.norm pa) with
  | .ram h => (d.unreached die (.ram h)).isNone
  | .far n => d.cfg.routes.contains n && (d.unreached die (.far n)).isNone
  | _ => false

/-- A physical write of the device itself, lost when it does not land (R402). -/
def Dev.send (d : Dev) (who : Who) (pa : Nat) (bs : List Byte) : Dev :=
  if d.lands who.die pa bs.length then d.poke who (d.cfg.norm pa) bs else d

/-- A die's own unit as a writer of records: each of its writes is a release at `.sys` (R318, R339). -/
def deviceWho (die : Nat) : Who := { kind := 2, die := die, noq := true, thr := ⟨3, die, 0, 0, 0, 0, 0⟩, rel := 6 }

/-- Post an event record to a function's ring and then its interrupt word: release writes, the second after the first (R318). -/
def Dev.post (d : Dev) (f kind die : Nat) (d1 d2 : Nat) : Dev :=
  let v := look Vf.init d.vfs f
  let base := bits v.ev.toNat 12 44 * 2 ^ 12
  let size := 2 ^ (bits v.ev.toNat 56 4 + 7)
  let who := { deviceWho die with tag := f }
  let rec_ := toBytes 8 (v.seq.toNat + kind * 2 ^ 32 + die * 2 ^ 40) ++ toBytes 8 d1 ++ toBytes 8 d2 ++ toBytes 8 0
  let n := d.past.length
  let d := if base = 0 then d else d.send who (base + (v.seq.toNat + 2 ^ 32 - 1) % size * 32) rec_
  let d := { d with vfs := put Vf.init d.vfs f { v with seq := v.seq + 1 } }
  let irq := bits v.irq.toNat 2 50 * 4
  if irq = 0 then d else d.send { who with before := newIds n d.past } irq (toBytes 4 (f + kind * 256))

/-- The place of counter `i` of a function on a die. -/
def evKey (die f i : Nat) : Nat := (16 * die + f) * 8 + i

/-- Whether counter `i` counts a source. -/
def Dev.counts (d : Dev) (die f src i : Nat) : Bool :=
  let s := (look (0 : DWord) d.evsel (evKey die f i)).toNat
  s % 256 == src && s.testBit 9

/-- Add `n` events of a source to the counters of a function on a die that select it (R319); overflows are noted until the
cycle ends (R323). -/
def Dev.count (d : Dev) (die f src n : Nat) : Dev :=
  let on := (List.range 8).filter (d.counts die f src)
  if on = [] ∨ n = 0 then d else
  let val := fun i => (look (0 : BitVec 48) d.evcnt (evKey die f i)).toNat + n
  let high := on.filter (fun i => decide (val i ≥ 2 ^ 48))
  let mask := high.foldl (fun (m : BitVec 8) i => m ||| (1#8 <<< i)) 0
  let d1 := { d with evcnt := on.foldl (fun m i => put 0 m (evKey die f i) (BitVec.ofNat 48 (val i))) d.evcnt }
  if high = [] then d1 else
  let ie := (high.filter (fun i => (look (0 : DWord) d.evsel (evKey die f i)).getLsbD 8)).foldl (fun (m : BitVec 8) i => m ||| (1#8 <<< i)) 0
  let k := 16 * die + f
  { d1 with
    evovf := put 0 d1.evovf k (look 0 d1.evovf k ||| mask)
    ovfs := put 0 d1.ovfs k (look 0 d1.ovfs k ||| (ie ++ mask)) }

/-- The overflows of a cycle give one record for each die and function that has one with ie set (R323). -/
def Dev.postOverflows (d : Dev) : Dev :=
  d.ovfs.foldl (fun d e => if e.2.toNat / 256 = 0 then d else d.post (e.1 % 16) 2 (e.1 / 16) (e.2.toNat % 256) 0) { d with ovfs := [] }

/-- Whether some counter of a function on a die selects a source. -/
def Dev.wants (d : Dev) (die f src : Nat) : Bool := (List.range 8).any (d.counts die f src)

/-- The L2 ways that a hive memory of some MiB carves (R159). -/
def carved (mib : Nat) : Nat := if mib = 4 then 0xFF00 else if mib = 2 then 0xF000 else 0

/-- Whether a bank of a device cluster has a way in which function f may allocate (R162). -/
def Dev.mayAllocate (d : Dev) (f c : Nat) : Bool :=
  let mask := (look Vf.init d.vfs f).ctl.toNat % 2 ^ 16
  (List.range 16).any (fun w => mask.testBit w && !(carved (look 0 d.cfg.hive c)).testBit w)

/-- One request at an L2 bank of a die for a sector (R401): code 5, and codes 6 and 7 as the bank's contents, which are
free (log 5), give them; nothing is allocated, and so nothing evicted, where no way is open to f (R162). -/
def Dev.l2 (d : Dev) (die f : Nat) (hive : Bool) (line : Nat := 0) : Dev :=
  let d := d.count die f 5 1
  if hive then d else
  let d := if d.wants die f 6 then (let p := d.freeBit; p.1.count die f 6 (if p.2 then 1 else 0)) else d
  if d.wants die f 7 && d.mayAllocate f (12 * die + Config.homeCluster line % 12) then
    (let p := d.freeBit; p.1.count die f 7 (if p.2 then 1 else 0))
  else d

/-! ### Translation (R153, R163, R364, R365) -/

/-- What an access is for: a load, a store, an atomic at the home, a prefetch or an instruction fetch. -/
inductive Acc where
  | ld (ro : Bool) | st | rmw | pf | fetch
  deriving DecidableEq, Repr

/-- Whether an access writes. -/
def Acc.writes : Acc → Bool
  | .st | .rmw => true
  | _ => false

/-- The outcome of a walk: the leaf and its level, a detail of R364 and the level it stopped at, or the address of an
entry that cannot be corrected, or why an entry's address is refused or does not answer (R151, R373). -/
inductive Walk where
  | leaf (e : DWord) (level : Nat) | stop (detail level : Nat) | lost (pa : Nat) | refused (c : Cause)
  deriving DecidableEq, Repr

def pteV (e : DWord) : Bool := e.getLsbD 0
def pteL (e : DWord) : Bool := e.getLsbD 1
def pteW (e : DWord) : Bool := e.getLsbD 2
def pteX (e : DWord) : Bool := e.getLsbD 3
def pteS (e : DWord) : Bool := e.getLsbD 4
def pteC (e : DWord) : Bool := e.getLsbD 5
def pteP (e : DWord) : Bool := e.getLsbD 6
def pteG64 (e : DWord) : Bool := e.getLsbD 7
def pteOvf (e : DWord) : Nat := bits e.toNat 8 4
/-- PPN as an address. -/
def ptePpn (e : DWord) : Nat := bits e.toNat 12 40 * 2 ^ 12

/-- The index of a virtual address at a level (R153). -/
def pteIndex (va level : Nat) : Nat := bits va (48 - 9 * level) (if level = 0 then 8 else 9)

/-- The bytes that a leaf at a level maps. -/
def pageSize (level : Nat) : Nat := 2 ^ (48 - 9 * level)

/-- The first entry of a G64 run that cannot be read. -/
def g64Bad (d : Dev) (table idx : Nat) : Option Nat := d.badAt (table + 8 * (idx / 16 * 16)) 128

/-- The 16 entries of a G64 run, all identical and 64 KiB aligned (R153). -/
def g64Ok (d : Dev) (table idx : Nat) (e : DWord) : Bool :=
  ptePpn e % 2 ^ 16 == 0 &&
    (List.range 16).all (fun i => Memory.read d.mem (table + 8 * (idx / 16 * 16 + i)) 8 == e.toNat)

/-- The checks of one entry: none to walk on (R364). -/
def entryCheck (d : Dev) (table idx level : Nat) (e : DWord) : Option Walk :=
  if !pteV e then some (.stop 0 level)
  else if pteL e && decide (level < 2) || !pteL e && level == 4 || bits e.toNat 52 12 != 0
      || !pteL e && bits e.toNat 2 10 != 0 || pteL e && pteG64 e && level != 4
      || pteL e && ptePpn e % pageSize level != 0 then some (.stop 2 level)
  else if pteL e && pteG64 e && (g64Bad d table idx).isSome then (g64Bad d table idx).map .lost
  else if pteL e && pteG64 e && !g64Ok d table idx e then some (.stop 3 level)
  else if pteC e && pteP e || (pteC e || pteP e) && pteX e then some (.stop 4 level)
  else if pteL e then some (.leaf e level) else none

/-- Where an agent stands for translation: a core's number below 384, or 384 + die. -/
def atDie (u : Nat) : Nat := if u < 384 then u / 96 else u - 384

/-- Why the walker of a die cannot read an entry at an address, if so (R151, R365, R373). -/
def Dev.entryAway (d : Dev) (die pa : Nat) : Option Cause :=
  match d.cfg.place pa with
  | .hole => some 0x083
  | .window => some 0x083
  | .far n => if d.cfg.routes.contains n then d.unreached die (.far n) else some 0x084
  | .ram h => d.unreached die (.ram h)

/-- Walk from the table at `table` of a level, for an agent of a die; `fuel` is the number of levels left. -/
def walkFrom (d : Dev) (die va : Nat) : Nat → Nat → Nat → Walk
  | 0, _, level => .stop 2 level
  | fuel + 1, table, level =>
    let idx := pteIndex va level
    let a := table + 8 * idx
    match d.entryAway die a, d.badAt a 8 with
    | some c, _ => .refused c
    | none, some _ => .lost a
    | none, none =>
      let e : DWord := BitVec.ofNat 64 (Memory.read d.mem a 8)
      match entryCheck d table idx level e with
      | some r => r
      | none => walkFrom d die va fuel (d.cfg.norm (ptePpn e)) (level + 1)

/-- Walk the page table of a function (R153). -/
def Dev.walk (d : Dev) (die f va : Nat) : Walk :=
  walkFrom d die va 5 (d.cfg.norm (bits (look Vf.init d.vfs f).pt.toNat 12 40 * 2 ^ 12)) 0

/-- The bytes that a leaf maps: 64 KiB for a G64 run. -/
def leafSpan (e : DWord) (level : Nat) : Nat := if pteG64 e then 2 ^ 16 else pageSize level

/-- The TLBs that an agent looks in, each with its entries (R13, R14): a core's and its cluster's, or a die's, whose walkers
serve it. -/
def tlbUnits (u : Nat) : List (Nat × Nat) := if u < 384 then [(u, 128), (384 + u / 8, 4096)] else [(432 + (u - 384), 4096)]

/-- Whether an entry of a TLB covers an address of a function (R163). -/
def Tlb.covers (t : Tlb) (f va : Nat) : Bool := t.vf == f && t.page * 2 ^ 12 / leafSpan t.leaf t.level == va / leafSpan t.leaf t.level

/-- The leaves that the TLBs of an agent may hold for an address (R163). -/
def Dev.tlbFor (d : Dev) (u f va : Nat) : List Walk :=
  (d.tlb.filter (fun t => (tlbUnits u).any (·.1 == t.unit) && t.covers f va)).map (fun t => .leaf t.leaf t.level)

/-- Put a leaf into one TLB; a full one loses an entry, which one is free (log 5). -/
def Dev.fillOne (d : Dev) (f va : Nat) (e : DWord) (l : Nat) (un : Nat × Nat) : Dev :=
  let t : Tlb := ⟨un.1, f, va / 2 ^ 12, e, l⟩
  let own := d.tlb.filter (·.unit == un.1)
  if own.any (fun o => o.leaf == e && o.level == l && o.covers f va) then d
  else if own.length < un.2 then { d with tlb := t :: d.tlb }
  else
    let p := d.fresh
    match own[p.2 % own.length]? with
    | some o => { p.1 with tlb := t :: p.1.tlb.erase o }
    | none => p.1

/-- The TLBs that an agent looked in hold what its walk found; never a walk that ended at V = 0 (R364). -/
def Dev.fill (d : Dev) (u f va : Nat) : Walk → Dev
  | .leaf e l => (tlbUnits u).foldl (fun d un => d.fillOne f va e l un) d
  | _ => d

/-- The walk's outcome, or a leaf that a TLB still holds: free where they differ (R163, log 5). -/
def Dev.lookup (d : Dev) (u f va : Nat) : Dev × Walk :=
  let w := d.walk (atDie u) f va
  let cs := (d.tlbFor u f va).filter (· != w)
  match cs with
  | [] => (d.fill u f va w, w)
  | _ =>
    let p := d.fresh
    match cs[p.2 % (cs.length + 1)]? with
    | some c => (p.1, c)
    | none => (p.1.fill u f va w, w)

/-- What a failed walk raises: class 6 or 7, 0x174 for an entry that cannot be corrected, or what refuses the walker's own
read (R364, R371, R373). -/
def Walk.fault (w : Bool) (sum : Nat) : Walk → Option Flt
  | .leaf .. => none
  | .stop k l => some ⟨BitVec.ofNat 9 ((if w then 0x070 else 0x060) + k), sum, l⟩
  | .lost pa => some ⟨0x174, sum, pa⟩
  | .refused c => some ⟨c, sum, 0⟩

/-- The permission checks of R362 (4) on a leaf for an access at a physical address. -/
def Dev.permit (d : Dev) (f : Nat) (acc : Acc) (e : DWord) (pa : Nat) : Option Cause :=
  let pl := d.cfg.place pa
  if pteOvf e ≠ f then some 0x082
  else if acc.writes && !pteW e then some 0x080
  else if acc == .fetch && !pteX e then some 0x081
  else match pl with
    | .hole => some 0x083
    | .window => some 0x083
    | _ =>
      let out := match pl with
        | .far n => !d.cfg.routes.contains n
        | _ => false
      if out then some 0x084
      else if pteC e then some (if acc.writes then 0x091 else 0x090)
      else if pteP e then some (if acc.writes then 0x093 else 0x092)
      else match pl, acc with
        | .far n, .rmw => if d.cfg.hosts.contains n then some 0x0B0 else none
        | _, _ => none

/-- The physical address that a leaf gives. -/
def leafPa (e : DWord) (level va : Nat) : Nat := ptePpn e + va % leafSpan e level

/-- Translate and check a global address sum of an agent (R362, checks 1, 3 and 4): its normalised physical address and whether the
page is streaming. -/
def Dev.translate (d : Dev) (u f : Nat) (acc : Acc) (sum : Nat) : Dev × Except Flt (Nat × Bool) :=
  if sum ≥ 2 ^ 56 then (d, .error ⟨if acc.writes then 0x071 else 0x061, sum, 0⟩) else
  let p := d.lookup u f sum
  match p.2 with
  | .leaf e l =>
    let pa := d.cfg.norm (leafPa e l sum)
    match p.1.permit f acc e pa with
    | some c => (p.1, .error ⟨c, sum, 0⟩)
    | none => (p.1, .ok (pa, pteS e))
  | w => (p.1, .error ((w.fault acc.writes sum).getD ⟨0x060, sum, 0⟩))

/-! ### L1 lines (R13, R155, R156, R170) -/

/-- What a core's L1 has of a line: its state below bit 10 (0 I, 1 S, 2 E, 3 + queue M), the sectors held in bits 10 and 11,
and bit 12 where the line is the next victim of its set. -/
def Dev.l1At (d : Dev) (core line : Nat) : Nat := look 0 d.l1 (core * 2 ^ 45 + line)

/-- The state of an L1 entry, its sectors, and whether it is the next victim. -/
def l1State (v : Nat) : Nat := v % 2 ^ 10
def l1Sectors (v : Nat) : Nat := v / 2 ^ 10 % 4
def l1Marked (v : Nat) : Bool := v.testBit 12

/-- Whether an entry of the L1s stands in the set of a line at a core. -/
def l1SameSet (core line : Nat) (e : Nat × Nat) : Bool :=
  e.1 / 2 ^ 45 == core && Config.l1Set (e.1 % 2 ^ 45) % 128 == Config.l1Set line % 128

/-- Whether another L1 holds the line. -/
def Dev.shared (d : Dev) (core line : Nat) : Bool :=
  d.l1.any (fun e => e.1 % 2 ^ 45 == line && e.1 / 2 ^ 45 != core)

/-- Every other holder of a line becomes S. -/
def Dev.share (d : Dev) (core line : Nat) : Dev :=
  { d with l1 := d.l1.map (fun e =>
      if e.1 % 2 ^ 45 == line && e.1 / 2 ^ 45 != core then (e.1, e.2 - l1State e.2 + 1) else e) }

/-- Every L1 copy of a line is invalidated, an M line written back first. -/
def Dev.recall (d : Dev) (line : Nat) : Dev := { d with l1 := d.l1.filter (fun e => e.1 % 2 ^ 45 != line) }

/-- Every L1 copy of the lines that `n` bytes touch is invalidated. -/
def Dev.recallAll (d : Dev) (a n : Nat) : Dev := (unitsOf 128 a n).foldl Dev.recall d

/-- Room for a line in its set of 12 ways: a full set loses its next victim, or a line of the L1's choice, which is free
(R13, R170; log 5). -/
def Dev.l1Room (d : Dev) (core line : Nat) : Dev :=
  let es := d.l1.filter (l1SameSet core line)
  if d.l1At core line ≠ 0 ∨ es.length < 12 then d else
  match es.find? (fun e => l1Marked e.2) with
  | some e => { d with l1 := drop1 d.l1 e.1 }
  | none =>
    let p := d.fresh
    match es[p.2 % es.length]? with
    | some e => { p.1 with l1 := drop1 p.1.l1 e.1 }
    | none => p.1

/-- Mark a line that an L1 holds as the next victim of its set, and no other line of it (R170). -/
def Dev.l1Mark (d : Dev) (core line : Nat) : Dev :=
  let v := d.l1At core line
  if v = 0 then d else
  let m := d.l1.map (fun e => if l1SameSet core line e && l1Marked e.2 then (e.1, e.2 - 2 ^ 12) else e)
  { d with l1 := put 0 m (core * 2 ^ 45 + line) (v % 2 ^ 12 + 2 ^ 12) }

/-- A core holds a line in a state, with one more sector. -/
def Dev.hold (d : Dev) (core line st sect : Nat) : Dev :=
  let d := d.l1Room core line
  let v := d.l1At core line
  { d with l1 := put 0 d.l1 (core * 2 ^ 45 + line) (st + (l1Sectors v ||| 2 ^ sect) * 2 ^ 10 + (if l1Marked v then 2 ^ 12 else 0)) }

/-- In what state a core holds the sector of an address; 0 where it does not. -/
def Dev.holds (d : Dev) (core pa : Nat) : Nat :=
  let v := d.l1At core (pa / 128)
  if (l1Sectors v).testBit (pa / 64 % 2) then l1State v else 0

/-- Whether a core may evict a line of its own choice: not while its set has a next victim other than it (R170). -/
def Dev.mayEvict (d : Dev) (core line : Nat) : Bool :=
  l1Marked (d.l1At core line) || !d.l1.any (fun e => l1SameSet core line e && l1Marked e.2)

/-- A miss in the L1 of a core of a die (R401, codes 4 and 5). -/
def Dev.l1Miss (d : Dev) (die home f : Nat) (line : Nat := 0) : Dev := (d.count die f 4 1).l2 home f false line

/-- The L1 actions of a load of a cached line (R156); `first` says that the instruction has not touched the sector before. -/
def Dev.l1Load (d : Dev) (die core f : Nat) (ro first : Bool) (pa : Nat) : Dev :=
  let line := pa / 128
  if d.holds core pa ≠ 0 then d else
  let d := if first then d.l1Miss die (homeDie die (d.cfg.place pa)) f line else d
  let st := l1State (d.l1At core line)
  if st ≠ 0 then d.hold core line st (pa / 64 % 2)
  else if d.shared core line then (d.share core line).hold core line 1 (pa / 64 % 2)
  else d.hold core line (if ro then 1 else 2) (pa / 64 % 2)

/-- A store that hits the line in E or M stays in the L1: it makes good a granule whose home copy cannot be corrected, since
the line's write-back replaces it whole (R156, R371). -/
def Dev.l1Heal (d : Dev) (core pa : Nat) : Dev :=
  if d.holds core pa ≥ 2 then { d with bad := put false d.bad (pa / 64) false } else d

/-- The L1 actions of a store of a queue to a cached line, its write and its miss apart (R156). -/
def Dev.l1Store (d : Dev) (core queue : Nat) (pa : Nat) (write : Dev → Dev) : Dev :=
  let line := pa / 128
  let had := d.l1At core line
  let d := d.l1Heal core pa
  let d := (write d).l1Room core line
  { d with l1 := put 0 d.l1 (core * 2 ^ 45 + line) (3 + queue + (l1Sectors had ||| 2 ^ (pa / 64 % 2)) * 2 ^ 10 + (if l1Marked had then 2 ^ 12 else 0)) }

end Sys2Proof.Machine
end

