-- ==== Sys2Proof/Machine/Ops.lean ====
section
/-!
DEFINITION. Warps, lanes and traps: lookup and update, registers and their shapes (R61 to R66, R300 to R302), the end of
lanes (R89), the releases and checks of R81, R85, R202, R360, R361 and R367, trap records (R351, R352), taking a trap
(R344 to R349), the kill (R389) and the return from a trap (R356).
-/
namespace Sys2Proof.Machine

/-! ### Sets of lanes -/

/-- The lanes of a set, ascending. -/
def lanesOf (s : LaneSet) : List Nat := (List.range 32).filter (fun L => s.getLsbD L)
/-- The set of one lane. -/
def laneBit (L : Nat) : LaneSet := 1#32 <<< L
/-- The set of a list of lanes. -/
def setOf (ls : List Nat) : LaneSet := ls.foldl (fun s L => s ||| laneBit L) 0
/-- The lowest lane of a set. -/
def lowest (s : LaneSet) : Nat := (lanesOf s).headD 0

/-! ### Groups and warps -/

/-- The group of an identity. -/
def Dev.group? (d : Dev) (g : Nat) : Option Group := d.groups.find? (·.id == g)
/-- Change the group of an identity. -/
def Dev.modGroup (d : Dev) (g : Nat) (f : Group → Group) : Dev :=
  { d with groups := d.groups.map (fun x => if x.id = g then f x else x) }
/-- Change warp `wi` of a group. -/
def Group.modWarp (x : Group) (wi : Nat) (f : Warp → Warp) : Group := { x with warps := x.warps.modify wi f }
/-- Change warp `wi` of the group of an identity. -/
def Dev.modWarp (d : Dev) (g wi : Nat) (f : Warp → Warp) : Dev := d.modGroup g (·.modWarp wi f)
/-- A warp of a group. -/
def Dev.warp? (d : Dev) (g wi : Nat) : Option Warp := (d.group? g).bind (·.warps[wi]?)
/-- The grid of an identity. -/
def Dev.grid? (d : Dev) (g : Nat) : Option Grid := d.grids.find? (·.id == g)
/-- Change the grid of an identity. -/
def Dev.modGrid (d : Dev) (g : Nat) (f : Grid → Grid) : Dev :=
  { d with grids := d.grids.map (fun x => if x.id = g then f x else x) }
/-- Change the draw of an identity. -/
def Dev.modDraw (d : Dev) (g : Nat) (f : Draw → Draw) : Dev :=
  { d with draws := d.draws.map (fun x => if x.id = g then f x else x) }
/-- Change a queue. -/
def Dev.modQueue (d : Dev) (q : Nat) (f : Queue → Queue) : Dev :=
  { d with queues := put Queue.init d.queues q (f (look Queue.init d.queues q)) }

/-- The threads of a group (R196). -/
def LaunchRec.threads (r : LaunchRec) : Nat := bits r.d2.toNat 32 11
/-- g of `.vregs` (R31, R196). -/
def LaunchRec.vg (r : LaunchRec) : Nat := 4 * (bits r.d2.toNat 43 4 + 1)
/-- Whether v56 to v63 are compact registers (R67), which `.compact` gives whatever g is: no code refuses a pixel kernel's `pres`
that pairs it with g above 56 (R387; DESIGN CHOICE, log 24). -/
def LaunchRec.compact (r : LaunchRec) : Bool := r.d2.getLsbD 47
/-- The `.sregs` count. -/
def LaunchRec.sregs (r : LaunchRec) : Nat := bits r.d2.toNat 48 5 + 1
/-- The `.acc` tiles. -/
def LaunchRec.acc (r : LaunchRec) : Nat := bits r.d2.toNat 53 5
/-- The bytes of the scratchpad window (R150). -/
def LaunchRec.window (r : LaunchRec) : Nat := 4096 * bits r.d3.toNat 0 9
/-- The number of groups. -/
def LaunchRec.count (r : LaunchRec) : Nat := bits r.d2.toNat 0 32
/-- The warps of a group. -/
def LaunchRec.nwarps (r : LaunchRec) : Nat := (r.threads + 31) / 32
def LaunchRec.nodisc (r : LaunchRec) : Bool := r.d2.getLsbD 58
def LaunchRec.nodepth (r : LaunchRec) : Bool := r.d2.getLsbD 59
def LaunchRec.restartable (r : LaunchRec) : Bool := r.d2.getLsbD 60

/-- The device core number of a group: 96 × die + 8 × logical cluster + row. -/
def Group.core (x : Group) : Nat := 96 * x.die + 8 * x.cl + x.row
/-- Whether a group's pre-emption request is raised (R403). -/
def Group.requested (x : Group) : Bool := x.pre.preq || x.pre.switch || x.pre.revoke || x.pre.requeue
/-- Whether a group has no live thread left. -/
def Group.finished (x : Group) : Bool := x.warps.all (·.live == 0)
/-- A lane of a group as a writer (R375). -/
def Group.who (x : Group) : Who := { kind := 0, tag := x.vf, die := x.die, cl := x.cl, row := x.row, queue := x.queue }
/-- A lane as a thread of the memory model (R180). -/
def Group.thr (x : Group) (wi L : Nat) : Thr := ⟨0, x.die, x.cl, x.row, x.grid * 2 ^ 32 + x.gid, wi, L⟩
/-- Whether an operation is a matrix operation, which R89 does not count among a lane's outstanding operations. -/
def Op.isMmac (o : Op) : Bool :=
  match o.kind with
  | .mmac .. => true
  | _ => false
/-- Whether a group has outstanding operations (R89). -/
def Dev.outstanding (d : Dev) (g : Nat) : Bool := d.ops.any (fun o => o.src.g == g && !o.isMmac)

/-! ### Registers -/

/-- The word of lane `L` that a register holds (R64). -/
def VReg.at (r : VReg) (L : Nat) : Word :=
  match r with
  | .u w => w
  | .a b t => b + BitVec.ofNat 32 L * t
  | .g ws => ws.getD L 0

/-- Whether a register number is one of the proposal bank's (R300). -/
def banked (n : Nat) : Bool := decide (40 ≤ n ∧ n ≤ 55)

/-- The live lanes whose proposal bank is open. -/
def Warp.opened (w : Warp) : LaneSet := w.bank &&& w.live

/-- Register n of lane L through the lane's view (R301). -/
def Warp.readV (w : Warp) (n L : Nat) : Word :=
  if banked n && w.opened.getLsbD L then (look [] w.prop n).getD L 0 else (look (.u 0) w.v n).at L

/-- A 64-bit pair of lane L (R62). -/
def Warp.readPair (w : Warp) (n L : Nat) : DWord := w.readV (n + 1) L ++ w.readV n L

/-- Write register n of some lanes through their views: shape G (R64, R301). -/
def Warp.writeG (w : Warp) (n : Nat) (vals : List (Nat × Word)) : Warp :=
  let put32 := fun (old : Nat → Word) (sel : Nat → Bool) =>
    (List.range 32).map (fun L => if sel L then (vals.lookup L).getD (old L) else old L)
  let inBank := fun L => banked n && w.opened.getLsbD L
  let r := look (.u 0) w.v n
  let v := put (.u 0) w.v n (.g (put32 r.at (fun L => !inBank L)))
  if banked n && w.opened != 0 then
    { w with v := v, prop := put [] w.prop n (put32 (fun L => (look [] w.prop n).getD L 0) inBank) }
  else { w with v := v }

/-- The shape of a value (R64). -/
inductive Shape where
  | u | a (b t : Word) | g
  deriving DecidableEq, Repr

/-- The shape tag of a register; banked registers are G while a live lane's bank is open (R302). -/
def Warp.shapeV (w : Warp) (n : Nat) : Shape :=
  if banked n && w.opened != 0 then .g else
  match look (.u 0) w.v n with
  | .u _ => .u
  | .a b t => .a b t
  | .g _ => .g

/-- Write register n of some lanes with a shape: U and A give every lane its value (R64); an open bank keeps G (R302). -/
def Warp.writeV (w : Warp) (n : Nat) (sh : Shape) (vals : List (Nat × Word)) : Warp :=
  if banked n && w.opened != 0 then w.writeG n vals else
  match sh with
  | .u => { w with v := put (.u 0) w.v n (.u ((vals.map (·.2)).headD 0)) }
  | .a b t => { w with v := put (.u 0) w.v n (if t = 0 then .u b else .a b t) }
  | .g => w.writeG n vals

/-- Scalar register n. -/
def Warp.readS (w : Warp) (n : Nat) : DWord := look 0 w.s n
/-- Write scalar register n. -/
def Warp.writeS (w : Warp) (n : Nat) (x : DWord) : Warp := { w with s := put 0 w.s n x }
/-- Predicate n as a set of lanes; p7 reads true (R61). -/
def Warp.readP (w : Warp) (n : Nat) : LaneSet := if n = 7 then BitVec.allOnes 32 else look 0 w.p n
/-- Write predicate n in the lanes of `ls`. -/
def Warp.writeP (w : Warp) (n : Nat) (ls x : LaneSet) : Warp :=
  { w with p := put 0 w.p n (look 0 w.p n &&& ~~~ls ||| x &&& ls) }
/-- The program counter of lane L. -/
def Warp.pcOf (w : Warp) (L : Nat) : Addr := look 0 w.pc L
/-- Set the program counters of some lanes. -/
def Warp.setPc (w : Warp) (ls : List Nat) (f : Nat → Addr) : Warp := { w with pc := ls.foldl (fun m L => put 0 m L (f L)) w.pc }
/-- Step some lanes past their instruction. -/
def Warp.stepPc (w : Warp) (ls : LaneSet) : Warp := w.setPc (lanesOf ls) (fun L => w.pcOf L + 8)
/-- Set the wait of some lanes. -/
def Warp.setWait (w : Warp) (ls : LaneSet) (k : Wait) : Warp :=
  { w with wait := (lanesOf ls).foldl (fun m L => put .none m L k) w.wait }
/-- The lanes whose wait satisfies a test. -/
def Warp.waiting (w : Warp) (p : Wait → Bool) : LaneSet := setOf ((List.range 32).filter (fun L => w.live.getLsbD L && p (look .none w.wait L)))

/-! ### What the lanes of a warp have met (R184) -/

/-- What a lane has met. -/
def Warp.viewOf (w : Warp) (L : Nat) : View := look View.init w.view L
/-- Change what some lanes have met. -/
def Warp.modView (w : Warp) (ls : LaneSet) (f : View → View) : Warp :=
  { w with view := (lanesOf ls).foldl (fun m L => put View.init m L (f (look View.init m L))) w.view }
/-- The writes that happen before the next release of some lanes. -/
def Warp.cumOf (w : Warp) (ls : LaneSet) : List Nat := (lanesOf ls).foldl (fun m L => uni m (w.viewOf L).cum) []
/-- Some lanes gain writes. -/
def Warp.gain (w : Warp) (ls : LaneSet) (ids : List Nat) : Warp := if ids = [] then w else w.modView ls (·.gain ids)

/-! ### Releases and the end of lanes -/

/-- Whether a wait is one on mask register m. -/
def Wait.onMask (m : Nat) : Wait → Bool
  | .mask k => k == m
  | _ => false
/-- Whether a wait is one at barrier b. -/
def Wait.atBar (b : Nat) : Wait → Bool
  | .bar k => k == b
  | _ => false
/-- Whether a wait is at a barrier. -/
def Wait.isBar : Wait → Bool
  | .bar _ => true
  | _ => false
/-- Whether a wait is at a barrier or at a mask (R361). -/
def Wait.blocked : Wait → Bool
  | .mask _ => true
  | .bar _ => true
  | _ => false

/-- Some lanes leave their wait, each to the instruction after it. -/
def Warp.release (w : Warp) (ls : LaneSet) : Warp := (w.stepPc ls).setWait ls .none

/-- The release condition of mask register m (R81), when some lanes have executed the instruction that may have met it: what
came before them and the waiting lanes comes before what the released lanes do next (R82). -/
def Warp.maskCheck (by_ : LaneSet) (w : Warp) (m : Nat) : Warp :=
  let wm := w.waiting (Wait.onMask m)
  if wm != 0 && (look 0 w.m m &&& ~~~wm) == 0 then (w.release wm).gain wm (w.cumOf (wm ||| by_)) else w

/-- The release condition of every mask register. -/
def Warp.maskChecks (w : Warp) (by_ : LaneSet) : Warp := (List.range 12).foldl (Warp.maskCheck by_) w

/-- The lanes of E end (R89): out of masks, barriers and regions, the bank closed, `pcv` 0. What they met comes before what
the lanes that are left in a region do (R83). -/
def Warp.endLanes (w : Warp) (ls : LaneSet) : Warp :=
  let k := ~~~ls
  let w := if (w.ser &&& ls) = 0 then w else w.gain (w.ser &&& k) (w.cumOf (w.ser &&& ls))
  { (w.setWait ls .none).setPc (lanesOf ls) (fun _ => 0) with
    live := w.live &&& k, handler := w.handler &&& k, bank := w.bank &&& k, ser := w.ser &&& k, held := w.held &&& k
    left := (lanesOf ls).foldl (fun m L => put none m L none) w.left
    park := (lanesOf ls).foldl (fun p L => put none p L none) w.park
    m := mapVals 0 (fun _ x => x &&& k) w.m
    arrived := mapVals 0 (fun _ x => x &&& k) w.arrived }

/-- What the arrivals of a generation of a barrier bring to those who wait or pass for it (R86). -/
def Group.pool (x : Group) (b : Nat) (gen : Word) : List Nat :=
  (x.pools.filter (fun p => p.1 == b && p.2.1 == gen)).foldl (fun m p => uni m p.2.2) []

/-- Completion of barrier b: every live thread has arrived (R85, R86). -/
def Group.barCheck (x : Group) (b : Nat) : Group :=
  if !x.finished && x.warps.all (fun w => (w.live &&& ~~~(look 0 w.arrived b)) == 0) then
    let ids := x.pool b (look 0 x.gens b)
    { x with
      gens := put 0 x.gens b (look 0 x.gens b + 1)
      warps := x.warps.map (fun w =>
        let ls := w.waiting (Wait.atBar b)
        { ((w.release ls).gain ls ids) with arrived := put 0 w.arrived b 0 }) }
  else x

/-- Completion of every barrier. -/
def Group.barChecks (x : Group) : Group := (List.range 16).foldl Group.barCheck x

/-- A group whose request is raised begins a cheap save once every live thread waits at a yield (R202). -/
def Group.cheapCheck (x : Group) (now : Nat) : Group :=
  if x.requested && !x.finished && x.saving.isNone
      && x.warps.all (fun w => (w.live &&& ~~~(w.waiting (· == .yield))) == 0) then
    { x with saving := some (now, false) }
  else x

/-- A group whose last live thread has ended notes when. -/
def Group.noteEnd (x : Group) (now : Nat) : Group := if x.finished then { x with ended := some (x.ended.getD now) } else x

/-- What a group checks after an arrival, an exit or a tail. -/
def Dev.settle (d : Dev) (g : Nat) : Dev := d.modGroup g (fun x => (x.barChecks.cheapCheck d.now).noteEnd d.now)

/-- The colour and depth with which a fragment ends (R281). -/
def Frag.outcome (f : Frag) : Option Word × Word := (if f.disc then none else f.colour, f.depth)

/-- The fragments of some ending lanes end, each with what its lane has met: every access of the lane happens before the fragment's
writes (R281, R283). -/
def Dev.endFrags (d : Dev) (x : Group) (fs : List (Frag × List Nat)) : Dev :=
  match x.pixel with
  | none => d
  | some (dr, tile) => d.modDraw dr (fun r =>
      { r with frags := put [] r.frags tile ((look [] r.frags tile).map (fun p =>
          match fs.find? (fun f => f.1.order == p.order && f.1.x == p.x && f.1.y == p.y) with
          | some f => { p with ended := some f.1.outcome, know := uni p.know f.2 }
          | none => p)) })

/-- The packets of a warp that has ended close, in every draw that it took part in (R273). -/
def Dev.closePacket (d : Dev) (x : Group) (wi : Nat) (w : Warp) : Dev :=
  w.drawn.foldl (fun d dr => d.modDraw dr (fun r => { r with closed := (x.gid * x.lr.nwarps + wi) :: r.closed })) d

/-- Lanes of a warp end, with their fragments and, when it is the last, the warp's packet (R89). -/
def Dev.endLanes (d : Dev) (g wi : Nat) (ls : LaneSet) : Dev :=
  match d.group? g, d.warp? g wi with
  | some x, some w =>
    let fs := (lanesOf (ls &&& w.live)).filterMap (fun L => (look none w.frag L).map (fun f => (f, (w.viewOf L).cum)))
    let d := (d.modWarp g wi (·.endLanes ls)).endFrags x fs
    if w.live != 0 && (w.live &&& ~~~ls) == 0 then (d.closePacket x wi w).modWarp g wi (fun w => { w with draw := none, drawn := [] }) else d
  | _, _ => d

/-! ### The kill (R389) -/

/-- Every warp of a group ends. -/
def Dev.endGroup (d : Dev) (x : Group) : Dev :=
  (List.range x.warps.length).foldl (fun d wi => d.endLanes x.id wi (BitVec.allOnes 32)) d

/-- Steps 1 and 2 of a kill of queue q; its engine threads go on, and step 5 follows them. -/
def Dev.kill (d : Dev) (q : Nat) : Dev :=
  let d := (d.groups.filter (·.queue == q)).foldl Dev.endGroup d
  { d.modQueue q (fun x => { x with kill := some (x.kill.getD d.now), stall := none }) with
    groups := d.groups.map (fun x => if x.queue = q then { x with saving := none, stall := none, pre := PreReq.no } else x)
    grids := d.grids.map (fun x => if x.queue = q then { x with next := x.lr.count, again := [], deal := none } else x) }

/-! ### Trap records (R351, R352) -/

/-- The fields of a trap record but its sequence number and time. -/
structure Rec where
  cause : Cause
  res : Bool := false
  imp : Bool := false
  kill : Bool := false
  unres : Bool := false
  pc : Nat := 0
  lanes : LaneSet := 0
  group : Nat := 0
  die : Nat := 0
  cl : Nat := 0
  row : Nat := 0
  warp : Nat := 0
  hm : Bool := false
  word : DWord := 0
  d5 : Nat := 0
  d6 : Nat := 0
  know : List Nat := []          -- the writes that happen before it (R353, R376); no part of its bytes
  deriving DecidableEq, Repr

/-- The 64 bytes of a record (R352). -/
def Rec.bytes (r : Rec) (seq : Word) (now : Nat) : List Byte :=
  let f := fun (b : Bool) k => if b then 2 ^ k else 0
  toBytes 8 (seq.toNat + r.cause.toNat * 2 ^ 32 + f r.res 41 + f r.imp 42 + f r.kill 43 + f r.unres 44)
    ++ toBytes 8 (r.pc % 2 ^ 56) ++ toBytes 8 (r.lanes.toNat + r.group % 2 ^ 32 * 2 ^ 32)
    ++ toBytes 8 (r.die + r.cl * 4 + r.row * 64 + r.warp * 512 + f r.hm 15)
    ++ toBytes 8 r.word.toNat ++ toBytes 8 r.d5 ++ toBytes 8 r.d6 ++ toBytes 8 (now % 2 ^ 48)

/-- The owner of a queue (R194). -/
def Queue.vf (x : Queue) : Nat := bits x.ctl.toNat 0 4
/-- The base of the save area. -/
def Queue.saveBase (x : Queue) : Nat := bits x.save.toNat 12 44 * 2 ^ 12
/-- The bytes of the save area. -/
def Queue.saveSize (x : Queue) : Nat := (bits x.save.toNat 56 8 + 1) * 2 ^ 20

/-- A write of the device through a function's page table within one page; the code of its fault, if it faults (R402). -/
def Dev.vsend (d : Dev) (who : Who) (f va : Nat) (bs : List Byte) : Dev × Option Cause :=
  let p := d.translate (384 + who.die) f .st va
  match p.2 with
  | .error e => (p.1, some e.cause)
  | .ok (pa, _) => match p.1.unreached who.die (p.1.cfg.place pa) with
    | some c => (p.1, some c)
    | none => (p.1.poke who pa bs, none)

/-- A queue's distributor and trap buffer as a thread of the memory model: it stands at its die (R180). -/
def distThr (q : Nat) : Thr := ⟨3, q / 64, 0, 0, 2 ^ 49 + q, 0, 0⟩
/-- A queue's distributor and trap buffer as a writer. -/
def queueWho (q vf : Nat) : Who := { kind := 2, tag := vf, die := q / 64, queue := q, thr := distThr q }

/-- Some lanes of a warp wait for their trap record, or wait no longer (R353). -/
def Dev.holdLanes (d : Dev) (g wi : Nat) (ls : LaneSet) (b : Bool) : Dev :=
  if ls = 0 then d else d.modWarp g wi (fun w => { w with held := if b then w.held ||| ls &&& w.live else w.held &&& ~~~ls })

/-- Who waits for a record: lanes of a warp, a kill of its queue with the consumer index that it moves past, and a stalled
thread (R350, R353). -/
structure Waits where
  group : Nat := 0
  warp : Nat := 0
  lanes : LaneSet := 0
  kill : Bool := false
  next : Option Nat := none
  op : Nat := 0
  deriving DecidableEq, Repr

/-- Write a record to a queue's trap buffer, a release write at `.sys`; the sequence advances whether or not it lands. A
write that meets V = 0 stalls, and holds up those who wait for it; one that faults otherwise is lost (R351, R353, R402).
Whether it is written or lost. -/
def Dev.recordFor (d : Dev) (q : Nat) (r : Rec) (ws : Waits) : Dev × Bool :=
  let x := look Queue.init d.queues q
  let va := x.saveBase + x.saveSize - 2 ^ 16 + (x.seq.toNat + 2 ^ 32 - 1) % 1024 * 64
  let bs := r.bytes x.seq d.now
  let n := d.past.length
  let p := d.vsend { queueWho q x.vf with rel := 6, before := r.know } x.vf va bs
  let d := p.1.modQueue q (fun x => { x with seq := x.seq + 1 })
  if p.2 = some 0x070 then
    ({ d.holdLanes ws.group ws.warp ws.lanes true with
        late := d.late ++ [⟨d.nextId, q, x.vf, va, bs, ws.group, ws.warp, ws.lanes, ws.kill, ws.next, ws.op, r.know⟩]
        nextId := d.nextId + 1 }, false)
  else (d.modWarp ws.group ws.warp (·.gain ws.lanes (newIds n d.past ++ r.know)), true)

/-- Write a record that nothing waits for. -/
def Dev.record (d : Dev) (q : Nat) (r : Rec) : Dev := (d.recordFor q r {}).1

/-- Whether a kill of a queue waits for its record (R350). -/
def Dev.killWaits (d : Dev) (q : Nat) : Bool := d.late.any (fun l => l.queue == q && l.kill)

/-- Write a record that kills its queue, and then the kill (R350, R389). -/
def Dev.recordKill (d : Dev) (q : Nat) (r : Rec) : Dev :=
  let p := d.recordFor q { r with kill := true } { kill := true }
  if p.2 && !p.1.killWaits q then p.1.kill q else p.1

/-! ### Taking a trap (R344 to R350) -/

/-- The causes that park the lanes that meet them (R342, R364, R385). -/
def causeParks (c : Cause) : Bool := c == 0x060 || c == 0x070 || c == 0x0F5

/-- The address that the fault service walks again (R364, R377). -/
def Flt.va (f : Flt) : Nat := if f.cause == 0x0F5 then f.d6 else f.d5

/-- Lanes park at their instruction as one sub-warp (R345). -/
def Warp.parkLanes (w : Warp) (arr : Nat) (fs : List (Nat × Flt)) : Warp :=
  { w with park := fs.foldl (fun p x => put none p x.1 (some ⟨x.2.cause, x.2.va, x.2.cause == 0x070, x.2.d5, x.2.d6, arr⟩)) w.park }

/-- The barrier at which a lane's wait stands, if it is one. -/
def Wait.bar? : Wait → Option Nat
  | .bar b => Option.some b
  | _ => Option.none

/-- Lanes enter handler mode (R348) and leave their wait: a `trap` resumes past itself (R355), and a lane that waited at a
barrier waits again when it returns to that instruction (R361). -/
def Warp.enter (w : Warp) (tvec : Addr) (fs : List (Nat × Flt)) : Warp :=
  let one := fun (w : Warp) (x : Nat × Flt) =>
    let L := x.1
    let pc := w.pcOf L
    let kept := (look none w.left L).filter (fun e => e.2 == pc.toNat)
    { w with
      epc := put 0 w.epc L (if x.2.cause.toNat / 16 = 0x1C then pc + 8 else pc)
      ecause := put 0 w.ecause L x.2.cause
      pc := put 0 w.pc L tvec
      wait := put .none w.wait L .none
      left := put none w.left L (((look .none w.wait L).bar?.map (fun b => (b, pc.toNat))).or kept)
      handler := w.handler ||| laneBit L }
  fs.foldl one w

/-- The record of lanes of a warp. -/
def warpRec (x : Group) (wi : Nat) (pc : Nat) (word : DWord) (ls : LaneSet) (f : Flt) : Rec :=
  { cause := f.cause, pc := pc, lanes := ls, group := x.gid, die := x.die, cl := x.cl, row := x.row, warp := wi,
    word := word, d5 := f.d5, d6 := f.d6 }

/-- The handler address of a group's grid (R347). -/
def Dev.tvecOf (d : Dev) (x : Group) : Addr := ((d.grid? x.grid).map (·.tvec)).getD 0

/-- Faults of lanes of a warp at one instruction and in one mode. -/
structure Trap where
  g : Nat
  wi : Nat
  pc : Nat
  word : DWord
  unres : Bool
  faults : List (Nat × Flt)
  deriving DecidableEq, Repr

/-- Whether the lanes of a trap are in handler mode. -/
def Dev.trapMode (d : Dev) (t : Trap) : Bool := ((d.warp? t.g t.wi).map (fun w => (w.handler &&& setOf (t.faults.map (·.1))) != 0)).getD false

/-- Whether a cause parks its lanes, and does not enter the handler (R342, R345). -/
def Trap.parks (t : Trap) (c : Cause) : Bool := causeParks c && !t.unres

/-- Deliver one cause of a trap; whether it calls for a kill whose record is written (R344, R345, R348, R349). -/
def Dev.deliverCause (d : Dev) (t : Trap) (c : Nat) : Dev × Bool :=
  let fs := t.faults.filter (·.2.cause.toNat == c)
  match d.group? t.g, fs with
  | some x, (_, f) :: _ =>
    let ls := setOf (fs.map (·.1))
    let hm := d.trapMode { t with faults := fs }
    let r := { warpRec x t.wi t.pc t.word ls f with hm := hm, unres := t.unres }
    let ws : Waits := { group := t.g, warp := t.wi, lanes := ls }
    let tvec := d.tvecOf x
    if t.parks f.cause then
      (((d.recordFor x.queue { r with res := true } ws).1.modWarp t.g t.wi (·.parkLanes d.nextId fs)), false)
    else if hm then d.recordFor x.queue { r with cause := 0x031, kill := true, d5 := f.cause.toNat, d6 := 0 } { ws with kill := true }
    else if tvec = 0 then d.recordFor x.queue { r with kill := true } { ws with kill := true }
    else ((d.recordFor x.queue r ws).1.modWarp t.g t.wi (·.enter tvec fs), false)
  | _, _ => (d, false)

/-- The causes of a trap in the order of the codes that its records carry, each once: a double trap's is 0x031 (R349, R351). -/
def Dev.causesOf (d : Dev) (t : Trap) : List Nat :=
  let cs := (List.range 512).filter (fun c => t.faults.any (·.2.cause.toNat == c))
  if d.trapMode t then cs.filter (fun c => !t.parks (BitVec.ofNat 9 c)) ++ cs.filter (fun c => t.parks (BitVec.ofNat 9 c)) else cs

/-- Take one trap: a record for each cause in turn. Every sub-warp that parks has an identity of its own. -/
def Dev.deliverOne (d : Dev) (t : Trap) : Dev × Bool :=
  let p := (d.causesOf t).foldl (fun p c => let r := p.1.deliverCause t c; (r.1, p.2 || r.2)) (d, false)
  ({ p.1 with nextId := p.1.nextId + 1 }, p.2)

/-- Take traps of one group together: every record is written before the kill that one of them calls for (R344, R348 to
R351). -/
def Dev.deliverAll (d : Dev) (g : Nat) (ts : List Trap) : Dev :=
  let p := (ts.filter (fun t => t.faults != [])).foldl (fun p t => let r := p.1.deliverOne t; (r.1, p.2 || r.2)) (d, false)
  match p.2, d.group? g with
  | true, some x => if p.1.killWaits x.queue then p.1 else p.1.kill x.queue
  | _, _ => p.1

/-- Take the faults of one instruction of a warp. -/
def Dev.deliver (d : Dev) (g wi pc : Nat) (word : DWord) (unres : Bool) (fs : List (Nat × Flt)) : Dev :=
  match fs with
  | [] => d
  | _ => d.deliverAll g [⟨g, wi, pc, word, unres, fs⟩]

/-- The word at an address, as memory holds it now; 0 where it cannot be read. -/
def Dev.wordAt (d : Dev) (die f va : Nat) : DWord :=
  match d.walk die f va with
  | .leaf e l => BitVec.ofNat 64 (Memory.read d.mem (d.cfg.norm (leafPa e l va)) 8)
  | _ => 0

/-- The distinct instructions at which some lanes stand: counter, mode and the word that they issued. -/
def Warp.placesOf (w : Warp) (ls : LaneSet) : List (Nat × Bool × DWord) :=
  ((lanesOf ls).map (fun L => ((w.pcOf L).toNat, w.handler.getLsbD L, look 0 w.word L))).eraseDups

/-- The traps of lanes of a warp that stand in waits: one for each instruction they stand at. -/
def Warp.trapsOf (w : Warp) (g wi : Nat) (ls : LaneSet) (unres : Bool) (fs : Nat → Flt) : List Trap :=
  (w.placesOf ls).map (fun p =>
    ⟨g, wi, p.1, p.2.2, unres, ((lanesOf ls).filter (fun L => (w.pcOf L).toNat == p.1 && w.handler.getLsbD L == p.2.1 && look 0 w.word L == p.2.2)).map
      (fun L => (L, fs L))⟩)

/-- Whether every live lane of a warp, none of them in handler mode, waits under a test. -/
def Warp.allWait (w : Warp) (p : Wait → Bool) : Bool := (w.live &&& ~~~(w.waiting p &&& ~~~w.handler)) == 0

/-- The indexes of a group's warps, with the warps. -/
def Group.numbered (x : Group) : List (Nat × Warp) := (List.range x.warps.length).zip x.warps

/-- The deadlock check of a group after a mask or barrier wait begins (R361). -/
def Dev.deadlockCheck (d : Dev) (g : Nat) : Dev :=
  match d.group? g with
  | none => d
  | some x =>
    if !x.finished && x.warps.all (·.allWait Wait.blocked) then
      d.deliverAll g (x.numbered.flatMap (fun p => p.2.trapsOf g p.1 p.2.live false (fun _ => ⟨0x133, 0, 0⟩)))
    else d

/-- The address sum and the lines of a presence wait. -/
def Wait.presence? : Wait → Option (Nat × List Nat)
  | .rest _ (.presence sum lines) => Option.some (sum, lines)
  | _ => Option.none

/-- Whether some line that a presence wait waits for is still absent. -/
def Group.lacks (x : Group) (k : Wait) : Bool :=
  match k.presence? with
  | some (_, ls) => ls.any (fun l => !(look Line.fresh x.lines l).present)
  | none => false

/-- Whether a wait is on presence, at a barrier or at a mask (R367). -/
def Group.stuck (x : Group) (k : Wait) : Bool := k.blocked || x.lacks k

/-- The lanes of a warp that wait on an absent line whose count is 0. -/
def Group.orphans (x : Group) (w : Warp) : LaneSet :=
  w.waiting (fun k => match k.presence? with
    | some (_, ls) => ls.any (fun l => !(look Line.fresh x.lines l).present && (look Line.fresh x.lines l).count == 0)
    | none => false)

/-- The orphan check of presence waits, after a wait begins and after a landing (R367). -/
def Dev.presenceCheck (d : Dev) (g : Nat) : Dev :=
  match d.group? g with
  | none => d
  | some x =>
    if !x.finished && x.warps.all (fun w => (w.live &&& ~~~(w.waiting x.stuck)) == 0) then
      d.deliverAll g (x.numbered.flatMap (fun p => p.2.trapsOf g p.1 (x.orphans p.2) false (fun L =>
        ⟨0x0A0, ((look .none p.2.wait L).presence?.map (·.1)).getD 0, 0⟩)))
    else d

/-- The condition of `qget` (R72). -/
def seqMet (n : BitVec 16) (e : Nat) : Bool := decide ((n - BitVec.ofNat 16 e).toNat < 2 ^ 15)

/-- Whether a wait is at a `qget` whose condition fails. -/
def Warp.qgetFails (w : Warp) : Wait → Bool
  | .rest _ (.qget q e) => !seqMet (look (0, 0) w.q q).2 e
  | _ => false

/-- The orphan check of `qget`, after an exit, a tail or a `qget` arrival (R360). -/
def Dev.qgetCheck (d : Dev) (g wi : Nat) : Dev :=
  match d.warp? g wi with
  | none => d
  | some w =>
    if w.live != 0 && w.allWait w.qgetFails then d.deliverAll g (w.trapsOf g wi w.live false (fun _ => ⟨0x0AF, 0, 0⟩)) else d

end Sys2Proof.Machine
end

