-- ==== Sys2Proof/Machine/Operands.lean ====
section
/-!
DEFINITION. Operands and the frame of every instruction: one record for F-form and L-form words, the values and shapes
of operands (R56, R63, R65, R110), the guard (R28, R44), the checks of a lane in the order of R344, and the end of an
issue (counts, steps, traps).
-/
namespace Sys2Proof.Machine

/-- The issue at hand, with the group and warp as they stood when it began. -/
structure Ix where
  g : Nat
  wi : Nat
  x : Group
  w : Warp
  iss : LaneSet
  pc : Addr
  word : DWord
  arr : Nat
  deriving DecidableEq, Repr

/-- A warp as an arrival reads it whose rest ends: its registers as they stood at the issue (R60, R71). Its rngkey is the one that stands
when the rest ends, at which the engine thread of a stochastic `cpy` is forked (R60, R214; DESIGN CHOICE, log 25). -/
def Dev.asIssued (d : Dev) (arr : Nat) (w : Warp) : Warp :=
  match d.rested.find? (fun r => arr != 0 && r.arr == arr) with
  | some r => { w with v := r.regs.v, prop := r.regs.prop, s := r.regs.s, p := r.regs.p, m := r.regs.m }
  | none => w

/-- The issue at hand, if its warp exists. -/
def Dev.ix (d : Dev) : Option Ix :=
  match d.cur with
  | none => none
  | some c => match d.group? c.g, d.warp? c.g c.w with
    | some x, some w => some ⟨c.g, c.w, x, d.asIssued c.arr w, c.lanes &&& w.live, c.pc, c.word, c.arr⟩
    | _, _ => none

/-- The operands of a word of either form, the immediate extended (R42). -/
structure OpW where
  d : Opnd
  a : Opnd
  b : Opnd
  c : Opnd
  neg : Bool
  pidx : BitVec 3
  ty : Ty
  sub : Nat
  imm : DWord
  deriving DecidableEq, Repr

/-- The operands of an F-form word. -/
def fop (f : FWord) : OpW := ⟨f.d, f.a, f.b, f.c, f.neg, f.pidx, f.ty, f.sub.toNat, f.imm.signExtend 64⟩

/-- The operands of an L-form word: imm32 stands as the second source and no predicate guards it (R37, R42, R44). -/
def lop (f : LWord) : OpW :=
  ⟨f.d, f.a, .imm, .v 0, false, 7, f.ty, f.sub.toNat, if f.ty == .i64 then f.imm.signExtend 64 else f.imm.setWidth 64⟩

/-- Bits of imm13 as F-form fields hold them. -/
def OpW.immBits (o : OpW) (lo n : Nat) : Nat := bits o.imm.toNat lo n

/-! ### Values -/

/-- The low bits of a value at the width of a type. -/
def tyTrunc (t : Ty) (x : DWord) : DWord := BitVec.ofNat 64 (x.toNat % 2 ^ t.width)

/-- The integer that a value reads as at a type (R10). -/
def tyInt (t : Ty) (x : DWord) : Int :=
  let n := x.toNat % 2 ^ t.width
  if t.signed && decide (n ≥ 2 ^ (t.width - 1)) then (n : Int) - 2 ^ t.width else n

/-- A value of a type extended to 64 bits: signed integers by sign, others by zeros (R63, R110, R132). -/
def tyImage (t : Ty) (x : DWord) : DWord := BitVec.ofInt 64 (tyInt t x)

/-- The value of an operand in lane `L`, read at a type (R56, R110). -/
def Ix.val (x : Ix) (o : OpW) (t : Ty) (f : Opnd) (L : Nat) : DWord :=
  tyTrunc t (match f with
    | .v n => if t.is64 then x.w.readPair n.toNat L else (x.w.readV n.toNat L).setWidth 64
    | .s n => x.w.readS n.toNat
    | .p n => if (x.w.readP n.toNat).getLsbD L then 1 else 0
    | .m n => (look 0 x.w.m n.val).setWidth 64
    | .q n => (look (0, 0) x.w.q n.toNat).1
    | .zero => 0
    | .lane => BitVec.ofNat 64 L
    | .tid => BitVec.ofNat 64 (32 * x.wi + L)
    | .wid => BitVec.ofNat 64 x.wi
    | .gid => BitVec.ofNat 64 x.x.gid
    | .nthr => BitVec.ofNat 64 x.x.lr.threads
    | .pcv => BitVec.ofNat 64 ((x.w.pcOf L).toNat % 2 ^ 32)
    | .imm => o.imm)

/-- A count operand: n32 whatever the type (R110). -/
def Ix.cnt (x : Ix) (o : OpW) (f : Opnd) (L : Nat) : Nat := (x.val o .n32 f L).toNat

/-- A scalar-side source at 64 bits. -/
def Ix.sval (x : Ix) (o : OpW) (f : Opnd) : DWord := x.val o .n64 f 0

/-- The shape of a source that spans `n` registers (R64, R65). -/
def Ix.shapeOf (x : Ix) (f : Opnd) (n : Nat) : Shape :=
  match f with
  | .v r =>
    if n = 1 then x.w.shapeV r.toNat
    else if (List.range n).all (fun k => x.w.shapeV (r.toNat + k) == .u) then .u else .g
  | .p _ => .g
  | .lane => .a 0 1
  | .tid => .a (BitVec.ofNat 32 (32 * x.wi)) 1
  | .pcv => if ((lanesOf x.w.live).map x.w.pcOf).eraseDups.length ≤ 1 then .u else .g
  | _ => .u

/-- A register use: an operand and how many registers it spans. -/
abbrev Use := Opnd × Nat

/-- The use of an operand at a type: a 64-bit vector operand spans a pair (R62). -/
def useAt (t : Ty) (f : Opnd) : Use := (f, if t.is64 && f.kind == .v then 2 else 1)

/-- U when every source is U, else G (R65). -/
def Ix.shapeAll (x : Ix) (srcs : List Use) : Shape := if srcs.all (fun s => x.shapeOf s.1 s.2 == .u) then .u else .g

/-! ### The guard and the checks -/

/-- E: the issuing lanes whose guard is true (R28, R44). -/
def Ix.guard (x : Ix) (o : OpW) : LaneSet :=
  let p := x.w.readP o.pidx.toNat
  x.iss &&& (if o.neg then ~~~p else p)

/-- Whether vN may be used: below g, or a declared compact register (R68). -/
def LaunchRec.vOk (r : LaunchRec) (n : Nat) : Bool := decide (n < r.vg) || r.compact && decide (56 ≤ n ∧ n < 64)

/-- The register-allocation fault of one use (R359). -/
def useFault (r : LaunchRec) (u : Use) : Option Nat :=
  match u.1 with
  | .v n =>
    if !r.vOk n.toNat then some 0x040
    else if (List.range u.2).all (fun k => r.vOk (n.toNat + k)) then none else some 0x044
  | .s n =>
    if n.toNat ≥ r.sregs then some 0x041 else if n.toNat + u.2 > r.sregs then some 0x044 else none
  | _ => none

/-- The least of a list of causes. -/
def leastCause (l : List Nat) : Option Cause := (l.min?).map (BitVec.ofNat 9)

/-- The register-allocation fault of an instruction: the least detail that applies (R344 step 1); `ts` are the tiles it
names. -/
def allocFault (r : LaunchRec) (us : List Use) (ts : List Nat) : Option Cause :=
  leastCause (us.filterMap (useFault r) ++ (if ts.any (fun t => decide (t ≥ r.acc)) then [0x042] else []))

/-- Whether a destination is a compact register (R66). -/
def LaunchRec.isCompact (r : LaunchRec) (u : Use) : Bool :=
  match u.1 with
  | .v n => r.compact && decide (n.toNat + u.2 > 56)
  | _ => false

/-- The field values of the registers of a use (R39). -/
def useFields (u : Use) : List Nat :=
  match u.1 with
  | .v _ | .s _ | .p _ | .m _ | .q _ => (List.range u.2).map (· + u.1.field.toNat)
  | _ => []

/-- The field among the bad words of register field f as lane L reaches it: the proposal copy through an open bank (R301, R397). -/
def Ix.copyOf (x : Ix) (f L : Nat) : Nat := if f < 64 && banked f && x.w.opened.getLsbD L then 256 + f else f

/-- The fault of reading a register word that cannot be corrected (R370, R397). -/
def Dev.regFault (d : Dev) (x : Ix) (srcs : List Use) (L : Nat) : Option Flt :=
  match d.badReg with
  | [] => none
  | bad =>
    let fs := srcs.flatMap useFields
    if fs.any (fun f => decide (f ≥ 64) && bad.any (fun b => b.1 == x.g && b.2.1 == x.wi && b.2.2.1 == f)) then some ⟨0x161, 0, 0⟩
    else match fs.find? (fun f => decide (f < 64) && bad.contains (x.g, x.wi, x.copyOf f L, L)) with
      | some f => some ⟨0x160, 0, f + 256 * L⟩
      | none => none

/-- Whether a write of registers in some lanes replaces a bad word whole (R370): a vector word by its lane, a predicate by
all lanes, any other register by the instruction. -/
def Ix.replaces (x : Ix) (fs : List Nat) (ls : LaneSet) (b : Nat × Nat × Nat × Nat) : Bool :=
  let f := b.2.2.1
  b.1 == x.g && b.2.1 == x.wi && ls != 0 && fs.any (fun k =>
    if k < 64 then ls.getLsbD b.2.2.2 && x.copyOf k b.2.2.2 == f
    else k == f && (decide (k < 96 ∨ 104 ≤ k) || ls == BitVec.allOnes 32))

/-- A write of registers makes the words good that it replaces whole (R370): `ls` are the lanes written. -/
def Dev.mend (d : Dev) (x : Ix) (ds : List Use) (ls : LaneSet) : Dev :=
  match d.badReg with
  | [] => d
  | bad =>
    let fs := ds.flatMap useFields
    { d with badReg := bad.filter (fun b => !x.replaces fs ls b) }

/-- What the checks of R344 leave: the lanes that go on and the faults of the others. -/
structure Plan where
  ok : LaneSet
  bad : List (Nat × Flt)
  deriving DecidableEq, Repr

/-- Faults of one cause in every lane of a set. -/
def faultAll (ls : LaneSet) (f : Flt) : List (Nat × Flt) := (lanesOf ls).map (fun L => (L, f))

/-- The fault of a lane: a register word that cannot be corrected, or what its own check gives. -/
def Dev.laneCheck (d : Dev) (x : Ix) (us : List Use) (pre : Nat → Option Flt) (L : Nat) : Option Flt :=
  match d.regFault x us L with
  | some f => some f
  | none => pre L

/-- Whether the word of the guard predicate cannot be corrected: then which lanes are E cannot be known, and every issuing lane faults
(R370; DEDUCED, log 24). -/
def Dev.guardBad (d : Dev) (x : Ix) (o : OpW) : Bool := o.pidx != 7 && (d.regFault x [(.p o.pidx, 1)] 0).isSome

/-- The checks of each lane of E in the order of R344: register allocation, then `pre` in the lane, then the shape:
`gWrite` says whether the result of the lanes that go on would have shape G. `als` are uses that are checked and not read in the lane. -/
def Dev.plan (d : Dev) (x : Ix) (o : OpW) (ds srcs : List Use) (pre : Nat → Option Flt) (gWrite : LaneSet → Bool)
    (als : List Use := []) (ts : List Nat := []) : Plan :=
  let e := x.guard o
  if d.guardBad x o then ⟨0, faultAll x.iss ⟨0x161, 0, 0⟩⟩ else
  match allocFault x.x.lr (ds ++ srcs ++ als) ts with
  | some c => ⟨0, faultAll e ⟨c, 0, 0⟩⟩
  | none =>
    let check := d.laneCheck x srcs pre
    let bad := (lanesOf e).filterMap (fun L => (check L).map (fun f => (L, f)))
    let ok := setOf ((lanesOf e).filter (fun L => (check L).isNone))
    if ds.any x.x.lr.isCompact && gWrite ok then ⟨0, bad ++ faultAll ok ⟨0x043, 0, 0⟩⟩ else ⟨ok, bad⟩

/-! ### The end of an issue -/

/-- The end of an issue: its events are counted (R401), the issuing lanes that neither fault nor stay step past the
word, and the faults are taken. `stay` holds the lanes whose counter the instruction has set or that rest. -/
def Dev.finish (d : Dev) (x : Ix) (ran stay : LaneSet) (bad : List (Nat × Flt)) : Dev :=
  let gone := x.iss &&& ~~~stay &&& ~~~(setOf (bad.map (·.1)))
  let d := if x.arr != 0 then d else d.count x.x.die x.x.vf 3 (lanesOf ran).length
  (d.modWarp x.g x.wi (fun w => w.stepPc (gone &&& w.live))).deliver x.g x.wi x.pc.toNat x.word false bad

/-- Write a result at a type into the destination of some lanes (R62, R63, R110); nothing without a lane. -/
def Warp.writeD (w : Warp) (o : Opnd) (t : Ty) (ok : LaneSet) (sh : Shape) (val : Nat → DWord) : Warp :=
  if ok = 0 then w else
  let vals := fun (hi : Bool) => (lanesOf ok).map (fun L =>
    (L, if hi then (val L).extractLsb' 32 32 else (tyImage t (val L)).setWidth 32))
  match o with
  | .v n => if t.is64 then (w.writeV n.toNat sh (vals false)).writeV (n.toNat + 1) sh (vals true) else w.writeV n.toNat sh (vals false)
  | .s n => w.writeS n.toNat (tyImage t (val (lowest ok)))
  | .p n => w.writeP n.toNat ok (setOf ((lanesOf ok).filter (fun L => (val L).getLsbD 0)))
  | _ => w

/-- The shape a write has: G when partial (R65). -/
def Ix.shapeFor (x : Ix) (sh : Shape) (ok : LaneSet) : Shape := if ok == x.w.live then sh else .g

/-- The lanes whose words a write of an operand gives: every lane, of a uniform or affine result in a vector register (R64). -/
def Ix.written (_ : Ix) (o : Opnd) (sh : Shape) (ok : LaneSet) : LaneSet :=
  if sh == .g || ok == 0 || o.kind == .p then ok else BitVec.allOnes 32

/-- A register instruction: the checks, then the result of each lane at type `t` in `o.d`, with the shape that a full
write has, then `also` on the warp for the lanes that executed, and the end of the issue. -/
def Dev.regOpAlso (d : Dev) (o : OpW) (t : Ty) (srcs : List Use) (sh : Ix → Shape) (pre : Ix → Nat → Option Flt)
    (val : Ix → LaneSet → Nat → DWord) (also : LaneSet → Warp → Warp) (als : List Use := []) : Dev :=
  match d.ix with
  | none => d
  | some x =>
    let ds := [useAt t o.d]
    let p := d.plan x o ds srcs (pre x) (fun ok => x.shapeFor (sh x) ok == .g) als
    let d := (d.modWarp x.g x.wi (fun w => also p.ok (w.writeD o.d t p.ok (x.shapeFor (sh x) p.ok) (val x p.ok)))).mend x ds (x.written o.d (x.shapeFor (sh x) p.ok) p.ok)
    d.finish x p.ok 0 p.bad

/-- A register instruction that faults in no lane but by R68 and R66. -/
def Dev.regOp (d : Dev) (o : OpW) (t : Ty) (srcs : List Use) (sh : Ix → Shape) (val : Ix → LaneSet → Nat → DWord) : Dev :=
  d.regOpAlso o t srcs sh (fun _ _ => none) val (fun _ w => w)

/-- An instruction with an effect of its own: the checks, then `act` with the lanes that go on; `act` gives the new
device and the lanes that stay. `gw` says whether a register result of the lanes that go on would have shape G. -/
def Dev.laneAct (d : Dev) (o : OpW) (ds srcs : List Use) (pre : Ix → Nat → Option Flt)
    (act : Dev → Ix → LaneSet → Dev × LaneSet) (gw : Ix → LaneSet → Bool := fun _ _ => false) : Dev :=
  match d.ix with
  | none => d
  | some x =>
    let p := d.plan x o ds srcs (pre x) (gw x)
    let r := act d x p.ok
    r.1.finish x p.ok r.2 p.bad

/-- A scalar-side instruction (R59): its checks once, for the whole arrival (R344); `act` gives a new device and, unless
it completes, the reason it rests or the fault it takes. -/
inductive Scalar where
  | done | rest (why : RestWhy) | fault (f : Flt)
  deriving DecidableEq, Repr

/-- The lanes `ls` of a warp rest together (R59, R60): as the arrival that they were, or as a fresh one that keeps the
registers as they stand. -/
def Dev.rest (d : Dev) (x : Ix) (ls : LaneSet) (why : RestWhy) : Dev :=
  if x.arr != 0 then
    { d.modWarp x.g x.wi (fun w => w.setWait ls (.rest x.arr why)) with
      rested := d.rested.map (fun r => if r.arr = x.arr then { r with why := why } else r) }
  else
  { d.modWarp x.g x.wi (fun w => w.setWait ls (.rest d.nextId why)) with
    rested := ⟨d.nextId, x.g, x.wi, x.pc, x.word, x.w, why, look 0 d.polver (16 * x.x.die + x.x.vf)⟩ :: d.rested
    nextId := d.nextId + 1 }

/-- A scalar-side instruction: when its guard holds in some issuing lane it executes once, faults or rests whole. -/
def Dev.scalarAct (d : Dev) (o : OpW) (ds srcs : List Use) (act : Dev → Ix → Dev × Scalar) (ts : List Nat := []) : Dev :=
  match d.ix with
  | none => d
  | some x =>
    let e := x.guard o
    if e = 0 && !d.guardBad x o then d.finish x 0 0 [] else
    let p := d.plan x o ds srcs (fun _ => none) (fun _ => false) [] ts
    if p.ok = 0 then d.finish x 0 0 p.bad else
    let r := act d x
    match r.2 with
    | .done => (r.1.mend x ds e).finish x e 0 []
    | .rest why => (r.1.rest x e why).finish x e e []
    | .fault f => r.1.finish x 0 0 (faultAll e f)

/-- Write a scalar register of the issuing warp. -/
def Dev.setS (d : Dev) (x : Ix) (o : Opnd) (v : DWord) : Dev :=
  match o with
  | .s n => d.modWarp x.g x.wi (·.writeS n.toNat v)
  | _ => d

end Sys2Proof.Machine
end

