-- ==== Sys2Proof/Machine/Num.lean ====
section
/-!
DEFINITION. Numbers: the floating-point formats of R93, the one rounding model of R97 to R99, the exact arithmetic of
R134 to R137, the generator of R100 and the block formats of R101 to R105. A real value is exact until one rounding.
-/
namespace Sys2Proof

/-- An exact value: a NaN, an infinity, or (−1)^neg × num/den × 2^exp with den positive. -/
inductive Val where
  | nan
  | inf (neg : Bool)
  | fin (neg : Bool) (num den : Nat) (exp : Int)
  deriving DecidableEq, Repr

/-- How a format treats its largest codes (R93, R98). -/
inductive Special where
  /-- infinities and NaNs at the all-ones exponent -/
  | ieee
  /-- e4m3: no infinity, one NaN, saturating -/
  | nanOnly
  /-- e2m1: no infinity, no NaN, no −0, saturating -/
  | none
  deriving DecidableEq, Repr

/-- A floating-point format (R93). -/
structure Fmt where
  ebits : Nat
  mbits : Nat
  bias : Nat
  special : Special
  deriving DecidableEq, Repr

def fmtF32 : Fmt := ⟨8, 23, 127, .ieee⟩
def fmtF16 : Fmt := ⟨5, 10, 15, .ieee⟩
def fmtBf16 : Fmt := ⟨8, 7, 127, .ieee⟩
def fmtE4m3 : Fmt := ⟨4, 3, 7, .nanOnly⟩
def fmtE5m2 : Fmt := ⟨5, 2, 15, .ieee⟩
def fmtE2m1 : Fmt := ⟨2, 1, 1, .none⟩

/-- The format of a float type (R93); e2m1s decodes as e2m1 but for its special (R95). -/
def Ty.fmt : Ty → Fmt
  | .f16 => fmtF16 | .bf16 => fmtBf16 | .e4m3 => fmtE4m3 | .e5m2 => fmtE5m2 | .e2m1 => fmtE2m1 | .e2m1s => fmtE2m1
  | _ => fmtF32

namespace Fmt

/-- The sign bit's place. -/
def signBit (f : Fmt) : Nat := f.ebits + f.mbits
/-- The code of the largest finite magnitude (R93). -/
def maxCode (f : Fmt) : Nat :=
  match f.special with
  | .ieee => (2 ^ f.ebits - 1) * 2 ^ f.mbits - 1
  | .nanOnly => 2 ^ (f.ebits + f.mbits) - 2
  | .none => 2 ^ (f.ebits + f.mbits) - 1
/-- The canonical NaN (R94); e2m1 gives code 0 for a NaN (R98). -/
def nanCode (f : Fmt) : Nat :=
  match f.special with
  | .ieee => (2 ^ f.ebits - 1) * 2 ^ f.mbits + 2 ^ (f.mbits - 1)
  | .nanOnly => 2 ^ (f.ebits + f.mbits) - 1
  | .none => 0
/-- The exponent of the smallest normal magnitude. -/
def emin (f : Fmt) : Int := 1 - (f.bias : Int)

/-- The value of a magnitude code below the infinities and NaNs (R93). -/
def magVal (f : Fmt) (neg : Bool) (c : Nat) : Val :=
  let e := c / 2 ^ f.mbits
  let m := c % 2 ^ f.mbits
  if e = 0 then .fin neg m 1 (f.emin - f.mbits)
  else .fin neg (m + 2 ^ f.mbits) 1 ((e : Int) - f.bias - f.mbits)

/-- The value of a code (R93, R95): bits above the format are ignored. -/
def decode (f : Fmt) (code : Nat) : Val :=
  let c := code % 2 ^ f.signBit
  let neg := code / 2 ^ f.signBit % 2 == 1
  match f.special with
  | .ieee =>
    if c / 2 ^ f.mbits = 2 ^ f.ebits - 1 then (if c % 2 ^ f.mbits = 0 then .inf neg else .nan) else f.magVal neg c
  | .nanOnly => if c = f.nanCode then .nan else f.magVal neg c
  | .none => if c = 0 then .fin false 0 1 0 else f.magVal neg c

/-- A magnitude code with a sign; a zero of a format without −0 is +0. -/
def withSign (f : Fmt) (neg : Bool) (c : Nat) : Nat :=
  if neg && !(f.special == .none && c == 0) then c + 2 ^ f.signBit else c

end Fmt

/-! ### Rounding (R97 to R99) -/

/-- The rounding modes of R97. -/
inductive Rm where
  | rne | rtz | rdn | rup | rto | sr
  deriving DecidableEq, Repr

/-- The mode of a rounding code (R97). -/
def Rm.ofCode (n : Nat) : Rm :=
  match n with
  | 1 => .rtz | 2 => .rdn | 3 => .rup | 4 => .rto | 5 => .sr | _ => .rne

/-- Whether the upper neighbour b is chosen, for the fraction num/den of the way from a to b (R97, R99). `out` is the
draw. -/
def Rm.up (rm : Rm) (neg aOdd : Bool) (num den out : Nat) : Bool :=
  if num = 0 then false else
  match rm with
  | .rne => decide (2 * num > den) || (decide (2 * num = den) && aOdd)
  | .rtz => false
  | .rdn => neg
  | .rup => !neg
  | .rto => !aOdd
  | .sr => decide (num * 2 ^ 24 / den + out / 256 ≥ 2 ^ 24)

/-- floor(log2 (n/d)) for positive n and d. -/
def floorLog2 (n d : Nat) : Int :=
  let k : Int := (Nat.log2 n : Int) - (Nat.log2 d : Int)
  let less := if k ≥ 0 then decide (n < d * 2 ^ k.toNat) else decide (n * 2 ^ (-k).toNat < d)
  if less then k - 1 else k

/-- n/d × 2^e over 2^q, as a numerator and a denominator. -/
def scaled (n d : Nat) (e q : Int) : Nat × Nat :=
  if e ≥ q then (n * 2 ^ (e - q).toNat, d) else (n, d * 2 ^ (q - e).toNat)

/-- Round the magnitude n/d × 2^e into a format, giving the magnitude code (R97, R98). -/
def Fmt.roundMag (f : Fmt) (rm : Rm) (neg : Bool) (n d : Nat) (e : Int) (out : Nat) : Nat :=
  if n = 0 then 0 else
  let fl := floorLog2 n d + e
  let emax : Int := (f.maxCode / 2 ^ f.mbits : Nat) - f.bias
  let q := (if fl > emax then emax else if fl < f.emin then f.emin else fl) - f.mbits
  let (num, den) := scaled n d e q
  let t := num / den
  let code := if t < 2 ^ f.mbits then t else ((q + f.mbits + f.bias).toNat) * 2 ^ f.mbits + (t - 2 ^ f.mbits)
  if code > f.maxCode ∨ t ≥ 2 ^ (f.mbits + 1) then
    match f.special with
    | .ieee =>
      let a := 2 ^ (f.mbits + 1) - 1
      if rm.up neg (f.maxCode % 2 == 1) (num - a * den) den out then f.maxCode + 1 else f.maxCode
    | _ => f.maxCode
  else if code = f.maxCode ∧ f.special ≠ .ieee then code
  else if rm.up neg (code % 2 == 1) (num % den) den out then code + 1 else code

/-- Round an exact value into a format (R97, R98). -/
def Fmt.round (f : Fmt) (rm : Rm) (out : Nat) : Val → Nat
  | .nan => f.nanCode
  | .inf neg => f.withSign neg (match f.special with | .ieee => f.maxCode + 1 | _ => f.maxCode)
  | .fin neg n d e => f.withSign neg (f.roundMag rm neg n d e out)

/-- Round a magnitude n/d × 2^e to an integer (R97). -/
def roundNat (rm : Rm) (neg : Bool) (n d : Nat) (e : Int) (out : Nat) : Nat :=
  let (num, den) := scaled n d e 0
  let a := num / den
  if rm.up neg (a % 2 == 1) (num % den) den out then a + 1 else a

/-- Clamp an integer to a range. -/
def clampInt (lo hi x : Int) : Int := if x < lo then lo else if x > hi then hi else x

/-- Round an exact value to an integer and clamp it (R98). -/
def roundInt (rm : Rm) (out : Nat) (lo hi : Int) : Val → Int
  | .nan => 0
  | .inf neg => if neg then lo else hi
  | .fin neg n d e =>
    let m : Int := roundNat rm neg n d e out
    clampInt lo hi (if neg then -m else m)

/-! ### Exact arithmetic -/

/-- The signed numerator of a finite value at a smaller exponent and a common denominator. -/
def signedAt (neg : Bool) (n d' : Nat) (e q : Int) : Int :=
  let m : Int := (n * d' * 2 ^ (e - q).toNat : Nat)
  if neg then -m else m

/-- The exact sum of two values; an exact zero of operands not both zero of one sign is −0 in rdn only (R134). -/
def Val.add (rm : Rm) : Val → Val → Val
  | .nan, _ => .nan
  | _, .nan => .nan
  | .inf a, .inf b => if a == b then .inf a else .nan
  | .inf a, .fin .. => .inf a
  | .fin .., .inf b => .inf b
  | .fin sa na da ea, .fin sb nb db eb =>
    if na = 0 ∧ nb = 0 then .fin (if sa == sb then sa else rm == .rdn) 0 1 0 else
    let q := if ea < eb then ea else eb
    let t := signedAt sa na db ea q + signedAt sb nb da eb q
    if t = 0 then .fin (rm == .rdn) 0 1 0 else .fin (decide (t < 0)) t.natAbs (da * db) q

/-- The negated value. -/
def Val.negate : Val → Val
  | .nan => .nan
  | .inf s => .inf (!s)
  | .fin s n d e => .fin (!s) n d e

/-- The exact product (R134, R135). -/
def Val.mul : Val → Val → Val
  | .nan, _ => .nan
  | _, .nan => .nan
  | .inf a, .inf b => .inf (a != b)
  | .inf a, .fin s n _ _ => if n = 0 then .nan else .inf (a != s)
  | .fin s n _ _, .inf b => if n = 0 then .nan else .inf (s != b)
  | .fin sa na da ea, .fin sb nb db eb => .fin (sa != sb) (na * nb) (da * db) (ea + eb)

/-- The exact quotient (R135). -/
def Val.div : Val → Val → Val
  | .nan, _ => .nan
  | _, .nan => .nan
  | .inf _, .inf _ => .nan
  | .inf a, .fin s _ _ _ => .inf (a != s)
  | .fin s _ _ _, .inf b => .fin (s != b) 0 1 0
  | .fin sa na da ea, .fin sb nb db eb =>
    if nb = 0 then (if na = 0 then .nan else .inf (sa != sb))
    else .fin (sa != sb) (na * db) (da * nb) (ea - eb)

/-- Whether a value is a NaN. -/
def Val.isNan : Val → Bool
  | .nan => true
  | _ => false

/-- Whether a value is finite. -/
def Val.isFin : Val → Bool
  | .fin .. => true
  | _ => false

/-- Whether a value is a zero. -/
def Val.isZero : Val → Bool
  | .fin _ n _ _ => n == 0
  | _ => false

/-- a × b + c exactly: 0 × ∞ is NaN whatever c is (R135). -/
def Val.fma (rm : Rm) (a b c : Val) : Val :=
  match a.mul b with
  | .nan => .nan
  | p => Val.add rm p c

/-- floor(√n) by one bit at a time from bit `k - 1`. -/
def isqrtFrom (n : Nat) : Nat → Nat → Nat
  | 0, r => r
  | k + 1, r => if (r + 2 ^ k) * (r + 2 ^ k) ≤ n then isqrtFrom n k (r + 2 ^ k) else isqrtFrom n k r

/-- floor(√n). -/
def isqrt (n : Nat) : Nat := isqrtFrom n (Nat.log2 n / 2 + 1) 0

/-- An approximation of √(n/d) × 2^e that rounds as the exact root does: 64 bits more than any format keeps, with a
half unit added when the root is inexact. -/
def rootVal (n d : Nat) (e : Int) : Val :=
  let odd := e % 2 ≠ 0
  let n' := if odd then 2 * n else n
  let e' := if odd then e - 1 else e
  let k := 128 + Nat.log2 d
  let x := n' * 2 ^ (2 * k)
  let r := isqrt (x / d)
  .fin false (2 * r + (if r * r * d = x then 0 else 1)) 1 (e' / 2 - k - 1)

/-- √a (R134, R135). -/
def Val.sqrt : Val → Val
  | .nan => .nan
  | .inf neg => if neg then .nan else .inf false
  | .fin neg n d e => if n = 0 then .fin neg 0 1 0 else if neg then .nan else rootVal n d e

/-- Compare two values that are not NaN: −0 equals +0. -/
def Val.cmp : Val → Val → Ordering
  | .inf a, .inf b => if a == b then .eq else if a then .lt else .gt
  | .inf a, _ => if a then .lt else .gt
  | _, .inf b => if b then .gt else .lt
  | .fin sa na da ea, .fin sb nb db eb =>
    let q := if ea < eb then ea else eb
    compare (signedAt sa na db ea q) (signedAt sb nb da eb q)
  | _, _ => .eq

/-! ### f32 (R134 to R138) -/

/-- The value of a binary32 pattern. -/
def f32 (w : Word) : Val := fmtF32.decode w.toNat
/-- Round into binary32. -/
def toF32 (rm : Rm) (v : Val) : Word := BitVec.ofNat 32 (fmtF32.round rm 0 v)
/-- The canonical NaN (R94). -/
def nan32 : Word := 0x7FC00000

/-- a + b rounded once. -/
def fAdd (rm : Rm) (a b : Word) : Word := toF32 rm ((f32 a).add rm (f32 b))
/-- a − b rounded once, as a + (−b): operands are both zero of one sign in R134 after the change of b's sign, so that (−0) − (+0) is −0 and
(+0) − (−0) is +0 in every mode (DESIGN CHOICE, log 25). -/
def fSub (rm : Rm) (a b : Word) : Word := toF32 rm ((f32 a).add rm (f32 b).negate)
/-- a × b rounded once. -/
def fMul (rm : Rm) (a b : Word) : Word := toF32 rm ((f32 a).mul (f32 b))
/-- a × b + c rounded once. -/
def fFma (rm : Rm) (a b c : Word) : Word := toF32 rm ((f32 a).fma rm (f32 b) (f32 c))
/-- a / b rounded once. -/
def fDiv (rm : Rm) (a b : Word) : Word := toF32 rm ((f32 a).div (f32 b))
/-- √a rounded once. -/
def fSqrt (rm : Rm) (a : Word) : Word := toF32 rm (f32 a).sqrt

/-- The order of f32 patterns with −0 below +0 (R136). -/
def f32Key (a : Word) : Int := if a.toNat < 2 ^ 31 then a.toNat else 2 ^ 31 - 1 - (a.toNat : Int)

/-- The lesser source, the other when one is NaN, the canonical NaN when both are (R136). -/
def fMin (a b : Word) : Word :=
  match (f32 a).isNan, (f32 b).isNan with
  | true, true => nan32
  | true, false => b
  | false, true => a
  | false, false => if f32Key b < f32Key a then b else a

/-- The greater source, with NaNs as in `fMin` (R136). -/
def fMax (a b : Word) : Word :=
  match (f32 a).isNan, (f32 b).isNan with
  | true, true => nan32
  | true, false => b
  | false, true => a
  | false, false => if f32Key b > f32Key a then b else a

/-- Round to an integral f32 value, keeping the sign of a source that rounds to zero (R138). -/
def fRnd (rm : Rm) (a : Word) : Word :=
  match f32 a with
  | .nan => nan32
  | .inf _ => a
  | .fin neg n d e =>
    if n = 0 ∨ e ≥ 0 then a else toF32 .rne (.fin neg (roundNat rm neg n d e 0) 1 0)

/-- Convert a code from one float type to another (R139). -/
def fCvt (dst src : Ty) (rm : Rm) (out : Nat) (x : Nat) : Nat := dst.fmt.round rm out (src.fmt.decode x)

/-- The class bit of a code (R141). -/
def fClass (f : Fmt) (code : Nat) : Nat :=
  match f.decode code with
  | .nan => 8
  | .inf neg => if neg then 0 else 7
  | .fin neg n _ _ =>
    if n = 0 then (if neg then 3 else 4)
    else if code % 2 ^ f.signBit < 2 ^ f.mbits then (if neg then 2 else 5) else (if neg then 1 else 6)

/-- An integer as an exact value; zero is +0. -/
def Val.ofInt (x : Int) : Val := .fin (decide (x < 0)) x.natAbs 1 0

/-- Convert an integer to f32 (R140). -/
def i2f (rm : Rm) (out : Nat) (x : Int) : Word := BitVec.ofNat 32 (fmtF32.round rm out (Val.ofInt x))

/-! ### The generator (R100) -/

/-- The draw of a lane: out for a key, a lane and a counter. -/
def draw (key : DWord) (lane : Nat) (ctr : Word) : Nat :=
  let x : DWord := key ^^^ (BitVec.ofNat 64 lane <<< 32 ||| ctr.setWidth 64)
  let x := x ^^^ (x >>> 31)
  let x := x * 0x9E3779B97F4A7C15
  let x := x ^^^ (x >>> 29)
  let x := x * 0xC2B2AE3D27D4EB4F
  let x := x ^^^ (x >>> 32)
  (x >>> 32).toNat

/-- The uniform f32 in (0, 1] of a draw. -/
def uniform (out : Nat) : Word := toF32 .rne (.fin false (out / 256 + 1) 1 (-24))

/-! ### Self-describing blocks (R101 to R105) -/

/-- A block header's fields: fmt in [7:4], aux in [3:0], scale in [15:8] (R101). -/
structure Hdr where
  fmt : Nat
  aux : Nat
  scale : Nat
  deriving DecidableEq, Repr

/-- The header of a block's first half (R101); bits above 16 are ignored. -/
def Hdr.ofNat (x : Nat) : Hdr := ⟨x / 16 % 16, x % 16, x / 256 % 256⟩

/-- The element width of a block format; 0 for the zero block, which has any width (R102). -/
def blkWidth (fmt : Nat) : Nat :=
  if fmt = 0 then 0 else if fmt ≤ 4 then 8 else if fmt ≤ 7 then 4 else 16

/-- The element types of the float block formats (R102). -/
def blkTy (fmt : Nat) : Ty :=
  match fmt with
  | 3 => .e4m3 | 4 => .e5m2 | 5 => .e2m1 | 6 => .e2m1s | 8 => .f16 | 9 => .bf16 | _ => .f32

/-- A header malformed by R103, the width class aside. -/
def Hdr.malformed (h : Hdr) : Bool :=
  decide (h.fmt ≥ 11) || (h.aux != 0 && h.fmt != 6) || (h.fmt == 0 && (h.scale != 0 || h.aux != 0))

/-- The special's magnitude in halves, by aux[2:0] (R95). -/
def specialHalves (aux : Nat) : Nat := [5, 7, 9, 10, 11, 13, 14, 15].getD (aux % 8) 0

/-- The value of an element code before scaling (R105). -/
def blkDecode (fmt aux code : Nat) : Val :=
  match fmt with
  | 0 => .fin false 0 1 0
  | 1 => .ofInt (BitVec.ofNat 8 code).toInt
  | 2 => .ofInt (code % 256 : Nat)
  | 6 => if code % 16 = 8 then .fin (decide (aux ≥ 8)) (specialHalves aux) 1 (-1) else fmtE2m1.decode code
  | 7 => .ofInt (BitVec.ofNat 4 code).toInt
  | 10 => .ofInt (BitVec.ofNat 16 code).toInt
  | f => (blkTy f).fmt.decode code

/-- A value times 2^k. -/
def Val.scale (k : Int) : Val → Val
  | .fin s n d e => .fin s n d (e + k)
  | v => v

/-- An element's exact value V: decode(code) × 2^(scale − 127); scale 255 gives NaN, and every element of a zero block
is +0 (R102, R105). -/
def Hdr.value (h : Hdr) (code : Nat) : Val :=
  if h.fmt = 0 then .fin false 0 1 0
  else if h.scale = 255 then .nan
  else (blkDecode h.fmt h.aux code).scale ((h.scale : Int) - 127)

/-- The ordinary magnitudes of e2m1 in halves, by magnitude code (R95). -/
def e2m1Halves : List Nat := [0, 1, 2, 3, 4, 6, 8, 12]

/-- The candidates of a sign in e2m1s: magnitude in halves, code, and whether it is the special (R95, R97). -/
def e2m1sCands (aux : Nat) (neg : Bool) : List (Nat × Nat × Bool) :=
  let ord := (List.range 8).map (fun c => (e2m1Halves.getD c 0, (if neg && c != 0 then c + 8 else c), false))
  if decide (aux ≥ 8) == neg then
    let s := specialHalves aux
    ord.filter (fun x => decide (x.1 < s)) ++ [(s, 8, true)] ++ ord.filter (fun x => decide (x.1 > s))
  else ord

/-- The last candidate at or below num/den, and those above it. -/
def splitCands (num den : Nat) : List (Nat × Nat × Bool) → Option (Nat × Nat × Bool) × List (Nat × Nat × Bool)
  | [] => (none, [])
  | x :: xs =>
    if num < x.1 * den then (none, x :: xs)
    else match splitCands num den xs with
      | (none, r) => (some x, r)
      | (some y, r) => (some y, r)

/-- Round into e2m1s with the special of aux: a tie, or an rto choice, between the special and an ordinary value goes
to the ordinary value (R97, R98). -/
def roundE2m1s (rm : Rm) (out aux : Nat) : Val → Nat
  | .nan => 0
  | .inf neg => ((e2m1sCands aux neg).getLastD (0, 0, false)).2.1
  | .fin neg n d e =>
    let (num, den) := scaled n d e (-1)
    match splitCands num den (e2m1sCands aux neg) with
    | (some a, b :: _) =>
      let x := num - a.1 * den
      let w := (b.1 - a.1) * den
      let aOdd := if a.2.2 then true else if b.2.2 then false else a.2.1 % 2 == 1
      let up := match rm with
        | .rto => if a.2.2 then decide (x ≠ 0) else if b.2.2 then false else rm.up neg aOdd x w out
        | _ => rm.up neg aOdd x w out
      if up then b.2.1 else a.2.1
    | (some a, []) => a.2.1
    | (none, _) => 0

/-- Round a value into the element code of a block format (R97, R98, R144). -/
def blkRound (fmt aux : Nat) (rm : Rm) (out : Nat) (v : Val) : Nat :=
  match fmt with
  | 1 => (BitVec.ofInt 8 (roundInt rm out (-128) 127 v)).toNat
  | 2 => (roundInt rm out 0 255 v).toNat
  | 6 => roundE2m1s rm out aux v
  | 7 => (BitVec.ofInt 4 (roundInt rm out (-8) 7 v)).toNat
  | 10 => (BitVec.ofInt 16 (roundInt rm out (-32768) 32767 v)).toNat
  | f => (blkTy f).fmt.round rm out v

/-- The code of a value in a block with a header. -/
def Hdr.encode (h : Hdr) (rm : Rm) (out : Nat) (v : Val) : Nat :=
  if h.fmt = 0 then 0 else blkRound h.fmt h.aux rm out (v.scale (127 - (h.scale : Int)))

/-- The emax values of `bscl` (R145). -/
def blkEmax (fmt : Nat) : Int :=
  ([0, 6, 7, 8, 15, 2, 2, 2, 15, 127, 14].getD fmt 0 : Nat)

/-- The elements a block holds (R102) at a width. -/
def epb (w : Nat) : Nat := 496 / w

end Sys2Proof
end

