-- ==== Sys2Proof/Machine/Transc.lean ====
section
/-!
DEFINITION. The transcendentals of R135, correctly rounded rne: the exact cases of its table first, and elsewhere a value
formed in fixed point with 420 fraction bits and rounded once (log 11).
-/
namespace Sys2Proof

/-- The fraction bits of the fixed-point values below. -/
def tp : Nat := 420

/-- π in fixed point. -/
def tPi : Nat := 0x3243f6a8885a308d313198a2e03707344a4093822299f31d0082efa98ec4e6c89452821e638d01377be5466cf34e90c6cc0ac29b7c

/-- ln 2 in fixed point. -/
def tLn2 : Nat := 0xb17217f7d1cf79abc9e3b39803f2f6af40f343267298b62d8a0d175b8baafa2be7b876206debac98559552fb4afa1b10ed2eae35c

/-- The sum y^k/k! from the term `t` at index `k`, in fixed point: the exponential series. -/
def expSeries (y : Nat) : Nat → Nat → Nat → Nat
  | 0, _, _ => 0
  | fuel + 1, k, t => t + expSeries y fuel (k + 1) (t * y / 2 ^ tp / (k + 1))

/-- The alternating sum of t, t·y²/((k+1)(k+2)), …: the sine and cosine series. -/
def altSeries (y2 : Nat) : Nat → Nat → Nat → Int
  | 0, _, _ => 0
  | fuel + 1, k, t => (t : Int) - altSeries y2 fuel (k + 2) (t * y2 / 2 ^ tp / ((k + 1) * (k + 2)))

/-- The sum of t/k, t·z²/(k+2), …: the inverse hyperbolic tangent series. -/
def atanhSeries (z2 : Nat) : Nat → Nat → Nat → Nat
  | 0, _, _ => 0
  | fuel + 1, k, t => t / k + atanhSeries z2 fuel (k + 2) (t * z2 / 2 ^ tp)

/-- sin(π r/D) for 0 < r/D ≤ 1/4, in fixed point. -/
def sinPi (r D : Nat) : Nat :=
  let y := tPi * r / D
  (altSeries (y * y / 2 ^ tp) 60 1 y).toNat

/-- cos(π r/D) for 0 ≤ r/D ≤ 1/4, in fixed point. -/
def cosPi (r D : Nat) : Nat :=
  let y := tPi * r / D
  (altSeries (y * y / 2 ^ tp) 60 0 (2 ^ tp)).toNat

/-- sin(π r/D) for 0 ≤ r/D < 1, with its exact values at 0 and 1/2. -/
def sinHalf (r D : Nat) : Val :=
  let r := if 2 * r > D then D - r else r
  if r = 0 then .fin false 0 1 0
  else if 2 * r = D then .fin false 1 1 0
  else if 4 * r ≤ D then .fin false (sinPi r D) 1 (-tp)
  else .fin false (cosPi (D - 2 * r) (2 * D)) 1 (-tp)

/-- sin(π r/D) for a phase 0 ≤ r/D < 2; a zero is +0. -/
def sinTurn (r D : Nat) : Val :=
  if r < D then sinHalf r D else
  match sinHalf (r - D) D with
  | .fin _ n d e => if n = 0 then .fin false 0 1 0 else .fin true n d e
  | v => v

/-- `fsinpi` (R135): ±0 keep their sign, and an integer n gives +0 for n > 0 and −0 for n < 0. -/
def fSinpi (a : Word) : Word :=
  match f32 a with
  | .fin neg n _ e =>
    if n = 0 then a else if e ≥ 0 then (if neg then 0x80000000 else 0) else
    let D := 2 ^ (-e).toNat
    match sinTurn (n % (2 * D)) D with
    | .fin s m d k => if m = 0 then (if neg then 0x80000000 else 0) else toF32 .rne (.fin (s != neg) m d k)
    | v => toF32 .rne v
  | _ => nan32

/-- `fcospi` (R135): cos(πx) = sin(π(|x| + 1/2)). -/
def fCospi (a : Word) : Word :=
  match f32 a with
  | .fin _ n _ e =>
    if n = 0 then 0x3F800000
    else if e ≥ 0 then (if (n * 2 ^ e.toNat) % 2 = 0 then 0x3F800000 else 0xBF800000)
    else let D := 2 * 2 ^ (-e).toNat
         toF32 .rne (sinTurn ((2 * n + D / 2) % (2 * D)) D)
  | _ => nan32

/-- `fexp2` (R135): 2^x = 2^i × exp(f ln 2) with x = i + f, 0 ≤ f < 1. -/
def fExp2 (a : Word) : Word :=
  match f32 a with
  | .nan => nan32
  | .inf neg => if neg then 0 else 0x7F800000
  | .fin neg n _ e =>
    if n = 0 then 0x3F800000
    else if floorLog2 n 1 + e ≥ 8 then toF32 .rne (.fin false 1 1 (if neg then -1000 else 1000))
    else
      let D : Nat := if e ≥ 0 then 1 else 2 ^ (-e).toNat
      let x : Int := (if e ≥ 0 then n * 2 ^ e.toNat else n : Nat)
      let x := if neg then -x else x
      let i := x.fdiv D
      let f := (x.fmod D).toNat
      if f = 0 then toF32 .rne (.fin false 1 1 i)
      else toF32 .rne (.fin false (expSeries (tLn2 * f / D) 90 0 (2 ^ tp)) 1 (i - tp))

/-- `flog2` (R135): log2(m × 2^k) = k + ln(m)/ln 2 with m in [3/4, 3/2), exact at the powers of two. -/
def fLog2 (a : Word) : Word :=
  match f32 a with
  | .nan => nan32
  | .inf neg => if neg then nan32 else 0x7F800000
  | .fin neg n _ e =>
    if n = 0 then 0xFF800000 else if neg then nan32 else
    let l := Nat.log2 n
    if n = 2 ^ l then toF32 .rne (Val.ofInt ((l : Int) + e)) else
    let up := decide (2 * n ≥ 3 * 2 ^ l)
    let l' := if up then l + 1 else l
    let one := 2 ^ l'
    let z := (if up then one - n else n - one) * 2 ^ tp / (n + one)
    let ln : Int := (2 * atanhSeries (z * z / 2 ^ tp) 110 1 z : Nat)
    let frac : Int := (if up then -ln else ln) * 2 ^ tp / tLn2
    let v := ((l' : Int) + e) * 2 ^ tp + frac
    toF32 .rne (.fin (decide (v < 0)) v.natAbs 1 (-tp))

/-- `frcp` (R135): 1/a. -/
def fRcp (a : Word) : Word := toF32 .rne ((Val.fin false 1 1 0).div (f32 a))

/-- `frsq` (R135): 1/√a. -/
def fRsq (a : Word) : Word :=
  match f32 a with
  | .nan => nan32
  | .inf neg => if neg then nan32 else 0
  | .fin neg n d e =>
    if n = 0 then (if neg then 0xFF800000 else 0x7F800000)
    else if neg then nan32 else toF32 .rne (rootVal d n (-e))

end Sys2Proof
end

