-- ==== Sys2Proof/Machine/Flags.lean ====
section
/-!
DEFINITION. Predicate results and result shapes: the comparison codes of R78, R119 and R137, and the affine shapes of R65.
-/
namespace Sys2Proof.Machine

/-- A comparison of an ordering by a cc code 0 to 5 (R119). -/
def ccOf (cc : Nat) (o : Ordering) : Bool :=
  match cc with
  | 0 => o == .eq
  | 1 => o != .eq
  | 2 => o == .lt
  | 3 => o != .lt
  | 4 => o == .gt
  | _ => o != .gt

/-- The comparison of two values read as a type (R119). -/
def cmpInt (t : Ty) (cc : Nat) (a b : DWord) : Bool := ccOf cc (compare (tyInt t a) (tyInt t b))

/-- The comparison of two f32 values by a cc code 0 to 7 (R137). -/
def cmpF32 (cc : Nat) (a b : Word) : Bool :=
  let un := (f32 a).isNan || (f32 b).isNan
  match cc with
  | 6 => un
  | 7 => !un
  | _ => if un then cc == 1 else ccOf cc ((f32 a).cmp (f32 b))

/-- Whether `brc` is taken: a compared against zero (R78). -/
def brcTaken (t : Ty) (cc : Nat) (a : DWord) : Bool :=
  if t == .f32 then cmpF32 cc (a.setWidth 32) 0 else cmpInt t cc a 0

/-- A truth value as a result. -/
def ofBool (b : Bool) : DWord := if b then 1 else 0

/-- The shape of a sum or difference (R65): A and U, or A and A, at a 32-bit type without `.sat`. `ua` and `ub` are
the values of uniform sources. -/
def shapeSum (sub : Bool) (sa sb : Shape) (ua ub : Word) : Shape :=
  let f := fun (p q : Word) => if sub then p - q else p + q
  match sa, sb with
  | .u, .u => .u
  | .a b t, .u => .a (f b ub) t
  | .u, .a b t => .a (f ua b) (f 0 t)
  | .a b t, .a b' t' => .a (f b b') (f t t')
  | _, _ => .g

/-- The shape of a low product (R65): A and U at a 32-bit type without `.sat`. -/
def shapeMul (sa sb : Shape) (ua ub : Word) : Shape :=
  match sa, sb with
  | .u, .u => .u
  | .a b t, .u => .a (b * ub) (t * ub)
  | .u, .a b t => .a (ua * b) (ua * t)
  | _, _ => .g

/-- An affine shape only where it applies: elsewhere the shape of R65's last row. -/
def shapeIf (c : Bool) (sh all : Shape) : Shape := if c then sh else all

/-- Whether a type is i32 or n32. -/
def is32 (t : Ty) : Bool := t == .i32 || t == .n32

end Sys2Proof.Machine
end

