-- ==== Sys2Proof/Machine/Int.lean ====
section
/-!
DEFINITION. Row 1: integer, logic, shift, bit-field, selection, compare and address instructions (R110 to R121). The
F-form and the L-form of an instruction share one operation.
-/
namespace Sys2Proof.Machine

/-- The range of an integer type (R92). -/
def tyMin (t : Ty) : Int := if t.signed then -(2 ^ (t.width - 1) : Int) else 0
def tyMax (t : Ty) : Int := if t.signed then (2 ^ (t.width - 1) : Int) - 1 else (2 ^ t.width : Int) - 1

/-- An exact result narrowed to a type: wrapped, or clamped under `.sat` (R111). -/
def narrow (t : Ty) (sat : Bool) (r : Int) : DWord :=
  if sat then BitVec.ofInt 64 (clampInt (tyMin t) (tyMax t) r) else tyTrunc t (BitVec.ofInt 64 r)

/-- `.sat` (R111). -/
def OpW.sat (o : OpW) : Bool := o.sub % 2 == 1

/-- A source use at the width of the word's type. -/
def OpW.src (o : OpW) (f : Opnd) : Use := useAt o.ty f

/-- A two-source integer instruction whose exact result `f` gives. -/
def Dev.arith2 (d : Dev) (o : OpW) (sat : Bool) (sh : Ix → Shape → Shape) (f : Int → Int → Int) : Dev :=
  let srcs := [o.src o.a, o.src o.b]
  d.regOp o o.ty srcs (fun x => sh x (x.shapeAll srcs))
    (fun x _ L => narrow o.ty sat (f (tyInt o.ty (x.val o o.ty o.a L)) (tyInt o.ty (x.val o o.ty o.b L))))

/-- A two-source instruction on the bits of its sources. -/
def Dev.logic2 (d : Dev) (o : OpW) (f : DWord → DWord → DWord) : Dev :=
  let srcs := [o.src o.a, o.src o.b]
  d.regOp o o.ty srcs (·.shapeAll srcs) (fun x _ L => f (x.val o o.ty o.a L) (x.val o o.ty o.b L))

/-- A one-source integer instruction. -/
def Dev.arith1 (d : Dev) (o : OpW) (f : DWord → DWord) : Dev :=
  let srcs := [o.src o.a]
  d.regOp o o.ty srcs (·.shapeAll srcs) (fun x _ L => f (x.val o o.ty o.a L))

/-- The shape of `add` and `sub` (R65). -/
def sumShape (sub : Bool) (o : OpW) (x : Ix) (all : Shape) : Shape :=
  let v := fun f => (x.val o .n32 f (lowest x.w.live)).setWidth 32
  shapeIf (is32 o.ty && !o.sat) (shapeSum sub (x.shapeOf o.a 1) (x.shapeOf o.b 1) (v o.a) (v o.b)) all

/-- The shape of `mul` (R65). -/
def mulShape (o : OpW) (x : Ix) (all : Shape) : Shape :=
  let v := fun f => (x.val o .n32 f (lowest x.w.live)).setWidth 32
  shapeIf (is32 o.ty && !o.sat) (shapeMul (x.shapeOf o.a 1) (x.shapeOf o.b 1) (v o.a) (v o.b)) all

def Dev.add (d : Dev) (o : OpW) : Dev := d.arith2 o o.sat (sumShape false o) (· + ·)
def Dev.sub (d : Dev) (o : OpW) : Dev := d.arith2 o o.sat (sumShape true o) (· - ·)
def Dev.mul (d : Dev) (o : OpW) : Dev := d.arith2 o o.sat (mulShape o) (· * ·)
def Dev.min (d : Dev) (o : OpW) : Dev := d.arith2 o false (fun _ s => s) (fun a b => if b < a then b else a)
def Dev.max (d : Dev) (o : OpW) : Dev := d.arith2 o false (fun _ s => s) (fun a b => if b > a then b else a)

/-- `mulh`: bits [2w−1:w] of the product (R113). -/
def Dev.mulh (d : Dev) (o : OpW) : Dev := d.arith2 o false (fun _ s => s) (fun a b => (a * b) / 2 ^ o.ty.width)

/-- `mad` (R113). -/
def Dev.mad (d : Dev) (o : OpW) : Dev :=
  let srcs := [o.src o.a, o.src o.b, o.src o.c]
  let i := fun (x : Ix) f L => tyInt o.ty (x.val o o.ty f L)
  d.regOp o o.ty srcs (·.shapeAll srcs) (fun x _ L => narrow o.ty o.sat (i x o.a L * i x o.b L + i x o.c L))

/-- `div` and `rem`: a zero divisor faults in its lane (R114). -/
def Dev.divRem (d : Dev) (o : OpW) (cause : Cause) (f : Int → Int → DWord) : Dev :=
  let srcs := [o.src o.a, o.src o.b]
  let i := fun (x : Ix) f L => tyInt o.ty (x.val o o.ty f L)
  d.regOpAlso o o.ty srcs (·.shapeAll srcs) (fun x L => if i x o.b L = 0 then some ⟨cause, 0, 0⟩ else none)
    (fun x _ L => f (i x o.a L) (i x o.b L)) (fun _ w => w)

/-- The low w bits inverted. -/
def tyNot (t : Ty) (x : DWord) : DWord := tyTrunc t (~~~x)

def Dev.and (d : Dev) (o : OpW) : Dev := d.logic2 o (· &&& ·)
def Dev.or (d : Dev) (o : OpW) : Dev := d.logic2 o (· ||| ·)
def Dev.xor (d : Dev) (o : OpW) : Dev := d.logic2 o (· ^^^ ·)
def Dev.andn (d : Dev) (o : OpW) : Dev := d.logic2 o (fun a b => a &&& ~~~b)

/-- A shift or rotation: `f` gives the result for the source and the count (R116). -/
def Dev.shift (d : Dev) (o : OpW) (f : DWord → Nat → DWord) : Dev :=
  let srcs : List Use := [o.src o.a, (o.b, 1)]
  d.regOp o o.ty srcs (·.shapeAll srcs) (fun x _ L => f (x.val o o.ty o.a L) (x.cnt o o.b L))

def shlBits (t : Ty) (a : DWord) (c : Nat) : DWord := if c < t.width then tyTrunc t (a <<< c) else 0
def shrBits (t : Ty) (a : DWord) (c : Nat) : DWord := if c < t.width then a >>> c else 0
/-- `sar` copies bit w − 1 whatever the signedness of the type (R116). -/
def sarBits (t : Ty) (a : DWord) (c : Nat) : DWord :=
  let s : Int := if a.getLsbD (t.width - 1) then (a.toNat : Int) - 2 ^ t.width else a.toNat
  tyTrunc t (BitVec.ofInt 64 (s / 2 ^ (if c < t.width then c else t.width)))
def rotBits (t : Ty) (a : DWord) (c : Nat) : DWord :=
  let k := c % t.width
  tyTrunc t (a <<< k ||| a >>> (t.width - k))

/-- The leading zeros of the low w bits (R117). -/
def clzBits (t : Ty) (a : DWord) : DWord := BitVec.ofNat 64 (if a = 0 then t.width else t.width - 1 - Nat.log2 a.toNat)
/-- The set bits. -/
def popcBits (a : DWord) : DWord := BitVec.ofNat 64 ((List.range 64).filter (fun i => a.getLsbD i)).length
/-- The low w bits reversed. -/
def brevBits (t : Ty) (a : DWord) : DWord :=
  (List.range t.width).foldl (fun r i => if a.getLsbD i then r ||| (1#64 <<< (t.width - 1 - i)) else r) 0

/-- The field of `bfe` and `bfi`: position and length (R118). -/
def fieldOf (t : Ty) (b c : Nat) : Nat × Nat :=
  let pos := Nat.min (b % 256) t.width
  (pos, Nat.min (c % 256) (t.width - pos))

/-- `bfe` (R118). -/
def bfeBits (t : Ty) (a : DWord) (b c : Nat) : DWord :=
  let (pos, len) := fieldOf t b c
  let x := bits a.toNat pos len
  let neg := t.signed && decide (len > 0) && x.testBit (len - 1)
  tyTrunc t (BitVec.ofInt 64 (if neg then (x : Int) - 2 ^ len else x))

/-- `bfi` (R118). -/
def bfiBits (t : Ty) (old a : DWord) (b c : Nat) : DWord :=
  let (pos, len) := fieldOf t b c
  let mask : DWord := BitVec.ofNat 64 ((2 ^ len - 1) * 2 ^ pos)
  old &&& ~~~mask ||| (a <<< pos) &&& mask

def Dev.bfe (d : Dev) (o : OpW) : Dev :=
  let srcs : List Use := [o.src o.a, (o.b, 1), (o.c, 1)]
  d.regOp o o.ty srcs (·.shapeAll srcs) (fun x _ L => bfeBits o.ty (x.val o o.ty o.a L) (x.cnt o o.b L) (x.cnt o o.c L))

def Dev.bfi (d : Dev) (o : OpW) : Dev :=
  let srcs : List Use := [o.src o.d, o.src o.a, (o.b, 1), (o.c, 1)]
  d.regOp o o.ty srcs (·.shapeAll srcs)
    (fun x _ L => bfiBits o.ty (x.val o o.ty o.d L) (x.val o o.ty o.a L) (x.cnt o o.b L) (x.cnt o o.c L))

/-- `sel` (R119). -/
def Dev.sel (d : Dev) (o : OpW) : Dev :=
  let srcs : List Use := [o.src o.a, o.src o.b, (o.c, 1)]
  d.regOp o o.ty srcs (·.shapeAll srcs)
    (fun x _ L => if x.val o .n32 o.c L = 1 then x.val o o.ty o.a L else x.val o o.ty o.b L)

/-- `cmp` (R119). -/
def Dev.cmp (d : Dev) (o : OpW) : Dev :=
  d.regOp o .n32 [o.src o.a, o.src o.b] (fun _ => .g)
    (fun x _ L => ofBool (cmpInt o.ty o.sub (x.val o o.ty o.a L) (x.val o o.ty o.b L)))

/-- `lea` (R120); `disp` is the displacement of a lane. -/
def Dev.lea (d : Dev) (o : OpW) (srcs : List Use) (disp : Ix → Nat → DWord) : Dev :=
  d.regOp o o.ty srcs (·.shapeAll srcs) (fun x _ L =>
    let b := (x.val o .n32 o.b L).setWidth 32
    let index : DWord := if o.sub / 4 % 2 = 1 then b.signExtend 64 else b.setWidth 64
    tyTrunc o.ty (x.val o o.ty o.a L + (index <<< (o.sub % 4)) + disp x L))

def Dev.leaF (d : Dev) (o : OpW) : Dev :=
  d.lea o [o.src o.a, (o.b, 1), o.src o.c] (fun x L => x.val o o.ty o.c L)
def Dev.leaL (d : Dev) (o : OpW) : Dev := d.lea o [o.src o.a, (o.b, 1)] (fun _ _ => 0)

/-- `sext` and `zext`: the result is 32 bits for an 8- or 16-bit type and 64 bits for a 32-bit one (R121). -/
def Dev.extend (d : Dev) (o : OpW) : Dev :=
  let t : Ty := if o.ty.width = 32 || o.d.kind == .s then (if o.ty.signed then .i64 else .n64) else o.ty
  let srcs := [o.src o.a]
  d.regOp o t srcs (·.shapeAll srcs) (fun x _ L => tyImage o.ty (x.val o o.ty o.a L))

/-! ### The meanings -/

def execAdd (f : FWord) (s : State) := s.onDev (·.add (fop f))
def execAddL (f : LWord) (s : State) := s.onDev (·.add (lop f))
def execSub (f : FWord) (s : State) := s.onDev (·.sub (fop f))
def execSubL (f : LWord) (s : State) := s.onDev (·.sub (lop f))
def execMul (f : FWord) (s : State) := s.onDev (·.mul (fop f))
def execMulL (f : LWord) (s : State) := s.onDev (·.mul (lop f))
def execMulh (f : FWord) (s : State) := s.onDev (·.mulh (fop f))
def execMad (f : FWord) (s : State) := s.onDev (·.mad (fop f))
def execDiv (f : FWord) (s : State) :=
  s.onDev (·.divRem (fop f) 0x0C0 (fun a b => narrow f.ty (fop f).sat (a.tdiv b)))
def execRem (f : FWord) (s : State) := s.onDev (·.divRem (fop f) 0x0C1 (fun a b => narrow f.ty false (a.tmod b)))
def execMin (f : FWord) (s : State) := s.onDev (·.min (fop f))
def execMinL (f : LWord) (s : State) := s.onDev (·.min (lop f))
def execMax (f : FWord) (s : State) := s.onDev (·.max (fop f))
def execMaxL (f : LWord) (s : State) := s.onDev (·.max (lop f))
def execAbs (f : FWord) (s : State) :=
  s.onDev (·.arith1 (fop f) (fun a => narrow f.ty (fop f).sat (tyInt f.ty a).natAbs))
def execNeg (f : FWord) (s : State) := s.onDev (·.arith1 (fop f) (fun a => narrow f.ty (fop f).sat (-(tyInt f.ty a))))
def execAnd (f : FWord) (s : State) := s.onDev (·.and (fop f))
def execAndL (f : LWord) (s : State) := s.onDev (·.and (lop f))
def execOr (f : FWord) (s : State) := s.onDev (·.or (fop f))
def execOrL (f : LWord) (s : State) := s.onDev (·.or (lop f))
def execXor (f : FWord) (s : State) := s.onDev (·.xor (fop f))
def execXorL (f : LWord) (s : State) := s.onDev (·.xor (lop f))
def execNot (f : FWord) (s : State) := s.onDev (·.arith1 (fop f) (tyNot f.ty))
def execAndn (f : FWord) (s : State) := s.onDev (·.andn (fop f))
def execAndnL (f : LWord) (s : State) := s.onDev (·.andn (lop f))
def execShl (f : FWord) (s : State) := s.onDev (·.shift (fop f) (shlBits f.ty))
def execShr (f : FWord) (s : State) := s.onDev (·.shift (fop f) (shrBits f.ty))
def execSar (f : FWord) (s : State) := s.onDev (·.shift (fop f) (sarBits f.ty))
def execRot (f : FWord) (s : State) := s.onDev (·.shift (fop f) (rotBits f.ty))
def execClz (f : FWord) (s : State) := s.onDev (·.arith1 (fop f) (clzBits f.ty))
def execPopc (f : FWord) (s : State) := s.onDev (·.arith1 (fop f) popcBits)
def execBrev (f : FWord) (s : State) := s.onDev (·.arith1 (fop f) (brevBits f.ty))
def execBfe (f : FWord) (s : State) := s.onDev (·.bfe (fop f))
def execBfi (f : FWord) (s : State) := s.onDev (·.bfi (fop f))
def execSel (f : FWord) (s : State) := s.onDev (·.sel (fop f))
def execCmp (f : FWord) (s : State) := s.onDev (·.cmp (fop f))
def execCmpL (f : LWord) (s : State) := s.onDev (·.cmp (lop f))
def execLea (f : FWord) (s : State) := s.onDev (·.leaF (fop f))
def execLeaL (f : LWord) (s : State) := s.onDev (·.leaL (lop f))
def execSext (f : FWord) (s : State) := s.onDev (·.extend (fop f))
def execZext (f : FWord) (s : State) := s.onDev (·.extend (fop f))

end Sys2Proof.Machine
end

