-- ==== Sys2Proof/Machine/LaneOps.lean ====
section
/-!
DEFINITION. Row 2: moves, shuffles, votes, scans, reductions and result registers (R122 to R129).
-/
namespace Sys2Proof.Machine

/-- The shape of the upper register that a 64-bit copy writes. -/
def Ix.shapeHi (x : Ix) : Opnd → Shape
  | .v r => x.w.shapeV (r.toNat + 1)
  | _ => .u

/-- The shape that a full `mov` gives (R65): U and A unchanged at every width. A copy narrower than the words of an A source keeps A while
the copied words have a base and a stride; where truncation leaves none the value has shape G (DEDUCED, log 19). A pair keeps the shapes of its two registers when neither is G. -/
def movShape (x : Ix) (o : OpW) : Shape :=
  if o.ty.is64 then (if x.shapeHi o.a == .g then .g else x.shapeOf o.a 1) else
  match x.shapeOf o.a 1 with
  | .a b t =>
    let word := fun (L : Nat) => (tyImage o.ty ((b + BitVec.ofNat 32 L * t).setWidth 64)).setWidth 32
    if (List.range 32).all (fun L => word L == word 0 + BitVec.ofNat 32 L * (word 1 - word 0)) then .a (word 0) (word 1 - word 0) else .g
  | sh => sh

/-- A full 64-bit copy gives the upper register of its pair the shape of the source's upper register. -/
def movHi (x : Ix) (o : OpW) (ok : LaneSet) (w : Warp) : Warp :=
  match o.d with
  | .v n =>
    if o.ty.is64 && ok != 0 && x.shapeFor (movShape x o) ok != .g then
      w.writeV (n.toNat + 1) (x.shapeHi o.a) ((lanesOf ok).map (fun L => (L, (x.val o o.ty o.a L).extractLsb' 32 32)))
    else w
  | _ => w

/-- `mov` (R123). -/
def Dev.mov (d : Dev) (o : OpW) : Dev :=
  match d.ix with
  | none => d
  | some x => d.regOpAlso o o.ty [o.src o.a] (movShape · o) (fun _ _ => none) (fun x _ L => x.val o o.ty o.a L) (movHi x o)

/-- `li` (R123). -/
def Dev.li (d : Dev) (o : OpW) (i : Opnd) : Dev := d.regOp o o.ty [] (fun _ => .u) (fun x _ L => x.val o o.ty i L)

/-- The source lane of `shfl` (R124). -/
def shflSrc (mode b L : Nat) : Nat :=
  match mode with
  | 0 => b % 32
  | 1 => if b > L then L else L - b
  | 2 => if L + b > 31 then L else L + b
  | _ => L ^^^ (b % 32)

/-- `shfl` (R124): the register is read in the source lane as it stands. -/
def Dev.shfl (d : Dev) (o : OpW) : Dev :=
  let srcs : List Use := [o.src o.a, (o.b, 1)]
  let src := fun (x : Ix) L => shflSrc (o.sub % 4) (x.cnt o o.b L) L
  d.regOpAlso o o.ty [(o.b, 1)] (·.shapeAll srcs)
    (fun x L => d.regFault x [o.src o.a] (src x L)) (fun x _ L => x.val o o.ty o.a (src x L)) (fun _ w => w) [o.src o.a]

/-- `bcst` (R124): a full write is U. -/
def Dev.bcst (d : Dev) (o : OpW) : Dev :=
  let src := fun (x : Ix) => x.cnt o o.b 0 % 32
  d.regOpAlso o o.ty [(o.b, 1)] (fun _ => .u)
    (fun x _ => d.regFault x [o.src o.a] (src x)) (fun x _ _ => x.val o o.ty o.a (src x)) (fun _ w => w) [o.src o.a]

/-- The lanes of a set whose predicate operand is true. -/
def Ix.trueIn (x : Ix) (o : OpW) (ok : LaneSet) : LaneSet := setOf ((lanesOf ok).filter (fun L => x.val o .n32 o.a L == 1))

/-- `vote` (R125). -/
def Dev.vote (d : Dev) (o : OpW) : Dev :=
  d.regOp o .n32 [(o.a, 1)] (fun _ => .u) (fun x ok _ =>
    let t := x.trueIn o ok
    match o.sub % 4 with
    | 0 => ofBool (t == ok)
    | 1 => ofBool (t != 0)
    | 2 => t.setWidth 64
    | _ => ofBool (t == 0 || t == ok))

/-- `elect` (R125). -/
def Dev.elect (d : Dev) (o : OpW) : Dev := d.regOp o .n32 [] (fun _ => .g) (fun _ ok L => ofBool (L == lowest ok))

/-- The combining operation of `scan`, `vred`, `atom` and `red` (R126, R173). -/
def combine (op : Nat) (t : Ty) (a b : DWord) : DWord :=
  if t == .f32 then
    let f := match op with
      | 0 => fAdd .rne
      | 1 => fMin
      | _ => fMax
    (f (a.setWidth 32) (b.setWidth 32)).setWidth 64
  else match op with
    | 0 => tyTrunc t (a + b)
    | 1 => if tyInt t b < tyInt t a then b else a
    | 2 => if tyInt t b > tyInt t a then b else a
    | 3 => a &&& b
    | 4 => a ||| b
    | _ => a ^^^ b

/-- The start value of `.ex` (R126). -/
def startValue (op : Nat) (t : Ty) : DWord :=
  match op with
  | 1 => if t == .f32 then 0x7F800000 else tyTrunc t (BitVec.ofInt 64 (tyMax t))
  | 2 => if t == .f32 then 0xFF800000 else tyTrunc t (BitVec.ofInt 64 (tyMin t))
  | 3 => tyTrunc t (BitVec.allOnes 64)
  | _ => 0

/-- The fold of a list from its first value; the start value when it is empty. -/
def foldFirst (f : DWord → DWord → DWord) (start : DWord) : List DWord → DWord
  | [] => start
  | a :: l => l.foldl f a

/-- `scan` (R126): a lane of E whose own word of a cannot be corrected faults, and the others combine without it (R370; DESIGN CHOICE,
log 25). -/
def Dev.scan (d : Dev) (o : OpW) : Dev :=
  let op := o.sub % 8
  d.regOp o o.ty [o.src o.a] (fun _ => .g) (fun x ok L =>
    let before := (lanesOf ok).filter (fun j => if o.sub / 8 = 1 then decide (j < L) else decide (j ≤ L))
    foldFirst (combine op o.ty) (startValue op o.ty) (before.map (fun j => x.val o o.ty o.a j)))

/-- One level of the lane tree: neighbours combine, and an absent lane passes the other through (R127). -/
def treeLevel (f : DWord → DWord → DWord) : List (Option DWord) → List (Option DWord)
  | a :: b :: l => (match a, b with
      | some x, some y => some (f x y)
      | some x, none => some x
      | none, y => y) :: treeLevel f l
  | l => l

/-- `vred`'s fixed lane tree over 32 leaves (R127). -/
def tree (f : DWord → DWord → DWord) (l : List (Option DWord)) : DWord :=
  (((List.range 5).foldl (fun t _ => treeLevel f t) l).headD none).getD 0

/-- `vred` (R127): one value and one step of the sequence number, when some lane executes; a lane whose word of a cannot be corrected
faults, and adds nothing (R370; DESIGN CHOICE, log 25). -/
def Dev.vred (d : Dev) (o : OpW) : Dev :=
  d.laneAct o [(o.d, 1)] [o.src o.a] (fun _ _ => none) (fun d x ok =>
    if ok = 0 then (d, 0) else
    let leaves := (List.range 32).map (fun L => if ok.getLsbD L then some (x.val o o.ty o.a L) else none)
    let v := tyImage o.ty (tree (combine (o.sub % 8) o.ty) leaves)
    match o.d with
    | .q n => ((d.modWarp x.g x.wi (fun w => { w with q := put (0, 0) w.q n.toNat (v, (look (0, 0) w.q n.toNat).2 + 1) })).mend x [(o.d, 1)] ok, 0)
    | _ => (d, 0))

/-- `qget` (R72, R128): the arrival rests until its sequence number is reached; an orphaned wait ends in 0x0AF (R360). -/
def Dev.qget (d : Dev) (o : OpW) : Dev :=
  match d.ix with
  | none => d
  | some x =>
    let e := (x.sval o o.b).toNat % 2 ^ 16
    let n := match o.a with
      | .q n => n.toNat
      | _ => 0
    let q := look (0, 0) x.w.q n
    (d.scalarAct o [(o.d, 1)] [(o.a, 1), (o.b, 1)] (fun d x =>
      if seqMet q.2 e then (d.setS x o.d q.1, .done) else (d, .rest (.qget n e)))).qgetCheck x.g x.wi

/-- `vshp` (R129). It names a as a source, so that a lane whose word of a cannot be corrected faults (R370; DESIGN CHOICE, log 25). -/
def Dev.vshp (d : Dev) (o : OpW) : Dev :=
  d.regOp o .n32 [(o.a, 1)] (fun _ => .u) (fun x _ _ =>
    match o.a with
    | .v n => (match x.w.shapeV n.toNat with
        | .u => 0
        | .a _ _ => 1
        | .g => 2)
    | _ => 0)

/-! ### The meanings -/

def execMov (f : FWord) (s : State) := s.onDev (·.mov (fop f))
def execLi (f : FWord) (s : State) := s.onDev (·.li (fop f) f.a)
def execLiL (f : LWord) (s : State) := s.onDev (·.li (lop f) .imm)
def execShfl (f : FWord) (s : State) := s.onDev (·.shfl (fop f))
def execVote (f : FWord) (s : State) := s.onDev (·.vote (fop f))
def execBcst (f : FWord) (s : State) := s.onDev (·.bcst (fop f))
def execScan (f : FWord) (s : State) := s.onDev (·.scan (fop f))
def execVred (f : FWord) (s : State) := s.onDev (·.vred (fop f))
def execQget (f : FWord) (s : State) := s.onDev (·.qget (fop f))
def execElect (f : FWord) (s : State) := s.onDev (·.elect (fop f))
def execVshp (f : FWord) (s : State) := s.onDev (·.vshp (fop f))

end Sys2Proof.Machine
end

