-- ==== Sys2Proof/Machine/Float.lean ====
section
/-!
DEFINITION. Row 3 and row 4: floating-point arithmetic, conversions, self-describing blocks, narrow dot products and the
generator (R131 to R149), and the P-form pairs (R45 to R47).
-/
namespace Sys2Proof.Machine

/-- An f32 source in a lane. -/
def Ix.f (x : Ix) (o : OpW) (f : Opnd) (L : Nat) : Word := (x.val o .f32 f L).setWidth 32

/-- An f32 instruction of one, two or three sources (R134 to R136, R138). -/
def Dev.float1 (d : Dev) (o : OpW) (f : Word → Word) : Dev :=
  let srcs : List Use := [(o.a, 1)]
  d.regOp o .f32 srcs (·.shapeAll srcs) (fun x _ L => (f (x.f o o.a L)).setWidth 64)
def Dev.float2 (d : Dev) (o : OpW) (f : Word → Word → Word) : Dev :=
  let srcs : List Use := [(o.a, 1), (o.b, 1)]
  d.regOp o .f32 srcs (·.shapeAll srcs) (fun x _ L => (f (x.f o o.a L) (x.f o o.b L)).setWidth 64)
def Dev.float3 (d : Dev) (o : OpW) (f : Word → Word → Word → Word) : Dev :=
  let srcs : List Use := [(o.a, 1), (o.b, 1), (o.c, 1)]
  d.regOp o .f32 srcs (·.shapeAll srcs) (fun x _ L => (f (x.f o o.a L) (x.f o o.b L) (x.f o o.c L)).setWidth 64)

/-- The rounding mode in mod[2:0] (R131). -/
def OpW.rm (o : OpW) : Rm := Rm.ofCode (o.sub % 8)

/-- `fcmp` (R137). -/
def Dev.fcmp (d : Dev) (o : OpW) : Dev :=
  d.regOp o .n32 [(o.a, 1), (o.b, 1)] (fun _ => .g) (fun x _ L => ofBool (cmpF32 (o.sub % 8) (x.f o o.a L) (x.f o o.b L)))

/-- The draw of a lane (R100). -/
def Warp.rng (w : Warp) (L : Nat) : Nat := Sys2Proof.draw w.rngkey L (look 0 w.rngctr L)

/-- Advance the counters of the lanes that drew (R100). -/
def Warp.drew (w : Warp) (ls : LaneSet) : Warp :=
  { w with rngctr := (lanesOf ls).foldl (fun m L => put 0 m L (look 0 m L + 1)) w.rngctr }

/-- A conversion: the mode `rm`, one draw in each lane that executes under `.sr`, and then shape G (R65, R99). -/
def Dev.convert (d : Dev) (o : OpW) (t : Ty) (srcs : List Use) (rm : Rm) (pre : Ix → Nat → Option Flt)
    (f : Ix → Nat → Nat → DWord) : Dev :=
  d.regOpAlso o t srcs (fun x => if rm == .sr then .g else x.shapeAll srcs) pre
    (fun x _ L => f x L (x.w.rng L)) (fun ok w => if rm == .sr then w.drew ok else w)

/-- `fcvt` (R139). -/
def Dev.fcvt (d : Dev) (o : OpW) : Dev :=
  let src := Ty.ofCode (BitVec.ofNat 4 o.sub)
  let rm := Rm.ofCode (o.immBits 0 3)
  d.convert o o.ty [(o.a, 1)] rm (fun _ _ => none) (fun x L out =>
    BitVec.ofNat 64 (fCvt o.ty src rm out (x.val o src o.a L).toNat))

/-- `f2i` (R140). -/
def Dev.f2i (d : Dev) (o : OpW) : Dev :=
  d.convert o o.ty [(o.a, 1)] o.rm (fun _ _ => none) (fun x L out =>
    BitVec.ofInt 64 (roundInt o.rm out (tyMin o.ty) (tyMax o.ty) (f32 (x.f o o.a L))))

/-- `i2f` (R140). -/
def Dev.i2f (d : Dev) (o : OpW) : Dev :=
  d.convert o .f32 [o.src o.a] o.rm (fun _ _ => none) (fun x L out =>
    (Sys2Proof.i2f o.rm out (tyInt o.ty (x.val o o.ty o.a L))).setWidth 64)

/-- `fclass` (R141). -/
def Dev.fclass (d : Dev) (o : OpW) : Dev :=
  let srcs : List Use := [(o.a, 1)]
  d.regOp o .n32 srcs (·.shapeAll srcs) (fun x _ L =>
    BitVec.ofNat 64 (2 ^ fClass o.ty.fmt (x.val o o.ty o.a L).toNat))

/-- The header of an operand (R101). -/
def Ix.hdr (x : Ix) (o : OpW) (f : Opnd) (L : Nat) : Hdr := Hdr.ofNat (x.val o .n32 f L).toNat

/-- A malformed header in a lane (0x0C2). -/
def Ix.hdrFault (x : Ix) (o : OpW) (f : Opnd) (L : Nat) : Option Flt :=
  if (x.hdr o f L).malformed then some ⟨0x0C2, 0, 0⟩ else none

/-- `bexp` (R143). -/
def Dev.bexp (d : Dev) (o : OpW) : Dev :=
  let srcs : List Use := [(o.a, 1), (o.b, 1)]
  d.regOpAlso o .f32 srcs (·.shapeAll srcs) (fun x L => x.hdrFault o o.a L) (fun x _ L =>
    let h := x.hdr o o.a L
    (toF32 .rne (h.value ((x.val o .n32 o.b L).toNat % 2 ^ blkWidth h.fmt))).setWidth 64) (fun _ w => w)

/-- `bpack` (R144). -/
def Dev.bpack (d : Dev) (o : OpW) : Dev :=
  d.convert o .n32 [(o.a, 1), (o.b, 1)] o.rm (fun x L => x.hdrFault o o.b L) (fun x L out =>
    let h := x.hdr o o.b L
    if h.fmt = 0 ∨ h.scale = 255 then 0
    else BitVec.ofNat 64 (blkRound h.fmt h.aux o.rm out ((f32 (x.f o o.a L)).scale (127 - (h.scale : Int)))))

/-- The exponent of the largest finite magnitude among some values; none when it is 0 (R145). -/
def maxLog (l : List Val) : Option Int :=
  l.foldl (fun m v => match v with
    | .fin _ n dd e =>
      if n = 0 then m else
      let k := floorLog2 n dd + e
      (match m with
        | none => some k
        | some j => some (if k > j then k else j))
    | _ => m) none

/-- `bscl` (R145). -/
def Dev.bscl (d : Dev) (o : OpW) : Dev :=
  d.regOp o .n32 [(o.a, 1)] (fun _ => .u) (fun x ok _ =>
    match maxLog ((lanesOf ok).map (fun L => f32 (x.f o o.a L))) with
    | none => 127
    | some k => BitVec.ofInt 64 (clampInt 0 254 (k - blkEmax o.sub + 127)))

/-- `bhdr` (R146). -/
def Dev.bhdr (d : Dev) (o : OpW) : Dev :=
  let srcs : List Use := [(o.a, 1), (o.b, 1)]
  d.regOp o .n32 srcs (·.shapeAll srcs) (fun x _ L =>
    let a := if o.sub = 0 then 0 else (x.val o .n32 o.a L).toNat % 256
    let b := if o.sub = 6 then (x.val o .n32 o.b L).toNat % 16 else 0
    BitVec.ofNat 64 (a * 256 + o.sub * 16 + b))

/-- Element i of a packed word. -/
def packed (t : Ty) (x : Nat) (i : Nat) : DWord := BitVec.ofNat 64 (bits x (t.width * i) t.width)

/-- The exact sum of products of two packed words of a float type and an addend (R147). -/
def dotVal (t : Ty) (a b : Nat) (c : Val) : Val :=
  let v := fun x i => t.fmt.decode (packed t x i).toNat
  let ps := (List.range (32 / t.width)).map (fun i => (v a i).mul (v b i))
  ps.foldl (Val.add .rne) c

/-- `ndot` (R147): an integer sum wraps mod 2^32 and a float sum is rounded once. -/
def Dev.ndot (d : Dev) (o : OpW) : Dev :=
  let srcs : List Use := [(o.a, 1), (o.b, 1), (o.c, 1)]
  let t : Ty := if o.ty.isInt then .i32 else .f32
  d.regOp o t srcs (·.shapeAll srcs) (fun x _ L =>
    let a := (x.val o .n32 o.a L).toNat
    let b := (x.val o .n32 o.b L).toNat
    let c := x.val o .i32 o.c L
    if o.ty.isInt then
      narrow .i32 false (((List.range (32 / o.ty.width)).map (fun i =>
        tyInt o.ty (packed o.ty a i) * tyInt o.ty (packed o.ty b i))).foldl (· + ·) (tyInt .i32 c))
    else (toF32 .rne (dotVal o.ty a b (f32 (c.setWidth 32)))).setWidth 64)

/-- `rnd` (R148): one draw in each lane that executes. -/
def Dev.rnd (d : Dev) (o : OpW) : Dev :=
  d.regOpAlso o .n32 [] (fun _ => .g) (fun _ _ => none) (fun x _ L =>
    let out := x.w.rng L
    if o.ty == .f32 then (uniform out).setWidth 64 else BitVec.ofNat 64 out) (fun ok w => w.drew ok)

/-! ### P-form pairs (R45 to R47) -/

/-- The F-form instruction that a half is the same as, as its type and operation on the destination and the source. -/
def halfVal (op : HalfOp) (a b : Word) : Word :=
  let A : DWord := a.setWidth 64
  let B : DWord := b.setWidth 64
  match op with
  | .hnop => a
  | .addI32 => a + b
  | .subI32 => a - b
  | .and => a &&& b
  | .or => a ||| b
  | .xor => a ^^^ b
  | .shl => (shlBits .n32 A b.toNat).setWidth 32
  | .shr => (shrBits .n32 A b.toNat).setWidth 32
  | .sar => (sarBits .i32 A b.toNat).setWidth 32
  | .mov => b
  | .fadd => fAdd .rne a b
  | .fmul => fMul .rne a b
  | .fmin => fMin a b
  | .fmax => fMax a b
  | .minI32 => (combine 1 .i32 A B).setWidth 32
  | .maxI32 => (combine 2 .i32 A B).setWidth 32

/-- A half's immediate (R45). -/
def halfImm (op : HalfOp) (i : BitVec 8) : Word :=
  match op with
  | .addI32 | .subI32 | .mov | .minI32 | .maxI32 => i.signExtend 32
  | .fadd | .fmul | .fmin | .fmax => toF32 .rne (fmtE4m3.decode i.toNat)
  | _ => i.setWidth 32

/-- The operand of a half's source. -/
def halfReg (h : Half) : Opnd :=
  match h.s with
  | .reg n => .v n
  | .imm _ => .zero

/-- The source value of a half in a lane. -/
def Ix.halfSrc (x : Ix) (h : Half) (L : Nat) : Word :=
  match h.s with
  | .reg n => x.w.readV n.toNat L
  | .imm i => halfImm h.op i

/-- The shape of a half's full write (R45, R65). -/
def Ix.halfShape (x : Ix) (h : Half) : Shape :=
  let sa := x.shapeOf (.v h.d) 1
  let sb := match h.s with
    | .reg n => x.shapeOf (.v n) 1
    | .imm _ => .u
  let va := x.w.readV h.d.toNat (lowest x.w.live)
  let vb := x.halfSrc h (lowest x.w.live)
  match h.op with
  | .addI32 => shapeSum false sa sb va vb
  | .subI32 => shapeSum true sa sb va vb
  | .mov => sb
  | _ => if sa == .u && sb == .u then .u else .g

/-- The uses of a half: none for an empty half. -/
def halfDst (h : Half) : List Use := if h.op == .hnop then [] else [(.v h.d, 1)]
def halfUses (h : Half) : List Use :=
  if h.op == .hnop then [] else (if h.op.readsD then [(.v h.d, 1)] else []) ++ [(halfReg h, 1)]

/-- Write a half's result (R47): its sources are those from before either half's write. -/
def Warp.writeHalf (w : Warp) (x : Ix) (h : Half) (ok : LaneSet) : Warp :=
  if h.op == .hnop then w
  else w.writeD (.v h.d) .n32 ok (x.shapeFor (x.halfShape h) ok)
    (fun L => (halfVal h.op (x.w.readV h.d.toNat L) (x.halfSrc h L)).setWidth 64)

/-- The operands of a word without a predicate or fields. -/
def plainOp : OpW := ⟨.v 0, .v 0, .v 0, .v 0, false, 7, .i32, 0, 0⟩

/-- A P-form pair: both halves in every active lane, refused whole when a compact result would be G (R47). -/
def Dev.pair (d : Dev) (h1 h2 : Half) : Dev :=
  match d.ix with
  | none => d
  | some x =>
    let ds := halfDst h1 ++ halfDst h2
    let bad := fun (h : Half) ok => (halfDst h).any x.x.lr.isCompact && x.shapeFor (x.halfShape h) ok == .g
    let p := d.plan x plainOp ds (halfUses h1 ++ halfUses h2) (fun _ => none) (fun ok => bad h1 ok || bad h2 ok)
    ((d.modWarp x.g x.wi (fun w => (w.writeHalf x h1 p.ok).writeHalf x h2 p.ok)).mend x ds p.ok).finish x p.ok 0 p.bad

/-! ### The meanings -/

def execFadd (f : FWord) (s : State) := s.onDev (·.float2 (fop f) (fAdd (fop f).rm))
def execFaddL (f : LWord) (s : State) := s.onDev (·.float2 (lop f) (fAdd (lop f).rm))
def execFsub (f : FWord) (s : State) := s.onDev (·.float2 (fop f) (fSub (fop f).rm))
def execFsubL (f : LWord) (s : State) := s.onDev (·.float2 (lop f) (fSub (lop f).rm))
def execFmul (f : FWord) (s : State) := s.onDev (·.float2 (fop f) (fMul (fop f).rm))
def execFmulL (f : LWord) (s : State) := s.onDev (·.float2 (lop f) (fMul (lop f).rm))
def execFfma (f : FWord) (s : State) := s.onDev (·.float3 (fop f) (fFma (fop f).rm))
def execFdiv (f : FWord) (s : State) := s.onDev (·.float2 (fop f) (fDiv (fop f).rm))
def execFsqrt (f : FWord) (s : State) := s.onDev (·.float1 (fop f) (fSqrt (fop f).rm))
def execFrcp (f : FWord) (s : State) := s.onDev (·.float1 (fop f) fRcp)
def execFrsq (f : FWord) (s : State) := s.onDev (·.float1 (fop f) fRsq)
def execFexp2 (f : FWord) (s : State) := s.onDev (·.float1 (fop f) fExp2)
def execFlog2 (f : FWord) (s : State) := s.onDev (·.float1 (fop f) fLog2)
def execFsinpi (f : FWord) (s : State) := s.onDev (·.float1 (fop f) fSinpi)
def execFcospi (f : FWord) (s : State) := s.onDev (·.float1 (fop f) fCospi)
def execFmin (f : FWord) (s : State) := s.onDev (·.float2 (fop f) fMin)
def execFminL (f : LWord) (s : State) := s.onDev (·.float2 (lop f) fMin)
def execFmax (f : FWord) (s : State) := s.onDev (·.float2 (fop f) fMax)
def execFmaxL (f : LWord) (s : State) := s.onDev (·.float2 (lop f) fMax)
def execFcmp (f : FWord) (s : State) := s.onDev (·.fcmp (fop f))
def execFcmpL (f : LWord) (s : State) := s.onDev (·.fcmp (lop f))
def execFrnd (f : FWord) (s : State) := s.onDev (·.float1 (fop f) (fRnd (fop f).rm))
def execFcvt (f : FWord) (s : State) := s.onDev (·.fcvt (fop f))
def execF2i (f : FWord) (s : State) := s.onDev (·.f2i (fop f))
def execI2f (f : FWord) (s : State) := s.onDev (·.i2f (fop f))
def execFclass (f : FWord) (s : State) := s.onDev (·.fclass (fop f))
def execBexp (f : FWord) (s : State) := s.onDev (·.bexp (fop f))
def execBpack (f : FWord) (s : State) := s.onDev (·.bpack (fop f))
def execBscl (f : FWord) (s : State) := s.onDev (·.bscl (fop f))
def execBhdr (f : FWord) (s : State) := s.onDev (·.bhdr (fop f))
def execNdot (f : FWord) (s : State) := s.onDev (·.ndot (fop f))
def execRnd (f : FWord) (s : State) := s.onDev (·.rnd (fop f))
def execPFormPair (h1 h2 : Half) (s : State) := s.onDev (·.pair h1 h2)

end Sys2Proof.Machine
end

