-- ==== Sys2Proof/Machine/Flow.lean ====
section
/-!
DEFINITION. Row 0: branches, calls, the end of threads, yield points, masks, serialisation, regions, barriers and sleep
(R75 to R91); traps and the return from them (R354 to R358).
-/
namespace Sys2Proof.Machine

/-- The offset target of R76. -/
def OpW.target (o : OpW) (pc : Addr) : Addr := pc + ((o.imm.setWidth 32).signExtend 56) * 8

/-- A branch (R77): lanes that pass the checks and are taken go to their target. -/
def Dev.jump (d : Dev) (o : OpW) (srcs : List Use) (pre : Ix → Nat → Option Flt) (taken : Ix → Nat → Bool)
    (target : Ix → Nat → Addr) : Dev :=
  d.laneAct o [] srcs pre (fun d x ok =>
    let go := (lanesOf ok).filter (taken x)
    (d.modWarp x.g x.wi (fun w => w.setPc go (target x)), setOf go))

def Dev.bra (d : Dev) (o : OpW) : Dev :=
  d.jump o [] (fun _ _ => none) (fun _ _ => true) (fun x _ => o.target x.pc)

def Dev.brc (d : Dev) (o : OpW) : Dev :=
  d.jump o [o.src o.a] (fun _ _ => none) (fun x L => brcTaken o.ty o.sub (x.val o o.ty o.a L)) (fun x _ => o.target x.pc)

/-- `brx` and `ret`: a target with bits [2:0] not zero is refused (R79). -/
def Dev.brx (d : Dev) (o : OpW) : Dev :=
  let t := fun (x : Ix) L => (x.val o .n64 o.a L).setWidth 56
  d.jump o [useAt .n64 o.a] (fun x L => if (t x L).toNat % 8 ≠ 0 then some ⟨0x050, 0, 0⟩ else none) (fun _ _ => true) t

/-- `call`: the return address into an even pair, then the branch (R79). -/
def Dev.call (d : Dev) (o : OpW) : Dev :=
  d.laneAct o [useAt .n64 o.d] [] (fun _ _ => none) (fun d x ok =>
    let ds := [useAt .n64 o.d]
    let d := d.modWarp x.g x.wi (fun w =>
      (w.writeD o.d .n64 ok (x.shapeFor .u ok) (fun _ => (x.pc + 8).setWidth 64)).setPc (lanesOf ok) (fun _ => o.target x.pc))
    (d.mend x ds ok, ok)) (fun x ok => x.shapeFor .u ok == .g)

/-- The end of lanes (R89), with the releases and checks that it brings. -/
def Dev.ending (d : Dev) (g wi : Nat) (ls : LaneSet) : Dev :=
  ((d.endLanes g wi ls).modWarp g wi (·.maskChecks ls)).settle g

def Dev.exit (d : Dev) (o : OpW) : Dev :=
  match d.ix with
  | none => d
  | some x => (d.laneAct o [] [] (fun _ _ => none) (fun d x ok => (d.ending x.g x.wi ok, 0))).qgetCheck x.g x.wi

/-- The retirement-tracker entries in use on a group's core (R91). -/
def Dev.trackers (d : Dev) (x : Group) : Nat := (d.groups.filter (fun y => y.core == x.core && y.tracker)).length

/-- `tail` (R91): it takes a tracker entry when operations are outstanding, and rests while none is free. -/
def Dev.tail (d : Dev) (o : OpW) : Dev :=
  match d.ix with
  | none => d
  | some x => (d.laneAct o [] [] (fun _ _ => none) (fun d x ok =>
      if ok = 0 then (d, 0) else
      let need := d.outstanding x.g && !x.x.tracker
      if need && decide (d.trackers x.x ≥ 16) then (d.rest x ok .other, ok)
      else ((d.modGroup x.g (fun y => { y with tailed := true, tracker := y.tracker || need })).ending x.g x.wi ok, 0))).qgetCheck x.g x.wi

/-- `ypt` (R88). -/
def Dev.ypt (d : Dev) (o : OpW) : Dev :=
  d.laneAct o [] [] (fun _ _ => none) (fun d x ok =>
    if x.x.requested then ((d.modWarp x.g x.wi (fun w => (w.stepPc ok).setWait ok .yield)).settle x.g, ok) else (d, 0))

/-- An instruction that does nothing but step its lanes (R70, R75). -/
def Dev.nop (d : Dev) (o : OpW) : Dev := d.laneAct o [] [] (fun _ _ => none) (fun d _ _ => (d, 0))

/-- The number of a mask operand. -/
def Opnd.maskNo : Opnd → Nat
  | .m n => n.val
  | _ => 0

/-- Lanes of a warp change a mask register, and every release condition is checked (R80, R81). -/
def Dev.modMask (d : Dev) (x : Ix) (m : Nat) (ls : LaneSet) (f : LaneSet → LaneSet) : Dev :=
  d.modWarp x.g x.wi (fun w => ({ w with m := put 0 w.m m (f (look 0 w.m m)) }).maskChecks ls)

def Dev.mjoin (d : Dev) (o : OpW) : Dev :=
  d.laneAct o [(o.d, 1)] [(o.d, 1)] (fun _ _ => none) (fun d x ok => (d.modMask x (Opnd.maskNo o.d) ok (· ||| ok), 0))
def Dev.mleave (d : Dev) (o : OpW) : Dev :=
  d.laneAct o [(o.d, 1)] [(o.d, 1)] (fun _ _ => none) (fun d x ok => (d.modMask x (Opnd.maskNo o.d) ok (· &&& ~~~ok), 0))
def Dev.mset (d : Dev) (o : OpW) : Dev :=
  d.scalarAct o [(o.d, 1)] [(o.a, 1)] (fun d x =>
    (d.modMask x (Opnd.maskNo o.d) (x.guard o) (fun _ => (x.sval o o.a).setWidth 32 &&& x.w.live), .done))

/-- `mget` (R80): the mask word, or in a predicate the lane's bit. -/
def Dev.mget (d : Dev) (o : OpW) : Dev :=
  d.regOp o .n32 [(o.a, 1)] (fun _ => .u) (fun x _ L =>
    let m := look 0 x.w.m (Opnd.maskNo o.a)
    if o.d.kind == .p then ofBool (m.getLsbD L) else m.setWidth 64)

/-- The checks of a group after a wait at a mask or a barrier begins (R361, R367). -/
def Dev.waitChecks (d : Dev) (g : Nat) : Dev := (d.deadlockCheck g).presenceCheck g

def Dev.mwait (d : Dev) (o : OpW) : Dev :=
  match d.ix with
  | none => d
  | some x => (d.laneAct o [] [(o.a, 1)] (fun _ _ => none) (fun d x ok =>
      (d.modWarp x.g x.wi (fun w => (w.setWait ok (.mask (Opnd.maskNo o.a))).maskChecks ok), ok))).waitChecks x.g

/-- `serb` (R83): its lanes become the set of an open region. -/
def Dev.serb (d : Dev) (o : OpW) : Dev :=
  d.laneAct o [] [] (fun x _ => if x.w.ser = 0 then none else some ⟨0x130, 0, 0⟩)
    (fun d x ok => (if ok = 0 then d else d.modWarp x.g x.wi (fun w => { w with ser := ok }), 0))

/-- `sere` (R83): the turn passes on, and what the lane has met comes before what the lanes after it do. -/
def Dev.sere (d : Dev) (o : OpW) : Dev :=
  d.laneAct o [] [] (fun x _ => if x.w.ser = 0 then some ⟨0x131, 0, 0⟩ else none)
    (fun d x ok => (d.modWarp x.g x.wi (fun w => { w.gain (w.ser &&& ~~~ok) (w.cumOf ok) with ser := w.ser &&& ~~~ok }), 0))

/-- The generation of a barrier. -/
def Group.gen (x : Group) (b : Nat) : Word := look 0 x.gens b

/-- Lanes arrive at barrier b, each with a token of its generation (R85), and bring what they have met (R86); a completion
follows at once. -/
def Dev.arrive (d : Dev) (x : Ix) (b : Nat) (ok : LaneSet) : Dev :=
  if ok = 0 then d else
  let brought := (x.w.cumOf ok)
  let d := if brought = [] then d else d.modGroup x.g (fun y => { y with pools := (b, y.gen b, brought) :: y.pools })
  (d.modWarp x.g x.wi (fun w => { w with
    arrived := put 0 w.arrived b (look 0 w.arrived b ||| ok)
    tok := (lanesOf ok).foldl (fun t L => put none t (16 * L + b) (some (x.x.gen b))) w.tok })).settle x.g

/-- The lanes whose token is the current generation wait (R85): those lanes. The others pass for the generation of their
token (R86). Lanes that are not in handler mode have returned from the wait that a trap made them leave (R361). -/
def Dev.await (d : Dev) (x : Ix) (b : Nat) (ok : LaneSet) : Dev × LaneSet :=
  match d.group? x.g, d.warp? x.g x.wi with
  | some y, some w =>
    let tok := fun L => look none w.tok (16 * L + b)
    let ls := setOf ((lanesOf ok).filter (fun L => tok L == some (y.gen b)))
    let pass := fun (w : Warp) => (lanesOf (ok &&& ~~~ls)).foldl (fun w L => w.gain (laneBit L) (((tok L).map (y.pool b)).getD [])) w
    (d.modWarp x.g x.wi (fun w => { pass (w.setWait ls (.bar b)) with left := (lanesOf (ok &&& ~~~w.handler)).foldl (fun m L => put none m L none) w.left }), ls)
  | _, _ => (d, 0)

/-- The lanes of a set that return to the wait at barrier b that a trap made them leave (R361). -/
def Ix.returns (x : Ix) (b : Nat) (ls : LaneSet) : LaneSet :=
  setOf ((lanesOf (ls &&& ~~~x.w.handler)).filter (fun L => look none x.w.left L == some (b, x.pc.toNat)))

/-- A thread that lies in A(b) does not arrive again (0x132), unless it returns to the wait that a trap made it leave. -/
def arrivedFault (b : Nat) (x : Ix) (L : Nat) : Option Flt :=
  if (look 0 x.w.arrived b).getLsbD L && !(x.returns b (laneBit L)).getLsbD L then some ⟨0x132, 0, 0⟩ else none

def Dev.bara (d : Dev) (o : OpW) : Dev :=
  let b := o.immBits 0 4
  d.laneAct o [] [] (arrivedFault b) (fun d x ok => (d.arrive x b ok, 0))

def Dev.barw (d : Dev) (o : OpW) : Dev :=
  match d.ix with
  | none => d
  | some x => (d.laneAct o [] [] (fun _ _ => none) (fun d x ok => d.await x (o.immBits 0 4) ok)).waitChecks x.g

def Dev.bar (d : Dev) (o : OpW) : Dev :=
  let b := o.immBits 0 4
  match d.ix with
  | none => d
  | some x => (d.laneAct o [] [] (arrivedFault b) (fun d x ok => (d.arrive x b (ok &&& ~~~(x.returns b ok))).await x b ok)).waitChecks x.g

/-- `sleep` (R87): nothing for a count of 0 or under a raised request. -/
def Dev.sleep (d : Dev) (o : OpW) : Dev :=
  d.laneAct o [] [(o.a, 1)] (fun _ _ => none) (fun d x ok =>
    let n := if o.a == .imm then o.immBits 0 12 else Nat.min (x.sval o o.a).toNat 4095
    if n = 0 || x.x.requested then (d, 0)
    else (d.modWarp x.g x.wi (·.setWait ok (.sleep (d.now + n))), ok))

/-! ### Traps (R354 to R358) -/

/-- `trap` and `brk`: a cause in every lane of E, with its number in D5 (R355). -/
def Dev.raise (d : Dev) (o : OpW) (f : Flt) : Dev := d.laneAct o [] [] (fun _ _ => some f) (fun d _ _ => (d, 0))

/-- `eret` (R356); a lane that goes elsewhere than to the wait that a trap made it leave does not return to it (R361). -/
def Dev.eret (d : Dev) (o : OpW) : Dev :=
  d.laneAct o [] [] (fun x L => if x.w.handler.getLsbD L then none else some ⟨0x030, 0, 0⟩) (fun d x ok =>
    (d.modWarp x.g x.wi (fun w => { (w.setPc (lanesOf ok) (fun L => look 0 w.epc L)) with
      handler := w.handler &&& ~~~ok
      left := (lanesOf ok).foldl (fun m L => put none m L ((look none m L).filter (fun e => e.2 == (look 0 w.epc L).toNat))) w.left }), ok))

/-- An illegal word: its cause in every lane that issues it, whatever the guard (R52, R357, R358). -/
def Dev.illegal (d : Dev) (e : Illegal) : Dev :=
  match d.ix with
  | none => d
  | some x => d.finish x 0 0 (faultAll x.iss ⟨e.cause, if e.half then 1 else 0, 0⟩)

/-! ### The meanings -/

def execNop (f : FWord) (s : State) := s.onDev (·.nop (fop f))
def execBra (f : FWord) (s : State) := s.onDev (·.bra (fop f))
def execBraL (f : LWord) (s : State) := s.onDev (·.bra (lop f))
def execBrc (f : FWord) (s : State) := s.onDev (·.brc (fop f))
def execBrcL (f : LWord) (s : State) := s.onDev (·.brc (lop f))
def execBrx (f : FWord) (s : State) := s.onDev (·.brx (fop f))
def execCall (f : FWord) (s : State) := s.onDev (·.call (fop f))
def execCallL (f : LWord) (s : State) := s.onDev (·.call (lop f))
def execRet (f : FWord) (s : State) := s.onDev (·.brx (fop f))
def execExit (f : FWord) (s : State) := s.onDev (·.exit (fop f))
def execTail (f : FWord) (s : State) := s.onDev (·.tail (fop f))
def execYpt (f : FWord) (s : State) := s.onDev (·.ypt (fop f))
def execMjoin (f : FWord) (s : State) := s.onDev (·.mjoin (fop f))
def execMleave (f : FWord) (s : State) := s.onDev (·.mleave (fop f))
def execMwait (f : FWord) (s : State) := s.onDev (·.mwait (fop f))
def execMset (f : FWord) (s : State) := s.onDev (·.mset (fop f))
def execMget (f : FWord) (s : State) := s.onDev (·.mget (fop f))
def execSerb (f : FWord) (s : State) := s.onDev (·.serb (fop f))
def execSere (f : FWord) (s : State) := s.onDev (·.sere (fop f))
def execRgn (f : FWord) (s : State) := s.onDev (·.nop (fop f))
def execBar (f : FWord) (s : State) := s.onDev (·.bar (fop f))
def execBara (f : FWord) (s : State) := s.onDev (·.bara (fop f))
def execBarw (f : FWord) (s : State) := s.onDev (·.barw (fop f))
def execSleep (f : FWord) (s : State) := s.onDev (·.sleep (fop f))
def execTrap (f : FWord) (s : State) :=
  s.onDev (fun d => d.raise (fop f) ⟨0x1C0 + BitVec.ofNat 9 ((fop f).immBits 0 4), (fop f).immBits 0 12, 0⟩)
def execEret (f : FWord) (s : State) := s.onDev (·.eret (fop f))
def execBrk (f : FWord) (s : State) := s.onDev (fun d => d.raise (fop f) ⟨0x1B0, (fop f).immBits 0 4, 0⟩)
def execIllegalWordIssue (e : Illegal) (s : State) := s.onDev (·.illegal e)

end Sys2Proof.Machine
end

