-- ==== Sys2Proof/Machine/Lag.lean ====
section
/-!
DEFINITION. Plain loads that are performed after later instructions of their warp (R186): what keeps one back, and how it is performed.
-/
namespace Sys2Proof.Machine

/-- The place of a location in the history of writes. -/
def Loc.place (g : Nat) : Loc → Nat
  | .g pa _ => pa
  | .sp off => scratchPlace g off
  | .hv a => hivePlace a

/-- The newest bytes at a location. Memory of another node is held by the same map as this package's: 0 until this package writes it, and
changed by no one else (R152; DESIGN CHOICE, log 25). -/
def Dev.bytesAt (d : Dev) (g : Nat) (l : Loc) (n : Nat) : List Byte :=
  match l with
  | .g pa _ => Memory.readBytes d.mem pa n
  | .sp off => Memory.readBytes (((d.group? g).map (·.scratch)).getD []) off n
  | .hv a => Memory.readBytes d.hive a n

/-- Whether an access of a warp to some bytes overlaps a load. -/
def Lag.spans (l : Lag) (g wi a n : Nat) : Bool :=
  l.g == g && l.w == wi && decide (l.loc.place l.g < a + n ∧ a < l.loc.place l.g + l.n)

/-- A load is performed: it returns what the order of writes allows it now, and its register is written. -/
def Dev.land (d : Dev) (l : Lag) : Dev :=
  let a := l.loc.place l.g
  let p := d.glimpse l.know l.seen a l.n (d.bytesAt l.g l.loc l.n)
  p.1.modWarp l.g l.w (fun w =>
    let w := (w.modView l.lanes (p.1.observe p.2.2)).writeD l.dst l.ty l.lanes .g (fun _ => BitVec.ofNat 64 (ofBytes p.2.1))
    if l.know = [] then w else { w with met := (a, l.n, l.know) :: w.met })

/-- Every load of a warp that is not yet performed is, in the order of their issue. -/
def Dev.settleLoads (d : Dev) (g wi : Nat) : Dev :=
  match d.lags with
  | [] => d
  | ls => (ls.filter (fun l => l.g == g && l.w == wi)).foldl Dev.land { d with lags := ls.filter (fun l => !(l.g == g && l.w == wi)) }

/-- The same for every warp of a group. -/
def Dev.settleGroup (d : Dev) (x : Group) : Dev := (List.range x.warps.length).foldl (fun d wi => d.settleLoads x.id wi) d

/-- The operands of an instruction that a load of its warp may be performed after: a plain access, or one that acts on registers alone and
neither waits nor transfers control. -/
def operandsOf : Instr → Option (List Opnd)
  | .ld f | .st f | .lsp f | .ssp f | .lhv f | .shv f
  | .add f | .sub f | .mul f | .mulh f | .mad f | .div f | .rem f | .min f | .max f | .abs f | .neg f | .and f | .or f | .xor f | .not f | .andn f
  | .shl f | .shr f | .sar f | .rot f | .clz f | .popc f | .brev f | .bfe f | .bfi f | .sel f | .cmp f | .lea f | .sext f | .zext f
  | .mov f | .li f | .shfl f | .vote f | .bcst f | .scan f | .vred f | .elect f | .vshp f
  | .fadd f | .fsub f | .fmul f | .ffma f | .fdiv f | .fsqrt f | .frcp f | .frsq f | .fexp2 f | .flog2 f | .fsinpi f | .fcospi f
  | .fmin f | .fmax f | .fcmp f | .frnd f | .fcvt f | .f2i f | .i2f f | .fclass f | .bexp f | .bpack f | .bscl f | .bhdr f | .ndot f | .rnd f =>
    some [f.d, f.a, f.b, f.c]
  | .addL f | .subL f | .mulL f | .minL f | .maxL f | .andL f | .orL f | .xorL f | .andnL f | .cmpL f | .leaL f | .liL f
  | .faddL f | .fsubL f | .fmulL f | .fminL f | .fmaxL f | .fcmpL f => some [f.d, f.a]
  | .nop _ => some []
  | .pFormPair h1 h2 => some ([h1, h2].flatMap (fun h => .v h.d :: (match h.s with
      | .reg n => [.v n]
      | .imm _ => [])))
  | _ => none

/-- Whether a register that an operand may name, with those that follow it in a run of up to 16, is one that a load writes. -/
def registersMeet (dst : Opnd) : Opnd → Bool
  | .v m => match dst with
    | .v n => decide (m.toNat < n.toNat + 2 ∧ n.toNat < m.toNat + 16)
    | _ => false
  | .s m => match dst with
    | .s n => m == n
    | _ => false
  | _ => false

/-- Whether the loads of a warp may be performed after an instruction: it is of those kinds, and names none of their registers (R71). -/
def Dev.outruns (d : Dev) (g wi : Nat) (i : Instr) : Bool :=
  match operandsOf i with
  | some fs => d.lags.all (fun l => !(l.g == g && l.w == wi) || fs.all (fun f => !registersMeet l.dst f))
  | none => false

/-- Before an instruction of a warp its loads are performed, unless it may outrun them. -/
def Dev.settleFor (d : Dev) (g wi : Nat) (i : Instr) : Dev := if d.outruns g wi i then d else d.settleLoads g wi

/-- Whether another thread of the device can write while a warp goes on: another warp with a live lane, an engine thread or a drone core. -/
def Dev.hasOthers (d : Dev) (g wi : Nat) : Bool :=
  !d.ops.isEmpty || d.drones.any (fun e => e.2.state == 1)
    || d.groups.any (fun x => x.numbered.any (fun p => (x.id != g || p.1 != wi) && p.2.live != 0))

end Sys2Proof.Machine
end

