-- ==== Sys2Proof/Machine/Issue.lean ====
section
/-!
DEFINITION. The issue of a warp: which lanes issue (R57, R83), which warp of a quadrant is chosen (R201), the fetch of
its word (R35, R54, R369), an arrival that resumes from a rest (R60), and the fixture that stands for the loading of a program (log 9).
-/
namespace Sys2Proof.Machine

/-- The eligible lanes (R57), but for those whose trap record is still to be written (R353). -/
def Warp.eligible (w : Warp) : LaneSet :=
  w.waiting (· == .none) &&& ~~~(setOf (keysOf w.park)) &&& ~~~w.held

/-- The lanes that issue: the minimum counter of the pool, or the current lane of an open region (R57, R83). -/
def Warp.issuing (w : Warp) : LaneSet :=
  let el := w.eligible
  if w.ser ≠ 0 then el &&& laneBit (lowest w.ser) else
  let pool := if el &&& w.handler ≠ 0 then el &&& w.handler else el
  match ((lanesOf pool).map (fun L => (w.pcOf L).toNat)).min? with
  | none => 0
  | some m => setOf ((lanesOf pool).filter (fun L => (w.pcOf L).toNat == m))

/-- Whether a tile of a group is held by an operation (R71, R237). -/
def Group.held (x : Group) (t : Nat) : Bool := x.holds.any (·.1 == t)

/-- Whether an instruction of a warp has issued and not completed: a lane waits at it or is parked there (R329; DEDUCED, log 19). -/
def Warp.unfinished (w : Warp) : Bool := w.waiting (· != .none) != 0 || w.park.any (fun e => e.2.isSome)

/-- The accumulator tile that an instruction names (R238). -/
def instrTile : Instr → Option Nat
  | .mmac f | .mzero f | .mload f => some (f.imm.toNat % 16)
  | .mdrain f => some f.sub.toNat
  | _ => none

/-- Whether an instruction accesses an event register, which issues only after every earlier instruction of its warp (R329). -/
def instrCounts : Instr → Bool
  | .csrr f | .csrw f | .csrs f | .csrc f => decide (0x10 ≤ f.csr ∧ f.csr ≤ 0x20)
  | _ => false

/-- What keeps an instruction of a warp from its issue: a tile that it names and that an operation holds, or earlier
instructions that have not completed (R71, R237, R329). -/
def Group.hazard (x : Group) (w : Warp) (i : Instr) : Option Nat :=
  if instrCounts i && w.unfinished then some 16 else (instrTile i).filter x.held

/-- The counter of the lanes that issue. -/
def Warp.nextPc (w : Warp) : Addr := w.pcOf (lowest w.issuing)

/-- Whether what a fetch has found to keep a warp's next instruction from its issue still does. -/
def Group.stalled (x : Group) (w : Warp) : Bool :=
  match w.stall with
  | some (t, pc) => pc == w.nextPc && (if t = 16 then w.unfinished else x.held t)
  | none => false

/-- Whether a warp of a group can issue (R57, R71, R202, R329). -/
def Group.ready (x : Group) (w : Warp) : Bool := x.saving.isNone && w.issuing != 0 && !x.stalled w

/-- What keeps a warp's next instruction from its issue (R71, R237, R329), by the word that stands at its counter or, where a fetch has
found another, by that. -/
def Dev.hazardOf (d : Dev) (x : Group) (w : Warp) : Option Nat :=
  if x.holds.isEmpty && !w.unfinished then none
  else if x.stalled w then w.stall.map (·.1)
  else x.hazard w (decode (d.wordAt x.die x.vf w.nextPc.toNat)).instr

/-- Whether a warp is ready: it can issue, and no hazard keeps its next instruction back (R71, R201). -/
def Dev.isReady (d : Dev) (x : Group) (w : Warp) : Bool := x.ready w && (d.hazardOf x w).isNone

/-- Since when each warp has been ready (R201), and what keeps the others back. -/
def Dev.noteReady (d : Dev) : Dev :=
  { d with groups := d.groups.map (fun x => { x with warps := x.warps.map (fun w =>
      { w with
        readySince := if d.isReady x w then some (w.readySince.getD d.now) else none
        stall := ((d.hazardOf x w).map (fun t => (t, w.nextPc))).or w.stall }) }) }

/-- The ready warps of a quadrant of a core: group, warp index, warp. -/
def Dev.readyIn (d : Dev) (core quad : Nat) : List (Nat × Nat × Warp) :=
  (d.groups.filter (·.core == core)).flatMap (fun x =>
    (x.numbered.filter (fun p => p.2.quad == quad && d.isReady x p.2)).map (fun p => (x.id, p.1, p.2)))

/-- The member of a list with the least value. -/
def leastBy {α : Type} (f : α → Nat) : List α → Option α
  | [] => none
  | a :: l => match leastBy f l with
    | none => some a
    | some b => some (if f b < f a then b else a)

/-- The warp that a quadrant picks (R201). -/
def Dev.pickWarp (d : Dev) (core quad : Nat) : Option (Nat × Nat) :=
  let rs := d.readyIn core quad
  let age := fun (p : Nat × Nat × Warp) => p.2.2.age
  let late := rs.filter (fun p => decide (d.now ≥ p.2.2.readySince.getD d.now + 256))
  let last := rs.find? (fun p => look 0 d.lastWarp (4 * core + quad) == 64 * p.1 + p.2.1 + 1)
  ((leastBy age late).or (last.or (leastBy age rs))).map (fun p => (p.1, p.2.1))

/-- The words that a core may fetch at a physical address for a grid: memory's, and those replaced since the grid was
launched (R54). -/
def Dev.words (d : Dev) (grid pa : Nat) : List DWord :=
  let m := BitVec.ofNat 64 (Memory.read d.mem pa 8)
  m :: (((look [] d.ibuf (pa / 8)).filter (fun e => decide (e.1 > grid) && e.2 != m)).map (·.2))

/-- One of the words that may be fetched: free where there are several (log 5). -/
def Dev.fetchWord (d : Dev) (grid pa : Nat) : Dev × DWord :=
  match d.words grid pa with
  | [w] => (d, w)
  | ws => (d.fresh.1, ws.getD (d.fresh.2 % ws.length) 0)

/-- The fault of a fetch that passes translation (R371, R373). -/
def Dev.fetchFault (d : Dev) (die sum pa : Nat) : Option Flt :=
  match d.unreached die (d.cfg.place pa) with
  | some c => some ⟨c, sum, 0⟩
  | none => (d.badAt pa 8).map (fun g => ⟨0x173, sum, g⟩)

/-- Note the issue of a warp (R201) and count it, unless its word does not issue (R371, R401). -/
def Dev.noteIssue (d : Dev) (g wi : Nat) (x : Group) (w : Warp) (counted : Bool := true) : Dev :=
  let d := if counted then d.count x.die x.vf 2 1 else d
  { d.modWarp g wi (fun w => { w with readySince := none, stall := w.stall.filter (fun s => s.2 != w.nextPc) }) with
    lastWarp := put 0 d.lastWarp (4 * x.core + w.quad) (64 * g + wi + 1) }

/-- The word of the latest issue of some lanes, for their records: 0 for one that could not be fetched (R352). -/
def Warp.setWord (w : Warp) (ls : LaneSet) (x : DWord) : Warp := { w with word := (lanesOf ls).foldl (fun m L => put 0 m L x) w.word }

/-- Some lanes begin an instruction at a counter: a lane that has gone on past the wait that a trap made it leave does not return to it
(R361); the handler's own issues leave it. -/
def Warp.begin (w : Warp) (ls : LaneSet) (pc : Addr) (x : DWord) : Warp :=
  { w.setWord ls x with left := (lanesOf (ls &&& ~~~w.handler)).foldl (fun m L => put none m L ((look none m L).filter (fun e => e.2 == pc.toNat))) w.left }

/-- Whether an instruction reads the tile that it names (R236). -/
def instrReads : Instr → Bool
  | .mmac f => !f.imm.getLsbD 4
  | .mdrain _ => true
  | _ => false

/-- What an instruction of a warp gains that has waited for a tile and reads it: it is joined to every access of the operation that
committed there (R243). -/
def Group.tileJoin (x : Group) (w : Warp) (i : Instr) (pc : Addr) : List Nat :=
  match w.stall, instrTile i with
  | some s, some t => if s == (t, pc) && instrReads i then look [] x.tileKnow t else []
  | _, _ => []

/-- Begin the issue of a warp for a set of lanes at one counter: fetch the word, count and note the issue; the
instruction to run, unless the fetch faults in every issuing lane (R52, R369) or a hazard keeps it: then the warp does not
issue until that is over. -/
def Dev.fetch (d : Dev) (g wi : Nat) (x : Group) (w : Warp) (ls : LaneSet) (pc : Addr) : Dev × Option Instr :=
  let t := d.translate x.core x.vf .fetch pc.toNat
  match t.2 with
  | .error f => (((t.1.noteIssue g wi x w).modWarp g wi (·.setWord ls 0)).deliver g wi pc.toNat 0 false (faultAll ls f), none)
  | .ok (pa, _) =>
    match t.1.fetchFault x.die pc.toNat pa with
    | some f => (((t.1.noteIssue g wi x w false).modWarp g wi (·.setWord ls 0)).deliver g wi pc.toNat 0 false (faultAll ls f), none)
    | none =>
      let p := t.1.fetchWord x.grid pa
      let i := (decode p.2).instr
      match x.hazard w i with
      | some k => (p.1.modWarp g wi (fun w => { w with stall := some (k, pc), readySince := none }), none)
      | none =>
        ({ ((p.1.settleFor g wi i).noteIssue g wi x w).modWarp g wi (fun y => (y.begin ls pc p.2).gain ls (x.tileJoin w i pc)) with
          cur := some ⟨g, wi, ls, pc, p.2, 0⟩ }, some i)

/-- The issue of a warp (R57). -/
def Dev.issue (d : Dev) (g wi : Nat) : Dev × Option Instr :=
  match d.group? g, d.warp? g wi with
  | some x, some w => if x.ready w && w.issuing != 0 then d.fetch g wi x w w.issuing (w.pcOf (lowest w.issuing)) else (d, none)
  | _, _ => (d, none)

/-- The lanes of a warp that rest as an arrival. -/
def Warp.restingIn (w : Warp) (arr : Nat) : LaneSet :=
  w.waiting (fun k => match k with
    | .rest a _ => a == arr
    | _ => false)

/-- An arrival leaves its rest: its lanes go on with the instruction that they issued, whose word is not fetched again (R60), once no
operation holds a tile that it names (R71, R237). -/
def Dev.resume (d : Dev) (arr : Nat) : Dev × Option Instr :=
  match d.rested.find? (·.arr == arr) with
  | none => (d, none)
  | some r => match d.group? r.g, d.warp? r.g r.w with
    | some x, some w =>
      let ls := w.restingIn arr
      if ls = 0 || x.saving.isSome || ((instrTile (decode r.word).instr).map x.held).getD false then (d, none) else
      ({ (d.settleLoads r.g r.w).modWarp r.g r.w (·.setWait ls .none) with cur := some ⟨r.g, r.w, ls, r.pc, r.word, arr⟩ }, some (decode r.word).instr)
    | _, _ => (d, none)

/-- The arrivals that no lane rests in any more are forgotten. -/
def Dev.dropRested (d : Dev) : Dev :=
  { d with rested := d.rested.filter (fun r => ((d.warp? r.g r.w).map (fun w => w.restingIn r.arr != 0)).getD false) }

/-! ### The fixture of `withFetchWord` (log 9) -/

/-- A warp at entry (R34): all its populated lanes live at `pc`; the writes `know` happen before its accesses (R191). -/
def Warp.entry (live : LaneSet) (pc : Addr) (args : DWord) (quad age : Nat) (know : List Nat := []) : Warp :=
  { live := live, handler := 0, bank := 0, park := [], pc := (lanesOf live).foldl (fun m L => put 0 m L pc) [], epc := [],
    ecause := [], wait := [], v := [], prop := [], s := put 0 [] 0 args, p := [], m := [], q := [], rngkey := 0, rngctr := [],
    drawd := 0, draw := none, drawn := [], acc := 0, rej := 0, tok := [], arrived := [], ser := 0, left := [], word := [], held := 0,
    view := (lanesOf live).foldl (fun m L => put View.init m L ⟨know, know, [], 0⟩) [], met := [], frag := [], quad := quad,
    age := age, readySince := none, stall := none }

/-- The launch record of the fixture: one group of 32 threads with every register, 16 tiles and 16 KiB of scratchpad. -/
def fixtureRec : LaunchRec :=
  { d0 := 0x10000, d1 := 0, d2 := BitVec.ofNat 64 (1 + 32 * 2 ^ 32 + 15 * 2 ^ 43 + 31 * 2 ^ 48 + 16 * 2 ^ 53), d3 := 0x100000004,
    d4 := 0, d5 := 0, d6 := 0, d7 := 0 }

/-- The group of the fixture. -/
def fixtureGroup (g grid : Nat) : Group :=
  { id := g, queue := 0, grid := grid, gid := 0, lr := fixtureRec, vf := 0, die := 0, cl := 0, row := 0,
    warps := [Warp.entry (BitVec.allOnes 32) 0x10000 0 0 g], scratch := [], lines := [], tiles := [], holds := [], tileKnow := [], gens := [],
    pools := [], pre := PreReq.no, preAt := 0, saving := none, tracker := false, tailed := false, freed := false, pixel := none, started := 0,
    ended := none, discarded := false, stall := none }

/-- The grid of the fixture. -/
def fixtureGrid (grid : Nat) : Grid :=
  { id := grid, queue := 0, lr := fixtureRec, tvec := 0, next := 1, again := [], deal := none, cores := [0], freeing := [],
    finished := [], know := [] }

/-- Function 0 with a page table at physical 0 that maps its first 1 GiB to the same addresses, readable, writable and
executable, and a word stored at 0x1_0000. -/
def Dev.loadWord (d : Dev) (w : DWord) : Dev :=
  let m := Memory.write d.mem 0 8 0x1001
  let m := Memory.write m 0x1000 8 0x2001
  let m := Memory.write m 0x2000 8 0xF
  { d with
    mem := Memory.write m 0x10000 8 w.toNat
    vfs := put Vf.init d.vfs 0 { (look Vf.init d.vfs 0) with pt := 0 }
    tlb := d.tlb.filter (fun t => t.vf != 0)
    bad := d.bad.filter (fun e => !([0, 64, 128, 1024].contains e.1)) }

/-- The load that `withFetchWord` stands for: a fresh group stands at the word, and its issue is the next move. -/
def loadFixture (s : State) (w : DWord) : State :=
  let n := s.dev.nextId
  { s with
    dev := { s.dev.loadWord w with
      halted := false
      power := true
      groups := fixtureGroup (n + 1) n :: s.dev.groups
      grids := fixtureGrid n :: s.dev.grids
      nextId := n + 2 }
    agenda := .issue (n + 1) 0 :: s.agenda }

end Sys2Proof.Machine
end

