-- ==== Sys2Proof/Machine/Mem.lean ====
section
/-!
DEFINITION. Row 5: loads, stores, atomics, fences, presence and prefetch (R164 to R178), with the checks of R362 in their
order, the L1 actions of R156 and the ordering rules of R180 to R187. The lanes of one instruction are performed in
ascending order (R171, R173).
-/
namespace Sys2Proof.Machine

/-! ### Hive memory and partitions (R160, R312, R318) -/

/-- The partition registers that a cluster runs under: the live ones, or an old layout until its next boundary. -/
def Dev.partAt (d : Dev) (c n : Nat) : Part :=
  look ⟨0, 0⟩ (((look Clu.init d.clus c).layout).getD d.parts) n

/-- The partition of a function (R311). -/
def Dev.ptn (d : Dev) (f : Nat) : Nat := bits (look Vf.init d.vfs f).ctl.toNat 16 4

/-- Whether device cluster c is in partition n: guaranteed, margin or borrowed (R312). -/
def Dev.inPart (d : Dev) (c n : Nat) : Bool :=
  let p := d.partAt c n
  p.gnt.getLsbD c || p.mrg.getLsbD c || (look Clu.init d.clus c).borrower == some n

/-- Whether a function's agent may reach a hive address (R160, R365). -/
def Dev.hiveOk (d : Dev) (f sum : Nat) : Bool :=
  let c := sum / 2 ^ 22
  decide (sum < 2 ^ 28) && decide (c < 48) && d.inPart c (d.ptn f) && decide (sum % 2 ^ 22 < look 0 d.cfg.hive c * 2 ^ 20)

/-! ### One lane's access -/

/-- The alignment fault of an access (R363). -/
def alignCause : Acc → Cause
  | .st => 0x052
  | .rmw => 0x053
  | _ => 0x051

/-- Checks 1 to 4 of R362 on an access of `n` bytes. -/
def Dev.locate (d : Dev) (x : Group) (space : Nat) (acc : Acc) (sum n : Nat) : Dev × Except Flt Loc :=
  if space = 1 && decide (sum ≥ 2 ^ 21 ∨ sum ≥ x.lr.window) then (d, .error ⟨0x085, sum, 0⟩)
  else if space = 2 && !d.hiveOk x.vf sum then (d, .error ⟨0x086, sum, 0⟩)
  else if sum % n ≠ 0 then (d, .error ⟨alignCause acc, sum, 0⟩)
  else match space with
    | 1 => (d, .ok (.sp sum))
    | 2 => (d, .ok (.hv sum))
    | _ =>
      let p := d.translate x.core x.vf acc sum
      match p.2 with
      | .error f => (p.1, .error f)
      | .ok (pa, s) => (p.1, .ok (.g pa (s || decide (pa ≥ 2 ^ 44) || p.1.watched (pa / 128))))

/-- The absent lines that `n` bytes of a group's scratchpad touch (R158). -/
def Group.absent (x : Group) (off n : Nat) : List Nat :=
  (unitsOf 128 off n).filter (fun l => !(look Line.fresh x.lines l).present)

/-- The first granule of 8 bytes that cannot be corrected and that an access reads, or writes in part (R371). -/
def Dev.sramBad (d : Dev) (key : Nat → Nat) (reads : Bool) (a n : Nat) : Option Nat :=
  (unitsOf 8 a n).find? (fun g => look false d.bad (key g) && (reads || !(wholeUnits 8 a n).contains g))

/-- Whether a core's own L1 serves an access, which then asks no home: a load of a sector that it holds, a store to one that
it holds in E or M (R156). -/
def Dev.l1Serves (d : Dev) (x : Group) (acc : Acc) (pa : Nat) (stream : Bool) : Bool :=
  !stream && (match acc with
    | .ld _ => d.holds x.core pa != 0
    | .st => decide (d.holds x.core pa ≥ 2)
    | _ => false)

/-- Check 5 of R362: the data at the home (R371, R373). -/
def Dev.dataFault (d : Dev) (x : Group) (acc : Acc) (sum n : Nat) : Loc → Option Flt
  | .g pa s =>
    if d.l1Serves x acc pa s then none else
    match d.unreached x.die (d.cfg.place pa) with
    | some c => some ⟨c, sum, 0⟩
    | none => (d.badAt pa n).map (fun a => ⟨if acc == .st then 0x176 else 0x170, sum, a⟩)
  | .sp off => (d.sramBad (scratchGran x.id) (acc != .st) off n).map (fun g => ⟨0x171, sum, 8 * g⟩)
  | .hv a => (d.sramBad hiveGran (acc != .st) a n).map (fun g => ⟨0x172, sum, 8 * g⟩)

/-- A write of bytes to a group's scratchpad. -/
def Dev.pokeScratch (d : Dev) (who : Who) (g off : Nat) (bs : List Byte) : Dev :=
  let old := Memory.readBytes (((d.group? g).map (·.scratch)).getD []) off bs.length
  let e := d.enter who (scratchPlace g off) old bs
  { d.modGroup g (fun x => { x with scratch := Memory.writeBytes x.scratch off e.2 }) with
    past := e.1
    bad := (wholeUnits 8 off bs.length).foldl (fun b u => put false b (scratchGran g u) false) d.bad }

/-- The write of a lane at a location; a cached store takes its line to M (R156). -/
def Dev.writeLoc (d : Dev) (x : Group) (who : Who) (acc : Acc) (l : Loc) (bs : List Byte) : Dev :=
  match l with
  | .g pa true => d.poke who pa bs
  | .g pa false =>
    if acc == .st then d.l1Store x.core x.queue pa (fun d => d.poke who pa bs) else d.poke who pa bs
  | .sp off => d.pokeScratch who x.id off bs
  | .hv a => d.pokeHive who a bs

/-! ### The order of lanes' accesses (R171, R182 to R186) -/

/-- What the lanes of an access have met, all together. -/
def Dev.viewAt (d : Dev) (x : Ix) (ls : LaneSet) : View :=
  match d.warp? x.g x.wi with
  | some w => (lanesOf ls).foldl (fun v L => v.join (w.viewOf L)) View.init
  | none => View.init

/-- What earlier accesses of a warp to some bytes bring to the next one there (R184). -/
def Warp.metAt (w : Warp) (a n : Nat) : List Nat :=
  (w.met.filter (fun e => decide (e.1 < a + n ∧ a < e.1 + e.2.1))).foldl (fun m e => uni m e.2.2) []

/-- What lanes have met before an access to some bytes. -/
def Dev.before (d : Dev) (x : Ix) (ls : LaneSet) (a n : Nat) : View :=
  (d.viewAt x ls).gain (((d.warp? x.g x.wi).map (·.metAt a n)).getD [])

/-- The writes that the reads of a warp have returned, or that it made: later ones of it go behind none of them (R171, R186). -/
def Dev.warpSeen (d : Dev) (x : Ix) : List Nat :=
  match d.warp? x.g x.wi with
  | some w => w.view.foldl (fun m e => uni m e.2.seen) []
  | none => []

/-- Lanes of a warp have made an access to some bytes and have met `v` since. -/
def Warp.meet (w : Warp) (ls : LaneSet) (a n : Nat) (v : View) : Warp :=
  let w := w.modView ls (fun _ => v)
  if v.know = [] then w else { w with met := (a, n, v.know) :: w.met }

/-- A read by lanes of some bytes at a place whose newest contents are `now`: what the order allows it, or the newest for a
home-bank operation; `acq` gives the scope of an acquire read, for the bytes read. -/
def Dev.readPlace (d : Dev) (x : Ix) (ls : LaneSet) (a n : Nat) (now : List Byte) (home : Bool) (acq : List Byte → Option Nat) : Dev × List Byte :=
  let v := d.before x ls a n
  let p := if home then (d, now, topWrites a n (d.past.filter (·.spans a n))) else d.glimpse v.know (d.warpSeen x) a n now
  let v := p.1.observe p.2.2 v
  let v := match acq p.2.1 with
    | some s => p.1.acquire (x.x.thr x.wi (lowest ls)) s p.2.2 v
    | none => v
  (p.1.modWarp x.g x.wi (·.meet ls a n v), p.2.1)

/-- A read by lanes at a location. -/
def Dev.readAt (d : Dev) (x : Ix) (ls : LaneSet) (l : Loc) (n : Nat) (home : Bool) (acq : List Byte → Option Nat) : Dev × List Byte :=
  d.readPlace x ls (l.place x.g) n (d.bytesAt x.g l n) home acq

/-- The location `k` bytes after one. -/
def Loc.shift (k : Nat) : Loc → Loc
  | .g pa s => .g (pa + k) s
  | .sp off => .sp (off + k)
  | .hv a => .hv (a + k)

/-- A read by lanes of `n` bytes at a location, in accesses of `size` bytes. -/
def Dev.readWords (d : Dev) (x : Ix) (ls : LaneSet) (l : Loc) (n size : Nat) : Dev × List Byte :=
  let a := l.place x.g
  if d.past.any (·.spans a n) then
    (List.range (n / size)).foldl (fun r i => let p := r.1.readAt x ls (l.shift (i * size)) size false (fun _ => none); (p.1, r.2 ++ p.2)) (d, [])
  else (d.modWarp x.g x.wi (·.meet ls a n (d.before x ls a n)), d.bytesAt x.g l n)

/-- A thread has made a release: what it has observed happens before it, and so before what the thread does next (R184). -/
def View.released (v : View) : View := { v with know := uni v.know v.cum }

/-- Some lanes make a release that no write of memory carries, and what it passes on (R184, R191). -/
def Dev.releasing (d : Dev) (x : Ix) (ls : LaneSet) : Dev × List Nat :=
  (d.modWarp x.g x.wi (·.modView ls View.released), ((d.warp? x.g x.wi).map (·.cumOf ls)).getD [])

/-- A thread makes a write of an identity: it happens before what the thread does next, and a release passes on what the
thread has observed (R184). -/
def View.wrote (v : View) (id rel : Nat) : View :=
  let v := if rel = 0 then v else v.released
  { v with know := uni v.know [id], cum := uni v.cum [id], seen := uni v.seen [id] }

/-- The widest scope of a release at a location: a scratchpad one is taken at `.cr` (R174). -/
def Loc.release (l : Loc) (rel : Nat) : Nat :=
  match l with
  | .sp _ => Nat.min rel 2
  | _ => rel

/-- Lanes write a place of the history that stands for no byte of memory, and whose contents were `old` (R269). -/
def Dev.writeMark (d : Dev) (x : Ix) (ls : LaneSet) (place : Nat) (old : List Byte) : Dev :=
  let v := d.before x ls place old.length
  let who := { x.x.who with thr := x.x.thr x.wi (lowest ls), rel := v.rel, before := if v.rel = 0 then v.know else v.cum }
  ({ d with past := (d.enter who place old old).1 }).modWarp x.g x.wi (·.meet ls place old.length (v.wrote d.past.length v.rel))

/-- A write by a lane at a location; `rel` is the scope of the instruction's own release, plus 1 (R182). A store that races with the
newest write there may come before it: a free choice (R157, R186). -/
def Dev.writeAt (d : Dev) (x : Ix) (ls : LaneSet) (acc : Acc) (l : Loc) (bs : List Byte) (rel : Nat) : Dev :=
  let a := l.place x.g
  let v := d.before x ls a bs.length
  let rel := l.release (Nat.max rel v.rel)
  let t := x.x.thr x.wi (lowest ls)
  let p := if acc == .st && d.mayTrail t v.know (d.warpSeen x) a bs.length then d.freeBit else (d, false)
  let who := { x.x.who with rmw := acc == .rmw, thr := t, rel := rel, before := if rel = 0 then v.know else v.cum
                            behind := if p.2 then [a] else [] }
  (p.1.writeLoc x.x who acc l bs).modWarp x.g x.wi (·.meet ls a bs.length (v.wrote d.past.length rel))

/-- A fence of a lane (R175, R182): an acquire side acts on every read so far, a release side on every write to come, and
both sides together fall in one order of such fences (R185). -/
def Dev.fenceLane (ord scope : Nat) (x : Ix) (d : Dev) (L : Nat) : Dev :=
  let t := x.x.thr x.wi L
  let v := d.viewAt x (laneBit L)
  let v := if ord % 2 = 1 then d.acquire t scope v.seen v else v
  let v := if ord ≥ 2 then { v with rel := Nat.max v.rel (scope + 1) } else v
  if ord = 3 then
    let v := (d.fences.filter (fun f => meets f.2.1 f.1 scope t)).foldl (fun v f => v.gain f.2.2) v
    let v := v.released
    { d.modWarp x.g x.wi (·.modView (laneBit L) (fun _ => v)) with fences := (t, scope, v.cum) :: d.fences }
  else d.modWarp x.g x.wi (·.modView (laneBit L) (fun _ => v))

/-- `fence` (R175). -/
def Dev.fence (d : Dev) (o : OpW) (ord scope : Nat) : Dev :=
  d.laneAct o [] [] (fun _ _ => none) (fun d x ok => ((lanesOf ok).foldl (Dev.fenceLane ord scope x) d, 0))

/-- The presence join of lanes with some scratchpad lines (R190). -/
def Dev.presenceJoin (d : Dev) (x : Ix) (ls : LaneSet) (lines : List Nat) : Dev :=
  match d.group? x.g with
  | some y => d.modWarp x.g x.wi (·.gain ls (lines.foldl (fun m l => uni m (look Line.fresh y.lines l).by_) []))
  | none => d

/-- The requests of an access and its L1 actions but those of a cached store's write (R155, R156, R401); `first` says that the
instruction has not touched the sector before. -/
def Dev.touch (d : Dev) (x : Group) (acc : Acc) (l : Loc) (first : Bool) : Dev :=
  match l with
  | .g pa s =>
    let home := homeDie x.die (d.cfg.place pa)
    let line := pa / 128
    match acc with
    | .rmw => (d.l2 home x.vf false line).recall line
    | .ld ro => if s then (if first then d.l2 home x.vf false line else d).recall line else d.l1Load x.die x.core x.vf ro first pa
    | .st => if !first then d else if s then d.l2 home x.vf false line else if d.holds x.core pa ≥ 2 then d else d.l1Miss x.die home x.vf line
    | _ => d
  | .sp _ => d
  | .hv a => if acc == .rmw || first then d.l2 (a / 2 ^ 22 / 12) x.vf true else d

/-- The sector that a location names among those an instruction has touched. -/
def Loc.sector : Loc → Nat
  | .g pa _ => pa / 64
  | .sp off => 2 ^ 61 + off / 64
  | .hv a => 2 ^ 60 + a / 64

/-- The result of the lanes of a memory instruction so far. -/
structure MemSt where
  d : Dev
  vals : List (Nat × DWord)
  bad : List (Nat × Flt)
  waits : List (Nat × Nat × List Nat)
  seen : List Nat
  late : List Lag := []
  deriving DecidableEq, Repr

/-- What a memory instruction asks in each lane: its space, size in bytes and sums, whether its result is refused for its
shape, the new value at the location for the old one, if it writes, whether its read returns nothing (`red`, R174), the scope of its
acquire read, that of its release write plus 1, the hint `.ev`, the lanes that an access belongs to, and where and at which type a plain
load's value goes. -/
structure MemReq where
  space : Nat
  acc : Acc
  n : Nat
  sum : Nat → Nat
  refused : Bool := false
  new : Nat → DWord → Option DWord
  blind : Bool := false
  acq : Option Nat := none
  rel : Nat := 0
  ev : Bool := false
  lanes : Nat → LaneSet := laneBit
  dst : Option (Opnd × Ty) := none

/-- A cached line is marked as its set's next victim, if the access has the hint (R170). -/
def Dev.hinted (d : Dev) (x : Group) (ev : Bool) (l : Loc) : Dev :=
  match l with
  | .g pa false => if ev then d.l1Mark x.core (pa / 128) else d
  | _ => d

/-- The old value at a location, as an access of a lane reads it; a store reads nothing, and a `red` nothing that its lane is
given (R174, R182). -/
def Dev.oldAt (d : Dev) (x : Ix) (r : MemReq) (L : Nat) (l : Loc) : Dev × DWord :=
  if r.acc == .st then (d, 0) else
  if r.blind then (d, BitVec.ofNat 64 (ofBytes (d.bytesAt x.g l r.n))) else
  let p := d.readAt x (r.lanes L) l r.n (r.acc == .rmw) (fun _ => r.acq)
  (p.1, BitVec.ofNat 64 (ofBytes p.2))

/-- Whether a plain load of a lane is performed later: a free choice while another thread can write, and so once a lower lane's load of the
same bytes is (R171, R186). -/
def MemSt.defers (m : MemSt) (x : Ix) (r : MemReq) (l : Loc) : Dev × Bool :=
  if r.dst.isNone || !m.d.hasOthers x.g x.wi then (m.d, false)
  else if m.late.any (·.spans x.g x.wi (l.place x.g) r.n) then (m.d, true) else m.d.freeBit

/-- A load to be performed later; until then its register holds the newest bytes of the issue. -/
def MemSt.defer (m : MemSt) (x : Ix) (r : MemReq) (L : Nat) (l : Loc) (o : Opnd × Ty) : MemSt :=
  { m with
    d := (m.d.touch x.x r.acc l (!m.seen.contains l.sector)).hinted x.x r.ev l
    vals := m.vals ++ [(L, BitVec.ofNat 64 (ofBytes (m.d.bytesAt x.g l r.n)))]
    seen := l.sector :: m.seen
    late := m.late ++ [⟨x.g, x.wi, r.lanes L, l, r.n, o.1, o.2, (m.d.before x (r.lanes L) (l.place x.g) r.n).know, m.d.warpSeen x⟩] }

/-- Whether an access of a lane comes after the loads of its warp that are not yet performed: it meets one of them, or it is a write after
a release fence of the lane, which they happen before (R171, R182). -/
def Dev.follows (d : Dev) (x : Ix) (r : MemReq) (L : Nat) (l : Loc) : Bool :=
  d.lags.any (fun e => e.spans x.g x.wi (l.place x.g) r.n || (r.acc.writes && (d.viewAt x (r.lanes L)).rel != 0))

/-- A lane's access once it has passed its checks. -/
def MemSt.perform (m : MemSt) (x : Ix) (r : MemReq) (L : Nat) (l : Loc) : MemSt :=
  let m := if m.d.follows x r L l then { m with d := m.d.settleLoads x.g x.wi } else m
  let q := m.defers x r l
  let m := { m with d := q.1 }
  match q.2, r.dst with
  | true, some o => m.defer x r L l o
  | _, _ =>
  let p := (m.d.touch x.x r.acc l (!m.seen.contains l.sector)).oldAt x r L l
  let d := match r.new L p.2 with
    | some v => p.1.writeAt x (r.lanes L) r.acc l (toBytes r.n v.toNat) r.rel
    | none => p.1
  { m with d := d.hinted x.x r.ev l, vals := m.vals ++ [(L, p.2)], seen := l.sector :: m.seen }

/-- A write that takes 0x180 or 0x181 may have been performed whole (R373): a free choice. -/
def Dev.maybe (d : Dev) (x : Ix) (r : MemReq) (L : Nat) (l : Loc) (f : Flt) : Dev :=
  if (f.cause == 0x180 || f.cause == 0x181) && r.acc.writes then
    let p := d.freeBit
    if p.2 then
      match r.new L (BitVec.ofNat 64 (ofBytes (p.1.bytesAt x.g l r.n))) with
      | some v => p.1.writeAt x (r.lanes L) r.acc l (toBytes r.n v.toNat) r.rel
      | none => p.1
    else p.1
  else d

/-- Whether an arrival of a warp, earlier than `arr` if that is one, rests on a scratchpad line. -/
def Warp.restsOn (w : Warp) (line arr : Nat) : Bool :=
  w.waiting (fun k => match k with
    | .rest a (.presence _ ls) => ls.contains line && (arr == 0 || decide (a < arr))
    | _ => false) != 0

/-- The lines of a scratchpad access that it waits for: those that are absent (R158), and those on which earlier arrivals
of its warp rest, since the accesses of a warp to one location keep their order (R171). -/
def Dev.awaited (d : Dev) (x : Ix) (off n : Nat) : List Nat :=
  match d.group? x.g, d.warp? x.g x.wi with
  | some y, some w => (unitsOf 128 off n).filter (fun l => !(look Line.fresh y.lines l).present || w.restsOn l x.arr)
  | _, _ => []

/-- One lane of a memory instruction: checks 1 to 4, the presence wait, check 5, the shape, and the access. A scratchpad access joins
the copies that set the presence of its lines, whether or not it has waited (R190, R344, R362). -/
def MemSt.lane (x : Ix) (r : MemReq) (m : MemSt) (L : Nat) : MemSt :=
  let p := m.d.locate x.x r.space r.acc (r.sum L) r.n
  let m := { m with d := p.1 }
  match p.2 with
  | .error f => { m with bad := m.bad ++ [(L, f)] }
  | .ok l =>
    let lines := unitsOf 128 (r.sum L) r.n
    let away : List Nat := match l with
      | .sp off => m.d.awaited x off r.n
      | _ => []
    if away ≠ [] then { m with waits := m.waits ++ [(L, r.sum L, lines)] } else
    match m.d.dataFault x.x r.acc (r.sum L) r.n l with
    | some f => { m with d := m.d.maybe x r L l f, bad := m.bad ++ [(L, f)] }
    | none =>
      if r.refused then { m with bad := m.bad ++ [(L, ⟨0x043, 0, 0⟩)] } else
      let joined := if r.space = 1 then { m with d := m.d.presenceJoin x (r.lanes L) lines } else m
      joined.perform x r L l

/-- The lanes of a memory instruction, in ascending order. -/
def Dev.access (d : Dev) (x : Ix) (r : MemReq) (ls : LaneSet) : MemSt :=
  (lanesOf ls).foldl (MemSt.lane x r) { d := d, vals := [], bad := [], waits := [], seen := [] }

/-! ### Instructions -/

/-- The address sum of R167: base, scaled index and displacement. -/
def Ix.sum (x : Ix) (o : OpW) (k : Nat) (disp : DWord) (L : Nat) : Nat :=
  let idx : DWord := if o.b == .zero then 0 else ((x.val o .n32 o.b L).setWidth 32).signExtend 64
  (x.sval o o.a + (idx <<< k) + disp).toNat

/-- Some loads are performed later. -/
def Dev.delay (d : Dev) (ls : List Lag) : Dev := { d with lags := d.lags ++ ls }

/-- Lanes rest on presence, those of one line together (R158, R171, R172). -/
def Dev.restLanes (d : Dev) (x : Ix) (ws : List (Nat × Nat × List Nat)) : Dev :=
  ((ws.map (·.2.2)).eraseDups).foldl (fun d ls =>
    let on := ws.filter (·.2.2 == ls)
    d.rest x (setOf (on.map (·.1))) (.presence ((on.map (·.2.1)).headD 0) ls)) d

/-- A lane-wise memory instruction: what its lanes ask, and the type at which old values go to `o.d`, if it has one. -/
def Dev.memLanes (d : Dev) (o : OpW) (ds srcs : List Use) (t : Ty) (req : Ix → MemReq) : Dev :=
  match d.ix with
  | none => d
  | some x =>
    let p := d.plan x o ds srcs (fun _ => none) (fun _ => false)
    let m := d.access x { req x with refused := ds.any x.x.lr.isCompact } p.ok
    let ok := setOf (m.vals.map (·.1))
    let d := if ds = [] then m.d else
      (m.d.modWarp x.g x.wi (fun w => w.writeD o.d t ok .g (fun L => (m.vals.lookup L).getD 0))).mend x ds ok
    let wait := setOf (m.waits.map (·.1))
    let d := ((d.delay m.late).restLanes x m.waits).finish x (ok ||| wait) wait (p.bad ++ m.bad)
    if wait = 0 then d else d.presenceCheck x.g

/-- A scalar-side load: one access for the arrival (R59, R169). -/
def Dev.memScalar (d : Dev) (o : OpW) (req : Ix → MemReq) : Dev :=
  match d.ix with
  | none => d
  | some x =>
    let d := d.scalarAct o [(o.d, 1)] [(o.a, 1)] (fun d x =>
      let m := MemSt.lane x { req x with lanes := fun _ => x.guard o } { d := d, vals := [], bad := [], waits := [], seen := [] } 0
      match m.vals, m.bad, m.waits with
      | (_, v) :: _, _, _ => ((m.d.setS x o.d (tyImage o.ty v)).delay m.late, .done)
      | [], (_, f) :: _, _ => (m.d, .fault f)
      | [], [], (_, s, ls) :: _ => (m.d, .rest (.presence s ls))
      | [], [], [] => (m.d, .done))
    d.presenceCheck x.g

/-- The bytes of a type. -/
def tyBytes (t : Ty) : Nat := t.width / 8

/-- `ld`, `lsp` and `lhv` (R169), with the hint of `ld` (R165). -/
def Dev.load (d : Dev) (o : OpW) (space hint : Nat) : Dev :=
  let req := fun (x : Ix) =>
    { space := space, acc := .ld (hint == 1), n := tyBytes o.ty, sum := x.sum o (o.sub % 4) o.imm, new := fun _ _ => none, ev := hint == 2
      dst := some (o.d, o.ty) : MemReq }
  if o.d.kind == .s then d.memScalar o req else d.memLanes o [useAt o.ty o.d] [(o.a, 1), (o.b, 1)] o.ty req

/-- `st`, `ssp` and `shv` (R169), with the hint of `st`. -/
def Dev.store (d : Dev) (o : OpW) (space hint : Nat) : Dev :=
  d.memLanes o [] [(o.a, 1), (o.b, 1), useAt o.ty o.c] o.ty (fun x =>
    { space := space, acc := .st, n := tyBytes o.ty, sum := x.sum o (o.sub % 4) o.imm, new := fun L _ => some (x.val o o.ty o.c L), ev := hint == 2 })

/-- The scope of a home-bank operation: a scratchpad one is taken at `.cr` at most (R174). -/
def OpW.scope (o : OpW) : Nat := if o.immBits 5 2 = 1 then Nat.min (o.immBits 2 3) 1 else o.immBits 2 3

/-- `atom`, `cas` and `red`: the control word's order, scope, space and scale (R165); no displacement (R167). -/
def Dev.homeOp (d : Dev) (o : OpW) (ds : List Use) (new : Ix → Nat → DWord → Option DWord) (srcs : List Use) (blind : Bool := false) : Dev :=
  d.memLanes o ds ([(o.a, 1), (o.b, 1), useAt o.ty o.c] ++ srcs) o.ty (fun x =>
    { space := o.immBits 5 2, acc := .rmw, n := tyBytes o.ty, sum := x.sum o (o.immBits 7 2) 0, new := new x, blind := blind
      acq := if o.immBits 0 1 = 1 then some o.scope else none, rel := if o.immBits 1 1 = 1 then o.scope + 1 else 0 })

/-- The value an atomic leaves (R173). -/
def atomNew (op : Nat) (t : Ty) (old c : DWord) : DWord := if op = 6 then c else combine op t old c

def Dev.atom (d : Dev) (o : OpW) : Dev :=
  d.homeOp o [useAt o.ty o.d] (fun x L old => some (atomNew o.sub o.ty old (x.val o o.ty o.c L))) []
def Dev.red (d : Dev) (o : OpW) : Dev :=
  d.homeOp o [] (fun x L old => some (atomNew o.sub o.ty old (x.val o o.ty o.c L))) [] true
/-- `cas`: d is the new value and the destination (R173). -/
def Dev.cas (d : Dev) (o : OpW) : Dev :=
  d.homeOp o [useAt o.ty o.d] (fun x L old => if old = x.val o o.ty o.c L then some (x.val o o.ty o.d L) else none) [useAt o.ty o.d]

/-- The scratchpad line of a lane's sum, or its fault (R168, R365). -/
def lineFault (o : OpW) (x : Ix) (L : Nat) : Option Flt :=
  let sum := x.sum o (o.sub % 4) o.imm L
  if sum ≥ 2 ^ 21 ∨ sum ≥ x.x.lr.window then some ⟨0x085, sum, 0⟩ else none

/-- `pchk` (R176): a lane that reads true joins the copies that set the presence (R190). -/
def Dev.pchk (d : Dev) (o : OpW) : Dev :=
  let line := fun (x : Ix) L => x.sum o (o.sub % 4) o.imm L / 128
  d.regOpAlso o .n32 [(o.a, 1), (o.b, 1)] (fun _ => .g) (lineFault o) (fun x _ L => ofBool (look Line.fresh x.x.lines (line x L)).present)
    (fun ok w => match d.ix with
      | some x => (lanesOf ok).foldl (fun w L =>
          let l := look Line.fresh x.x.lines (line x L)
          if l.present then w.gain (laneBit L) l.by_ else w) w
      | none => w)

/-- `pclr` (R177). -/
def Dev.pclr (d : Dev) (o : OpW) : Dev :=
  d.laneAct o [] [(o.a, 1), (o.b, 1)] (lineFault o) (fun d x ok =>
    (d.modGroup x.g (fun y => { y with lines := (lanesOf ok).foldl (fun m L =>
      let l := x.sum o (o.sub % 4) o.imm L / 128
      put Line.fresh m l { (look Line.fresh m l) with present := false }) y.lines }), 0))

/-- One lane of a prefetch: checked as a one-byte load (R178), dropped where an entry or the data cannot be read (R369); a sector that
several lanes ask for is one request (R401). -/
def prefetchLane (x : Ix) (l2 : Bool) (sum : Nat → Nat) (m : Dev × List (Nat × Flt) × List Nat) (L : Nat) : Dev × List (Nat × Flt) × List Nat :=
  let p := m.1.locate x.x 0 .pf (sum L) 1
  match p.2 with
  | .error f => (p.1, if f.cause == 0x174 || f.cause == 0x180 || f.cause == 0x181 then m.2.1 else m.2.1 ++ [(L, f)], m.2.2)
  | .ok (.g pa s) =>
    let first := !m.2.2.contains (pa / 64)
    if (p.1.dataFault x.x .pf (sum L) 1 (.g pa s)).isSome then (p.1, m.2)
    else (if l2 then (if first then p.1.l2 (homeDie x.x.die (p.1.cfg.place pa)) x.x.vf false (pa / 128) else p.1)
          else if s then p.1 else p.1.l1Load x.x.die x.x.core x.x.vf true first pa, m.2.1, (pa / 64) :: m.2.2)
  | .ok _ => (p.1, m.2)

/-- `pfch` (R178). -/
def Dev.pfch (d : Dev) (o : OpW) : Dev :=
  match d.ix with
  | none => d
  | some x =>
    let p := d.plan x o [] [(o.a, 1), (o.b, 1)] (fun _ => none) (fun _ => false)
    let m := (lanesOf p.ok).foldl (prefetchLane x (o.sub / 4 == 1) (x.sum o (o.sub % 4) o.imm)) (d, [], [])
    m.1.finish x (p.ok &&& ~~~(setOf (m.2.1.map (·.1)))) 0 (p.bad ++ m.2.1)

/-! ### The meanings -/

def execLd (f : FWord) (s : State) := s.onDev (·.load (fop f) 0 (f.sub.toNat / 4))
def execSt (f : FWord) (s : State) := s.onDev (·.store (fop f) 0 (f.sub.toNat / 4))
def execLsp (f : FWord) (s : State) := s.onDev (·.load (fop f) 1 0)
def execSsp (f : FWord) (s : State) := s.onDev (·.store (fop f) 1 0)
def execLhv (f : FWord) (s : State) := s.onDev (·.load (fop f) 2 0)
def execShv (f : FWord) (s : State) := s.onDev (·.store (fop f) 2 0)
def execAtom (f : FWord) (s : State) := s.onDev (·.atom (fop f))
def execCas (f : FWord) (s : State) := s.onDev (·.cas (fop f))
def execRed (f : FWord) (s : State) := s.onDev (·.red (fop f))
def execFence (f : FWord) (s : State) := s.onDev (·.fence (fop f) (f.sub.toNat % 4) (f.sub.toNat / 4 + 4 * (f.ty.code.toNat % 2)))
def execPchk (f : FWord) (s : State) := s.onDev (·.pchk (fop f))
def execPclr (f : FWord) (s : State) := s.onDev (·.pclr (fop f))
def execPfch (f : FWord) (s : State) := s.onDev (·.pfch (fop f))

end Sys2Proof.Machine
end

