-- ==== Sys2Proof/Machine/Engine.lean ====
section
/-!
DEFINITION. Engine threads (R188, R189, R378 to R380): their fork, the accesses they make for the function that issued
them, their arrivals, failures and stalls, and the lines of scratchpad they fill (R158, R177).
-/
namespace Sys2Proof.Machine

/-! ### Fork -/

/-- Where an issue stands (R378). -/
def Ix.origin (x : Ix) (ls : LaneSet) : Origin :=
  { g := x.g, w := x.wi, gid := x.x.gid, grid := x.x.grid, queue := x.x.queue, vf := x.x.vf, die := x.x.die, cl := x.x.cl,
    row := x.x.row, lanes := ls, pc := x.pc, word := x.word, op := 0 }

/-- An engine as a writer: kind 1 a copy engine, 2 any other (R375). -/
def Origin.who (o : Origin) (kind : Nat) : Who :=
  { kind := kind, tag := o.vf, die := o.die, cl := o.cl, row := if kind = 1 then o.row else 0, queue := o.queue }

/-- The device core number of an origin. -/
def Origin.core (o : Origin) : Nat := 96 * o.die + 8 * o.cl + o.row

/-- The operation of an identity. -/
def Dev.op? (d : Dev) (id : Nat) : Option Op := d.ops.find? (·.id == id)
/-- Change the operation of an identity. -/
def Dev.modOp (d : Dev) (id : Nat) (f : Op → Op) : Dev := { d with ops := d.ops.map (fun o => if o.id = id then f o else o) }
/-- The operation of an identity ends. -/
def Dev.dropOp (d : Dev) (id : Nat) : Dev := { d with ops := d.ops.filter (·.id != id) }

/-- The writes that happen before what some lanes of a warp do next. -/
def Dev.knownTo (d : Dev) (g wi : Nat) (ls : LaneSet) : List Nat :=
  match d.warp? g wi with
  | some w => (lanesOf ls).foldl (fun m L => uni m (w.viewOf L).know) []
  | none => []

/-- Fork an engine thread: what happens before its issue happens before all that it does (R188). -/
def Dev.fork (d : Dev) (src : Origin) (done : Nat) (k : OpKind) : Dev :=
  let know := d.knownTo src.g src.w src.lanes
  { d with ops := d.ops ++ [{ id := d.nextId, src := { src with op := d.nextId }, done := done, kind := k, stall := none, started := d.now,
                              view := ⟨know, know, [], 0⟩ }],
           nextId := d.nextId + 1 }

/-! ### Engine threads in the memory model (R180, R187 to R189) -/

/-- Where the unit of an operation stands (R180). -/
def OpKind.level : OpKind → Nat
  | .copy .. => 1
  | .mmac .. => 1
  | .drain .. => 1
  | .resolve .. => 2
  | .arrive l .. => l
  | .card .. => 3
  | .coll .. => 3
  | .deliver .. => 3

/-- The thread of an origin; a draw's stands at its cluster. -/
def Dev.thrOf (d : Dev) (o : Origin) : Thr := ⟨((d.op? o.op).map (·.kind.level)).getD 2, o.die, o.cl, o.row, o.op, 0, 0⟩

/-- What an engine thread, an operation's or a draw's, has of the writes. -/
def Dev.opView (d : Dev) (o : Origin) : View :=
  (((d.op? o.op).map (·.view)).or ((d.draws.find? (·.id == o.op)).map (·.view))).getD View.init
/-- Change what an engine thread has of the writes. -/
def Dev.modView (d : Dev) (o : Origin) (f : View → View) : Dev :=
  (d.modOp o.op (fun p => { p with view := f p.view })).modDraw o.op (fun r => { r with view := f r.view })

/-- An engine thread as a writer. -/
def Dev.ewho (d : Dev) (o : Origin) (kind : Nat) : Who := { o.who kind with thr := d.thrOf o, before := (d.opView o).know }

/-- The reads of an engine thread have returned some writes. -/
def Dev.opSaw (d : Dev) (o : Origin) (ids : List Nat) : Dev :=
  if ids = [] then d else d.modView o (d.observe ids)

/-- The writes since the history had `n` of them are an engine thread's: they happen before its next release. -/
def Dev.opWrote (d : Dev) (o : Origin) (n : Nat) : Dev :=
  d.modView o (fun v => { v with cum := uni v.cum (newIds n d.past) })

/-- What an engine thread reads at a place whose newest contents are `now`: each word by itself, as the order of writes allows
it (R187, R188). A draw's unit works in the order of R282, and reads what is newest (log 4). -/
def Dev.engineRead (d : Dev) (o : Origin) (place : Nat) (now : List Byte) : Dev × List Byte :=
  let es := d.past.filter (·.spans place now.length)
  if es = [] then (d, now) else
  if (d.op? o.op).isNone then (d.opSaw o (topWrites place now.length es), now) else
  (unitsOf 4 place now.length).foldl (fun r u =>
    let c := wordPart place now.length u
    let p := r.1.glimpse (d.opView o).know [] c.1 c.2 ((now.drop (c.1 - place)).take c.2)
    (p.1.opSaw o p.2.2, r.2 ++ p.2.1)) (d, [])

/-- The scratchpad of a group as an engine thread reads it, whose reads join the copies that set the presence of its lines: each
word as the order of writes allows it (R187, R243). -/
def Dev.engineScratch (d : Dev) (o : Origin) (g : Nat) : Dev × Memory :=
  match d.group? g with
  | none => (d, [])
  | some x =>
    let ws := d.past.filter (·.spans (scratchPlace g 0) x.lr.window)
    let d := d.modView o (·.gain (x.lines.foldl (fun m e => uni m e.2.by_) []))
    ((ws.flatMap (fun w => unitsOf 4 w.place w.old.length)).eraseDups).foldl (fun r u =>
      let off := 4 * u - scratchPlace g 0
      let p := r.1.glimpse (r.1.opView o).know [] (4 * u) 4 (Memory.readBytes x.scratch off 4)
      (p.1.opSaw o p.2.2, Memory.writeBytes r.2 off p.2.1)) (d, x.scratch)

/-- The words of an operation's write of `n` bytes at a place that come right behind the newest write there: a free choice for each word that
races with it (R157, R187, R188). A draw's writes come last (log 4). -/
def Dev.trailing (d : Dev) (o : Origin) (place n : Nat) : Dev × List Nat :=
  if (d.op? o.op).isNone then (d, []) else
  (unitsOf 4 place n).foldl (fun r u =>
    let c := wordPart place n u
    if !d.mayTrail (d.thrOf o) (d.opView o).know [] c.1 c.2 then r else
    let b := r.1.freeBit
    (b.1, if b.2 then u :: r.2 else r.2)) (d, [])

/-- A write of bytes by an engine thread at a place, which `put` makes: one write at the home, in which each word takes its own place in the
order of writes (R187, R188). -/
def Dev.engineWrite (d : Dev) (o : Origin) (kind place : Nat) (put : Dev → Who → List Byte → Dev) (bs : List Byte) : Dev :=
  let p := d.trailing o place bs.length
  (put p.1 { d.ewho o kind with words := true, behind := p.2 } bs).opWrote o d.past.length

/-- An engine thread writes places of the history that stand for no byte of memory: each with what it held (R269). -/
def Dev.engineMarks (d : Dev) (o : Origin) (ps : List (Nat × List Byte)) : Dev :=
  (ps.foldl (fun d p => { d with past := (d.enter (d.ewho o 2) p.1 p.2 p.2).1 }) d).opWrote o d.past.length

/-! ### Accesses -/

/-- What stops an engine thread: a memory fault, as the cause a lane would have taken and the address (R381), or a code
of the engine's own with its D5 and D6. -/
inductive EFault where
  | mem (code addr : Nat) | own (c : Cause) (d5 d6 : Nat)
  deriving DecidableEq, Repr
/-- The outcome of engine accesses. -/
abbrev Er (α : Type) := Dev × Except EFault α

/-- Go on where the accesses so far have succeeded. -/
def Er.andThen {α β : Type} (r : Er α) (f : Dev → α → Er β) : Er β :=
  match r.2 with
  | .error e => (r.1, .error e)
  | .ok a => f r.1 a

/-- Carry a value through a list of accesses. -/
def Er.each {α β : Type} (f : Dev → β → α → Er β) : List α → Dev → β → Er β
  | [], d, b => (d, .ok b)
  | a :: l, d, b => Er.andThen (f d b a) (Er.each f l)

/-- The pieces of `n` bytes from `a` that lie each in one 4 KiB page: address and length. -/
def chunks (a n : Nat) : List (Nat × Nat) :=
  (unitsOf 4096 a n).map (fun u => (Nat.max a (u * 4096), Nat.min (a + n) ((u + 1) * 4096) - Nat.max a (u * 4096)))

/-- The kind of page that an access asks for: an ordinary one, one with C set, or one with P set (R154). -/
inductive PageKind where
  | plain | c | p
  deriving DecidableEq, Repr

/-- The permission checks of R362 (4) for an access that asks for a kind of page: code 0 where the page is not of that
kind and a lane would not be refused. -/
def Dev.permitKind (d : Dev) (f : Nat) (acc : Acc) (k : PageKind) (e : DWord) (pa : Nat) : Option Nat :=
  match k, d.permit f acc e pa with
  | .plain, c => c.map (·.toNat)
  | .c, some c => if c == 0x090 || c == 0x091 then none else some c.toNat
  | .p, some c => if c == 0x092 || c == 0x093 then none else some c.toNat
  | _, none => some 0

/-- What a leaf gives an address: its physical address, or on a C page its entry of the mapping table that
PPN gives (R223). -/
def Dev.leafAt (d : Dev) (k : PageKind) (e : DWord) (l va : Nat) : Nat :=
  d.cfg.norm (if k == .c then ptePpn e + 8 * (va % leafSpan e l / 4096) else leafPa e l va)

/-- Translate an address of a function for a unit of a die: the leaf, its level and what it gives the address. -/
def Dev.epage (d : Dev) (f die : Nat) (acc : Acc) (k : PageKind) (va : Nat) : Er (DWord × Nat × Nat) :=
  if va ≥ 2 ^ 56 then (d, .error (.mem (if acc.writes then 0x071 else 0x061) va)) else
  let p := d.lookup (384 + die) f va
  match p.2 with
  | .leaf e l =>
    let pa := p.1.leafAt k e l va
    (p.1, match p.1.permitKind f acc k e pa with
      | some c => .error (.mem c va)
      | none => match p.1.unreached die (p.1.cfg.place pa) with
        | some c => .error (.mem c.toNat va)
        | none => .ok (e, l, pa))
  | w => (p.1, .error (.mem (((w.fault acc.writes va).map (·.cause.toNat)).getD 0x060) va))

/-- The requests at the homes of the sectors of some physical bytes (R401); copies in L1s are recalled, by an engine's reads too
(log 17). -/
def Dev.requests (d : Dev) (f : Nat) (pa n die : Nat) : Dev :=
  let h := homeDie die (d.cfg.place pa)
  (unitsOf 64 pa n).foldl (fun d s => (d.l2 h f false (s / 2)).recall (s / 2)) d

/-- Read bytes of global memory. -/
def Dev.eread (d : Dev) (o : Origin) (a n : Nat) : Er (List Byte) :=
  Er.each (fun d bs c => (d.epage o.vf o.die (.ld false) .plain c.1).andThen (fun d t =>
    if (d.badAt t.2.2 c.2).isSome then (d, .error (.mem 0x170 c.1))
    else
      let p := d.engineRead o t.2.2 (Memory.readBytes d.mem t.2.2 c.2)
      (p.1, .ok (bs ++ p.2)))) (chunks a n) d []

/-- The physical places of bytes to write, every page checked before any is written. -/
def Dev.eplaces (d : Dev) (o : Origin) (acc : Acc) (a n : Nat) : Er (List (Nat × Nat)) :=
  Er.each (fun d ps c => (d.epage o.vf o.die acc .plain c.1).andThen (fun d t =>
    if (unitsOf 64 t.2.2 c.2).any (fun g => look false d.bad g && !(wholeUnits 64 t.2.2 c.2).contains g) then (d, .error (.mem 0x176 c.1))
    else (d, .ok (ps ++ [(t.2.2, c.2)])))) (chunks a n) d []

/-- Write bytes at physical places in turn. -/
def Dev.pokeAll (d : Dev) (o : Origin) (kind : Nat) : List (Nat × Nat) → List Byte → Dev
  | [], _ => d
  | (pa, n) :: l, bs => Dev.pokeAll (d.engineWrite o kind pa (fun d who bs => d.poke who pa bs) (bs.take n)) o kind l (bs.drop n)

/-- Write bytes of global memory. -/
def Dev.ewrite (d : Dev) (o : Origin) (kind a : Nat) (bs : List Byte) : Er Unit :=
  (d.eplaces o .st a bs.length).andThen (fun d ps => (d.pokeAll o kind ps bs, .ok ()))

/-- The scratchpad of an origin's group. -/
def Dev.scratchOf (d : Dev) (g : Nat) : Memory := ((d.group? g).map (·.scratch)).getD []

/-- Read bytes of a space (R150): 0 global, 1 scratchpad, 2 hive. -/
def Dev.esread (d : Dev) (o : Origin) (space a n : Nat) : Er (List Byte) :=
  match space with
  | 1 => if (d.sramBad (scratchGran o.g) true a n).isSome then (d, .error (.mem 0x171 a))
         else (let p := d.engineRead o (scratchPlace o.g a) (Memory.readBytes (d.scratchOf o.g) a n); (p.1, .ok p.2))
  | 2 => if !(d.hiveOk o.vf a && d.hiveOk o.vf (a + n - 1)) then (d, .error (.mem 0x086 a))
         else if (d.sramBad hiveGran true a n).isSome then (d, .error (.mem 0x172 a))
         else (let p := d.engineRead o (hivePlace a) (Memory.readBytes d.hive a n); (p.1, .ok p.2))
  | _ => d.eread o a n

/-- Write bytes of a space. -/
def Dev.eswrite (d : Dev) (o : Origin) (kind space a : Nat) (bs : List Byte) : Er Unit :=
  match space with
  | 1 => if (d.sramBad (scratchGran o.g) false a bs.length).isSome then (d, .error (.mem 0x176 a))
         else (d.engineWrite o kind (scratchPlace o.g a) (fun d who bs => d.pokeScratch who o.g a bs) bs, .ok ())
  | 2 => if !(d.hiveOk o.vf a && d.hiveOk o.vf (a + bs.length - 1)) then (d, .error (.mem 0x086 a))
         else if (d.sramBad hiveGran false a bs.length).isSome then (d, .error (.mem 0x176 a))
         else (d.engineWrite o kind (hivePlace a) (fun d who bs => d.pokeHive who a bs) bs, .ok ())
  | _ => d.ewrite o kind a bs

/-- The addresses of some ranges, in units of 64 bytes, each once. -/
def sectorsOf (rs : List (Nat × Nat)) : List Nat := (rs.flatMap (fun r => unitsOf 64 r.1 r.2)).eraseDups

/-- The requests of an engine's accesses to ranges of a space, each sector once (R401). -/
def Dev.ecount (d : Dev) (o : Origin) (space : Nat) (rs : List (Nat × Nat)) : Dev :=
  match space with
  | 1 => d
  | 2 => (sectorsOf rs).foldl (fun d s => d.l2 (s / 2 ^ 16 / 12) o.vf true) d
  | _ => (sectorsOf rs).foldl (fun d s => match d.walk o.die o.vf (64 * s) with
    | .leaf e l => d.requests o.vf (d.cfg.norm (leafPa e l (64 * s))) 64 o.die
    | _ => d) d

/-- The requests of accesses of which each was made or not, as a free choice: those of a thread that fails (R379, R401). -/
def Dev.maybeCount (d : Dev) (o : Origin) (space : Nat) (rs : List (Nat × Nat)) : Dev :=
  let r := rs.foldl (fun (r : Dev × List (Nat × Nat)) q => let p := r.1.freeBit; (p.1, if p.2 then q :: r.2 else r.2)) (d, [])
  r.1.ecount o space r.2

/-- A copy engine has written `n` bytes: code 8 counts each 256 of them (R320). -/
def Dev.copied (d : Dev) (o : Origin) (n : Nat) : Dev :=
  let k := 16 * o.die + o.vf
  let t := look 0 d.odd k + n
  { d with odd := put 0 d.odd k (t % 256) }.count o.die o.vf 8 (t / 256)

/-- Write each byte of a list or leave it, as a free choice for each (R379, log 8); what is written is counted (R320, R401). -/
def Dev.maybeBytes (d : Dev) (o : Origin) (kind space : Nat) (ws : List (Nat × Byte)) : Dev :=
  let r := ws.foldl (fun (r : Dev × List (Nat × Nat)) w =>
    let p := r.1.freeBit
    if !p.2 then (p.1, r.2) else
    match p.1.eswrite o kind space w.1 [w.2] with
    | (d, .ok _) => (d, (w.1, 1) :: r.2)
    | (d, .error _) => (d, r.2)) (d, [])
  let d := r.1.ecount o space r.2
  if kind = 1 then d.copied o r.2.length else d

/-! ### Completion objects (R189, R378) -/

/-- The value of an object after an arrival: `n` added, and bit 63 set by a failure. -/
def arrived (old n : Nat) (fail : Bool) : Nat := if fail then 2 ^ 63 + (old + n) % 2 ^ 63 else (old + n) % 2 ^ 64

/-- An arrival at a completion object, as a release `red` at `.dev` at its home, that covers what the thread has done (R189). -/
def Dev.arrival (d : Dev) (o : Origin) (kind done n : Nat) (fail : Bool) : Er Unit :=
  if done = 0 then (d, .ok ()) else
  (d.epage o.vf o.die .rmw .plain done).andThen (fun d t =>
    if (d.badAt t.2.2 8).isSome then (d, .error (.mem 0x170 done)) else
    let v := arrived (Memory.read d.mem t.2.2 8) n fail
    let who := { d.ewho o kind with rmw := true, rel := 5, before := (d.opView o).cum }
    let n := d.past.length
    (((d.requests o.vf t.2.2 8 o.die).poke who t.2.2 (toBytes 8 v)).opWrote o n, .ok ()))

/-! ### Scratchpad lines (R158, R177) -/

/-- A copy clears a line at issue: its bit, and one more copy outstanding. -/
def Line.clear (l : Line) : Line := ⟨false, l.count + 1, if l.present then [] else l.by_⟩

/-- A copy that touches lines clears them at issue. -/
def Dev.clearLines (d : Dev) (g : Nat) (ls : List Nat) : Dev :=
  d.modGroup g (fun x => { x with lines := ls.foldl (fun m l => put Line.fresh m l (look Line.fresh m l).clear) x.lines })

/-- A landing in a line: the bit is set when it brings the count to zero; `ids` are the copy's writes there. -/
def Line.land (ids : List Nat) (l : Line) : Line := ⟨l.present || decide (l.count ≤ 1), l.count - 1, uni l.by_ ids⟩

/-- The writes of a thread in a line of a group's scratchpad, with those that happen before them (R190). -/
def Dev.landed (d : Dev) (g : Nat) (t : Thr) (l : Nat) : List Nat :=
  (d.past.filter (fun w => w.by_ == t && w.spans (scratchPlace g (128 * l)) 128)).foldl (fun m w => uni (uni m [w.id]) w.before) []

/-- Landings of a thread in some lines, and the orphan check that follows (R367). -/
def Dev.landLines (d : Dev) (g : Nat) (t : Thr) (ls : List Nat) : Dev :=
  if ls = [] then d else
  (d.modGroup g (fun x => { x with lines := ls.foldl (fun m l =>
    put Line.fresh m l ((look Line.fresh m l).land (d.landed g t l))) x.lines })).presenceCheck g

/-! ### Failures and stalls (R378 to R380) -/

/-- The record of an engine thread. -/
def Origin.record (o : Origin) (c : Cause) (d5 d6 : Nat) : Rec :=
  { cause := c, pc := o.pc.toNat, group := o.gid, die := o.die, cl := o.cl, row := o.row, warp := o.w, word := o.word, d5 := d5, d6 := d6 }

/-- Whether a fault of an engine access is a translation that meets V = 0. -/
def EFault.isV0 : EFault → Bool
  | .mem c _ => c == 0x060 || c == 0x070
  | .own .. => false

/-- An engine thread stalls: its record, and what it waits for (R380); a stall is imprecise as a failure is (log 23). -/
def Dev.stallOp (d : Dev) (op : Op) (c : Cause) (d5 d6 : Nat) : Dev :=
  (d.recordFor op.src.queue { op.src.record c d5 d6 with res := true, imp := true } { op := op.id }).1.modOp op.id
    (fun o => { o with stall := some (c, d5, d6) })

/-- The code and address of an access that has met V = 0. -/
def EFault.gap {α : Type} : Except EFault α → Option (Nat × Nat)
  | .error (.mem c va) => if (EFault.mem c va).isV0 then some (c, va) else none
  | _ => none

/-- Write a length where an engine's output goes (R226), as 8 bytes. -/
def Dev.writeLen (d : Dev) (o : Origin) (kind : Nat) : Option (Nat × Nat) → Er Unit
  | some (a, v) => (d.ewrite o kind a (toBytes 8 v)).andThen (fun d _ => (d.ecount o 0 [(a, 8)], .ok ()))
  | none => (d, .ok ())

/-- A failed thread writes the length that it has still to write, makes its final arrival of `n`, at which the lines it had cleared land, and
ends (R379, R382). An access of these that meets V = 0 stalls the thread there, with the code `stop`; one that takes another fault is
lost (R378, R380, log 16). -/
def Dev.lastArrival (d : Dev) (op : Op) (kind n : Nat) (lines : List Nat) (stop : Cause) (len : Option (Nat × Nat) := none) : Dev :=
  let halt := fun (d : Dev) (len : Option (Nat × Nat)) (g : Nat × Nat) =>
    (d.modOp op.id (fun o => { o with kind := .arrive op.kind.level kind n lines len stop })).stallOp op stop g.1 g.2
  let w := d.writeLen op.src kind len
  match EFault.gap w.2 with
  | some g => halt w.1 len g
  | none =>
    let a := w.1.arrival op.src kind op.done n true
    match EFault.gap a.2 with
    | some g => halt a.1 none g
    | none => (a.1.landLines op.src.g (a.1.thrOf op.src) lines).dropOp op.id

/-- An engine thread fails: its record, then the length that it has still to write, and its final arrival of `n` with the lines it had
cleared. -/
def Dev.failOp (d : Dev) (op : Op) (kind : Nat) (c : Cause) (d5 d6 : Nat) (unres : Bool) (n : Nat) (lines : List Nat)
    (stop : Cause := 0x0E5) (len : Option (Nat × Nat) := none) : Dev :=
  (d.record op.src.queue { op.src.record c d5 d6 with imp := true, unres := unres }).lastArrival op kind n lines stop len

/-- Whether a die's Bieno fault service works now (R364, R400). -/
def Dev.serviceUp (d : Dev) (die : Nat) : Bool := !d.bienoHeld.contains die && !d.tlbinv.getLsbD 5

/-- A global read of `n` bytes by an issuing arrival, checked as `ld` (R369): the number read; `acq` gives the scope of an acquire
read, for that number. -/
def Dev.arrRead (d : Dev) (x : Ix) (ls : LaneSet) (sum n : Nat) (acq : Nat → Option Nat := fun _ => none) : Dev × Except Flt Nat :=
  let p := d.locate x.x 0 (.ld false) sum n
  match p.2 with
  | .error f => (p.1, .error f)
  | .ok l => match p.1.dataFault x.x (.ld false) sum n l with
    | some f => (p.1, .error f)
    | none =>
      let r := (p.1.touch x.x (.ld false) l true).readAt x ls l n false (fun bs => acq (ofBytes bs))
      (r.1, .ok (ofBytes r.2))

end Sys2Proof.Machine
end

