-- ==== Sys2Proof/Machine/Comb.lean ====
section
/-!
DEFINITION. The comb store (R20, R221 to R225): CRC-32C (R219), block compression (R220), page records (R222), mapping
entries (R223), segments with their writers, and the collector.
-/
namespace Sys2Proof.Machine

/-! ### CRC-32C (R219) -/

def crcBit (c : Word) : Word := if c.getLsbD 0 then (c >>> 1) ^^^ 0x82F63B78 else c >>> 1
def crcByte (c : Word) (b : Byte) : Word := (List.range 8).foldl (fun c _ => crcBit c) (c ^^^ b.setWidth 32)
/-- The CRC-32C of some bytes. -/
def crc32c (bs : List Byte) : Word := ~~~ (bs.foldl crcByte 0xFFFFFFFF)

/-! ### Block compression (R220) -/

/-- The eight words of a block. -/
def blockWords (bs : List Byte) : List DWord := (List.range 8).map (fun k => BitVec.ofNat 64 (ofBytes ((bs.drop (8 * k)).take 8)))

/-- Whether every delta from w0 fits a signed width of `n` bits. -/
def deltasFit (n : Nat) (ws : List DWord) : Bool :=
  ws.all (fun w => ((w - ws.headD 0).setWidth n).signExtend 64 == w - ws.headD 0)

/-- w0 and then seven deltas of `k` bytes. -/
def deltaBytes (k : Nat) (ws : List DWord) : List Byte :=
  toBytes 8 (ws.headD 0).toNat ++ (ws.drop 1).flatMap (fun w => toBytes k (w - ws.headD 0).toNat)

/-- The first method that holds, and its payload. -/
def compressBlock (bs : List Byte) : Nat × List Byte :=
  let ws := blockWords bs
  if ws.all (· == 0) then (0, [])
  else if ws.all (· == ws.headD 0) then (1, toBytes 8 (ws.headD 0).toNat)
  else if deltasFit 8 ws then (2, deltaBytes 1 ws)
  else if deltasFit 16 ws then (3, deltaBytes 2 ws)
  else if deltasFit 32 ws then (4, deltaBytes 4 ws)
  else (5, bs)

/-- The bytes of a payload, by method. -/
def payloadSize (m : Nat) : Nat := [0, 8, 15, 22, 36, 64].getD m 0

/-- The block that a method and a payload stand for. -/
def expandBlock (m : Nat) (pl : List Byte) : List Byte :=
  let w0 : DWord := BitVec.ofNat 64 (ofBytes (pl.take 8))
  let delta := fun (k : Nat) (j : Nat) =>
    ((BitVec.ofNat (8 * k) (ofBytes ((pl.drop (8 + k * (j - 1))).take k))).signExtend 64 : DWord)
  let all := fun k => (List.range 8).flatMap (fun j => toBytes 8 (if j = 0 then w0 else w0 + delta k j).toNat)
  match m with
  | 0 => List.replicate 64 0
  | 1 => (List.range 8).flatMap (fun _ => pl.take 8)
  | 2 => all 1
  | 3 => all 2
  | 4 => all 4
  | _ => pl

/-! ### Page records (R222) -/

/-- Zero bytes up to a multiple of 32. -/
def pad32 (bs : List Byte) : List Byte := bs ++ List.replicate ((32 - bs.length % 32) % 32) 0

/-- The record of a page. -/
def pageRecord (owner : Nat) (page : List Byte) : List Byte :=
  let cs := (List.range 64).map (fun b => compressBlock ((page.drop (64 * b)).take 64))
  let codes := (List.range 32).map (fun k => (BitVec.ofNat 8 ((cs.getD (2 * k) (0, [])).1 + 16 * (cs.getD (2 * k + 1) (0, [])).1) : Byte))
  pad32 (toBytes 8 (owner / 8 * 8) ++ toBytes 4 (crc32c page).toNat ++ toBytes 4 0 ++ codes ++ cs.flatMap (·.2))

/-- Expand blocks from their codes and the payloads that follow; none when one breaks R222. -/
def expandBlocks : List Nat → List Byte → Option (List Byte)
  | [], _ => some []
  | m :: ms, pl =>
    if m > 5 ∨ pl.length < payloadSize m then none
    else (expandBlocks ms (pl.drop (payloadSize m))).map (expandBlock m (pl.take (payloadSize m)) ++ ·)

/-- The page that a record holds; none when it breaks R222, or has a reserved bit set (R4). -/
def expandRecord (rec_ : List Byte) : Option (List Byte) :=
  if rec_.length < 48 || ofBytes (rec_.take 8) % 8 != 0 || ofBytes (rec_.take 8) / 2 ^ 52 != 0 || ofBytes ((rec_.drop 12).take 4) != 0 then none else
  let codes := ((rec_.drop 16).take 32).flatMap (fun b => [b.toNat % 16, b.toNat / 16])
  match expandBlocks codes (rec_.drop 48) with
  | none => none
  | some page => if (crc32c page).toNat = ofBytes ((rec_.drop 8).take 4) then some page else none

/-! ### Mapping entries (R223) -/

def entV (e : Nat) : Bool := e % 2 == 1
/-- The record's offset from the store's base, in units of 32 bytes. -/
def entOff (e : Nat) : Nat := bits e 1 40
/-- The record's length in units of 32 bytes. -/
def entLen (e : Nat) : Nat := bits e 41 8
def entry (off len : Nat) : Nat := 1 + off * 2 + len * 2 ^ 41

/-- The die that holds a physical address, 0 where none of this package does. -/
def Dev.dieOf (d : Dev) (pa : Nat) : Nat :=
  match d.cfg.place pa with
  | .ram h => h
  | _ => 0

/-- The base and size of a die's comb store (R221, R337). -/
def Dev.combBase (d : Dev) (die : Nat) : Nat := look 0 d.cfg.combBase die
def Dev.combSize (d : Dev) (die : Nat) : Nat := look 0 d.cfg.combSize die

/-- Whether an entry has a reserved bit set (R4). -/
def entReserved (e : Nat) : Bool := e / 2 ^ 49 != 0
/-- Whether an entry's record lies in a die's store. -/
def Dev.inStore (d : Dev) (die e : Nat) : Bool := decide (entLen e > 0) && decide (32 * (entOff e + entLen e) ≤ d.combSize die)

/-! ### Segments (R20, R221) -/

/-- A free segment. -/
def Seg.free : Seg := ⟨none, false, 0, []⟩
/-- The units of 32 bytes in a segment of 1 MiB. -/
def segUnits : Nat := 32768
def segKey (die i : Nat) : Nat := die * 2 ^ 20 + i
/-- The segments of a die. -/
def Dev.segNos (d : Dev) (die : Nat) : List Nat := List.range (d.combSize die / 2 ^ 20)
def Dev.seg (d : Dev) (die i : Nat) : Seg := look Seg.free d.segs (segKey die i)
def Dev.setSeg (d : Dev) (die i : Nat) (s : Seg) : Dev := { d with segs := put Seg.free d.segs (segKey die i) s }

/-- The open segment of a writer with room for `n` units. -/
def Dev.openSeg (d : Dev) (die w n : Nat) : Option Nat :=
  (d.segNos die).find? (fun i => (d.seg die i).writer == some w && decide ((d.seg die i).fill + n ≤ segUnits))
/-- A free segment. -/
def Dev.freeSeg (d : Dev) (die : Nat) : Option Nat := (d.segNos die).find? (fun i => d.seg die i == Seg.free)

/-- Every open segment of a writer is sealed. -/
def Dev.sealSegs (d : Dev) (die w : Nat) : Dev :=
  (d.segNos die).foldl (fun d i =>
    let s := d.seg die i
    if s.writer = some w then d.setSeg die i { s with writer := none, isSealed := true } else d) d

/-- The segment that a writer appends `n` units to: its open one, or, once that is full and sealed, a free one. -/
def Dev.headSeg (d : Dev) (die w n : Nat) : Dev × Option Nat :=
  match d.openSeg die w n with
  | some i => (d, some i)
  | none =>
    let d := d.sealSegs die w
    match d.freeSeg die with
    | some i => (d.setSeg die i { Seg.free with writer := some w }, some i)
    | none => (d, none)

/-- Append a record for the entry at `owner` of a surface, plus 1, or of none: its offset in units; none without a free
segment. -/
def Dev.append (d : Dev) (die w : Nat) (who : Who) (owner surf : Nat) (bs : List Byte) : Dev × Option Nat :=
  let n := bs.length / 32
  let p := d.headSeg die w n
  match p.2 with
  | none => (p.1, none)
  | some i =>
    let s := p.1.seg die i
    let off := i * segUnits + s.fill
    ((p.1.setSeg die i { s with fill := s.fill + n, recs := s.recs ++ [(off, n, owner, surf)] }).poke who (d.combBase die + 32 * off) bs, some off)

/-- Whether a record is the one that its owning entry names. -/
def Dev.liveRec (d : Dev) (r : Nat × Nat × Nat × Nat) : Bool :=
  let e := Memory.read d.mem r.2.2.1 8
  entV e && entOff e == r.1

/-- The live records of a segment and its dead units. -/
def Dev.liveRecs (d : Dev) (s : Seg) : List (Nat × Nat × Nat × Nat) := s.recs.filter d.liveRec
def Dev.deadUnits (d : Dev) (s : Seg) : Nat := s.fill - ((d.liveRecs s).map (·.2.1)).foldl (· + ·) 0

/-- The sealed segment with the most dead bytes. -/
def Dev.victim (d : Dev) (die : Nat) : Option Nat :=
  leastBy (fun i => segUnits - d.deadUnits (d.seg die i))
    ((d.segNos die).filter (fun i => (d.seg die i).isSealed && decide (d.deadUnits (d.seg die i) > 0)))

/-- The collector as a writer: it acts for no tenant. -/
def collectorWho (die : Nat) : Who := { kind := 2, die := die, noq := true, thr := ⟨3, die, 0, 0, 2 ^ 50 + die, 0, 0⟩ }
def collectorId (die : Nat) : Nat := 2048 + die

/-- Install an entry's new offset: the collector by a compare-and-swap at its home, in place of the one copied from (R20). -/
def Dev.install (d : Dev) (who : Who) (owner off len : Nat) : Dev := d.poke who owner (toBytes 8 (entry off len))

/-- With no free segment to copy a live record into, a case that R20 does not name, the victim's live records move to its own
start, and it becomes the collector's (DESIGN CHOICE, log 24). -/
def Dev.compact (d : Dev) (die i : Nat) : Dev :=
  let live := (d.liveRecs (d.seg die i)).map (fun r => (r, Memory.readBytes d.mem (d.combBase die + 32 * r.1) (32 * r.2.1)))
  let d := (d.sealSegs die (collectorId die)).setSeg die i { Seg.free with writer := some (collectorId die) }
  live.foldl (fun d x => match d.append die (collectorId die) (collectorWho die) x.1.2.2.1 x.1.2.2.2 x.2 with
    | (d, some off) => d.install { collectorWho die with rmw := true } x.1.2.2.1 off x.1.2.1
    | (d, none) => d) d

/-- One move of a die's collector: it frees its victim, or copies a live record of it forward (R20, R221, R225). None
when no sealed segment holds dead bytes. -/
def Dev.collect (d : Dev) (die : Nat) : Option Dev :=
  (d.victim die).map (fun i =>
    match d.liveRecs (d.seg die i) with
    | [] => d.setSeg die i Seg.free
    | r :: _ =>
      let bs := Memory.readBytes d.mem (d.combBase die + 32 * r.1) (32 * r.2.1)
      match d.append die (collectorId die) (collectorWho die) r.2.2.1 r.2.2.2 bs with
      | (d, some off) => d.install { collectorWho die with rmw := true } r.2.2.1 off r.2.1
      | (d, none) => d.compact die i)

/-- Run the collector until a segment is free or it can do no more (R380). -/
def Dev.collectAll (d : Dev) (die : Nat) : Nat → Dev
  | 0 => d
  | n + 1 => if (d.freeSeg die).isSome then d else
    match d.collect die with
    | some d => d.collectAll die n
    | none => d

/-- How many moves the collector can make at most: one for each record and each segment of the die. -/
def Dev.collectFuel (d : Dev) (die : Nat) : Nat :=
  (((d.segNos die).map (fun i => (d.seg die i).recs.length + 1)).foldl (· + ·) 0) * 2

/-! ### C pages (R223, R224) -/

/-- A read of an engine thread that acquires at `.dev` (R224). -/
def Dev.opAcquire (d : Dev) (o : Origin) (a n : Nat) : Dev :=
  let ids := topWrites a n (d.past.filter (·.spans a n))
  if ids = [] then d else d.modOp o.op (fun p => { p with view := d.acquire (d.thrOf o) 4 ids (d.observe ids p.view) })

/-- The entry of a C page that holds an address, and its record expanded; a page of zeros when the entry is invalid. A
record that breaks R222 or R223 fails with the page's index and its entry's address (R381). -/
def Dev.cpage (d : Dev) (o : Origin) (acc : Acc) (va : Nat) : Er (Nat × List Byte) :=
  (d.epage o.vf o.die acc .c va).andThen (fun d t =>
    let ea := t.2.2
    let bad : EFault := .own 0x0EB (va % leafSpan t.1 t.2.1 / 4096) ea
    if (d.badAt ea 8).isSome then (d, .error (.mem 0x170 va)) else
    let d := (d.requests o.vf ea 8 o.die).opAcquire o ea 8
    let e := Memory.read d.mem ea 8
    let die := d.dieOf ea
    if entReserved e then (d, .error bad)
    else if !entV e then (d, .ok (ea, List.replicate 4096 0))
    else if !d.inStore die e then (d, .error bad)
    else
      let ra := d.combBase die + 32 * entOff e
      if (d.badAt ra (32 * entLen e)).isSome then (d, .error (.mem 0x170 va)) else
      match expandRecord (Memory.readBytes d.mem ra (32 * entLen e)) with
      | none => (d, .error bad)
      | some page => (d.requests o.vf ra (32 * entLen e) o.die, .ok (ea, page)))

/-- The entry of a C page that holds an address. -/
def Dev.centry (d : Dev) (o : Origin) (va : Nat) : Er Nat :=
  (d.epage o.vf o.die .st .c va).andThen (fun d t => (d, .ok t.2.2))

/-- Read bytes of C pages. -/
def Dev.cread (d : Dev) (o : Origin) (a n : Nat) : Er (List Byte) :=
  Er.each (fun d bs c => (d.cpage o (.ld false) c.1).andThen (fun d p => (d, .ok (bs ++ (p.2.drop (c.1 % 4096)).take c.2))))
    (chunks a n) d []

/-- Merge bytes into a page. -/
def mergePage (page : List Byte) (off : Nat) (bs : List Byte) : List Byte := page.take off ++ bs ++ page.drop (off + bs.length)

/-- Write a C page whole: its record appended, then its entry stored by a release write (R224). -/
def Dev.cinstall (d : Dev) (o : Origin) (ea : Nat) (page : List Byte) : Er Unit :=
  let die := d.dieOf ea
  let rec_ := pageRecord ea page
  let n := d.past.length
  match d.append die o.core (d.ewho o 1) ea 0 rec_ with
  | (d, none) => (d, .error (.own 0x0EC 0 0))
  | (d, some off) =>
    let d := (d.requests o.vf (d.combBase die + 32 * off) rec_.length o.die).opWrote o n
    let who := { d.ewho o 1 with rel := 5, before := (d.opView o).cum }
    (((((d.requests o.vf ea 8 o.die).install who ea off (rec_.length / 32)).opWrote o n)).count o.die o.vf 15 1, .ok ())

end Sys2Proof.Machine
end

