-- ==== Sys2Proof/Machine/Copy.lean ====
section
/-!
DEFINITION. Copies: the copy record (R211, R212), its refusals (R381), the elements and their conversion (R213 to R217),
plane form (R106, R107), pieces and arrivals (R218), checks (R219), and `cpy`, `cwait` and `cpoll` (R229 to R231).
-/
namespace Sys2Proof.Machine

/-! ### The record (R211) -/

/-- One side of a copy: its space, address, bit offset, pitch and format. -/
structure Side where
  space : Nat
  addr : Nat
  bit : Nat
  pitch : Nat
  fmt : Nat
  deriving DecidableEq, Repr

/-- The fields of a copy record. -/
structure Cp where
  s : Side
  t : Side
  width : Nat
  rows : Nat
  rm : Nat
  shape : Nat
  prec : Nat
  rtype : Nat
  res : Bool
  crc : Bool
  prog : Bool
  expand : Bool
  compress : Bool
  done : Nat
  raddr : Nat
  deriving DecidableEq, Repr

/-- A dword of a record. -/
def recW (r : List DWord) (k : Nat) : Nat := (r.getD k 0).toNat

/-- The fields of the record. -/
def cpOf (r : List DWord) : Cp :=
  let w := recW r
  { s := ⟨bits (w 0) 56 2, bits (w 0) 0 56, bits (w 0) 58 3, bits (w 2) 40 24, bits (w 3) 24 5⟩
    t := ⟨bits (w 1) 56 2, bits (w 1) 0 56, bits (w 1) 58 3, bits (w 3) 0 24, bits (w 3) 29 5⟩
    width := bits (w 2) 0 24, rows := bits (w 2) 24 16, rm := bits (w 3) 34 3, shape := bits (w 3) 37 2,
    prec := bits (w 3) 39 5, rtype := bits (w 3) 44 4, res := (w 3).testBit 48, crc := (w 3).testBit 49,
    prog := (w 3).testBit 50, expand := (w 3).testBit 51, compress := (w 3).testBit 52, done := bits (w 4) 3 53 * 8,
    raddr := bits (w 5) 0 56 }

/-! ### Formats (R212) -/

/-- Whether a format field names a blocked row, and the low bits. -/
def blocked (f : Nat) : Bool := decide (f ≥ 16)
/-- The raw type of a format field. -/
def rawTy (f : Nat) : Ty := Ty.ofCode (BitVec.ofNat 4 f)
/-- The width in bits of a format's elements. -/
def fmtW (f : Nat) : Nat := if blocked f then blkWidth (f % 16) else (rawTy f).width
/-- Whether a format field is one R212 allows. -/
def fmtOk (dst : Bool) (f : Nat) : Bool :=
  if blocked f then decide (1 ≤ f % 16 ∧ f % 16 ≤ 10) && !(dst && f % 16 == 6) else decide (f % 16 < 14)
/-- Whether a format is raw with elements of 4 bits. -/
def nibbled (f : Nat) : Bool := !blocked f && fmtW f == 4

/-- The first bit of row r of a side with raw elements (R213). -/
def Side.rowBit (x : Side) (r : Nat) : Nat :=
  if nibbled x.fmt then 8 * x.addr + x.bit + 4 * (r * x.pitch) else 8 * (x.addr + r * x.pitch)

/-- The bytes that elements lo to hi - 1 of row r occupy: address and length; blocks are taken whole (R219). -/
def Side.range (x : Side) (r lo hi : Nat) : Nat × Nat :=
  if hi ≤ lo then (x.addr + r * x.pitch, 0)
  else if blocked x.fmt then
    let e := epb (fmtW x.fmt)
    (x.addr + r * x.pitch + 64 * (lo / e), 64 * ((hi - 1) / e - lo / e + 1))
  else
    let a := x.rowBit r + lo * fmtW x.fmt
    let b := x.rowBit r + hi * fmtW x.fmt
    (a / 8, (b + 7) / 8 - a / 8)

/-! ### Refusals (R381) -/

/-- K-groups of a plane-form copy, and the bytes of a record (R107, R217). -/
def Cp.planeK (c : Cp) : Nat := ((if c.shape = 1 then c.width else c.rows) + 15) / 16
def planeBytes (prec : Nat) : Nat := 64 + 128 * prec

/-- The destination ranges, row by row. -/
def Cp.dstRanges (c : Cp) : List (Nat × Nat) :=
  if c.shape ≠ 0 then [(c.t.addr, c.planeK * planeBytes c.prec)]
  else (List.range c.rows).map (fun r => c.t.range r 0 c.width)
/-- The source ranges, row by row. -/
def Cp.srcRanges (c : Cp) : List (Nat × Nat) := (List.range c.rows).map (fun r => c.s.range r 0 c.width)

/-- Reserved bits (0x0E0). -/
def cpReserved (r : List DWord) : Bool :=
  let w := recW r
  bits (w 0) 61 3 != 0 || bits (w 1) 61 3 != 0 || bits (w 3) 53 11 != 0 || bits (w 4) 0 3 != 0 || bits (w 4) 56 8 != 0 || bits (w 5) 56 8 != 0

/-- Whether formats, spaces, shape, prec, rm or rtype break R211, R212 or R217 (0x0E1); so do a width or a count of rows
of 0 and a residue address without res; plane form ignores res (R217). A record with expand and compress both set is accepted, both sides
in C pages (R212; DESIGN CHOICE, log 25). -/
def Cp.formBad (c : Cp) : Bool :=
  c.s.space == 3 || c.t.space == 3 || !fmtOk false c.s.fmt || c.width == 0 || c.rows == 0 || decide (c.rm > 5) || c.shape == 3
    || c.shape == 0 && ((c.res && !([8, 9, 10, 11, 12].contains c.rtype)) || (!c.res && c.raddr != 0))
    || ((c.expand || c.compress) && (c.s.space != 0 || c.t.space != 0))
    || (c.compress && (c.s.fmt != 7 || c.t.fmt != 7 || c.rm != 0 || c.shape != 0 || c.res))
    || (if c.shape = 0 then !fmtOk true c.t.fmt || c.prec != 0
        else c.t.space != 1 || c.t.fmt != 0 || decide (c.prec < 2 ∨ c.prec > 16) || (c.shape == 1 && c.rows != 64) || (c.shape == 2 && c.width != 64))

/-- Whether a bit offset, a blocked address or a blocked pitch of a side breaks R211 or R212 (0x0E2). -/
def Side.placeBad (x : Side) : Bool :=
  (if nibbled x.fmt then x.bit != 0 && x.bit != 4 else x.bit != 0) || (blocked x.fmt && (x.addr % 64 != 0 || x.pitch % 64 != 0))

/-- The first address of a range that breaks the scratchpad or hive condition of R150. -/
def Dev.extentBad (d : Dev) (x : Group) (space a n : Nat) : Option Nat :=
  let m := 2 ^ 22
  match space with
  | 1 => if a + n > x.lr.window then some (Nat.max a x.lr.window) else none
  | 2 => (unitsOf m a n).findSome? (fun c =>
      let lo := Nat.max a (c * m)
      let top := c * m + (if c < 48 then look 0 d.cfg.hive c * 2 ^ 20 else 0)
      if Nat.min (a + n) ((c + 1) * m) > top then some (Nat.max lo top) else none)
  | _ => none

/-- The refusal of a copy record, by ascending code (R381, R377). -/
def Dev.cpRefuse (d : Dev) (x : Group) (r : List DWord) : Option Flt :=
  let c := cpOf r
  let ext := fun (s : Side) (rs : List (Nat × Nat)) => rs.findSome? (fun q => d.extentBad x s.space q.1 q.2)
  if cpReserved r then some ⟨0x0E0, 0, 0⟩
  else if c.formBad then some ⟨0x0E1, 0, 0⟩
  else if c.s.placeBad then some ⟨0x0E2, 0, c.s.addr⟩
  else if c.t.placeBad || (c.shape != 0 && c.t.addr % 64 != 0) then some ⟨0x0E2, 0, c.t.addr⟩
  else match (ext c.s c.srcRanges).or (ext c.t c.dstRanges) with
    | some a => some ⟨0x0E3, 0, a⟩
    | none => if c.crc && c.done == 0 then some ⟨0x0E4, 0, 0⟩ else none

/-! ### Pieces (R218) -/

/-- The 4 KiB frames of destination addresses that a copy writes, ascending. -/
def Cp.frames (c : Cp) : List Nat :=
  keysOf (c.dstRanges.foldl (fun m r => (unitsOf 4096 r.1 r.2).foldl (fun m k => put false m k true) m) ([] : SMap Bool))

/-- The scratchpad lines that ranges touch, ascending. -/
def linesOf (rs : List (Nat × Nat)) : List Nat :=
  keysOf (rs.foldl (fun m r => (unitsOf 128 r.1 r.2).foldl (fun m k => put false m k true) m) ([] : SMap Bool))

/-- The lines of a copy's scratchpad destination. -/
def Cp.lines (c : Cp) : List Nat := if c.t.space = 1 then linesOf c.dstRanges else []

/-- The elements of row r that an element copy writes in a frame: from, to. Blocks are taken whole. -/
def Cp.spanIn (c : Cp) (f r : Nat) : Nat × Nat :=
  let w := fmtW c.t.fmt
  let lo := 8 * 4096 * f
  let hi := lo + 8 * 4096
  if blocked c.t.fmt then
    let base := 8 * (c.t.addr + r * c.t.pitch)
    let e := epb w
    (Nat.min c.width ((lo - base) / 512 * e), Nat.min c.width ((hi - base) / 512 * e))
  else
    let base := c.t.rowBit r
    (Nat.min c.width ((lo - base) / w), Nat.min c.width ((hi - base + w - 1) / w))

/-- The element intervals (row, from, to) of a piece. -/
def Cp.spans (c : Cp) (f : Nat) : List (Nat × Nat × Nat) :=
  ((List.range c.rows).map (fun r => (r, c.spanIn f r))).filter (fun p => decide (p.2.1 < p.2.2))

/-- The K-groups whose records touch a frame. -/
def Cp.groupsIn (c : Cp) (f : Nat) : List Nat :=
  (List.range c.planeK).filter (fun g =>
    let a := c.t.addr + g * planeBytes c.prec
    decide (a < (f + 1) * 4096 ∧ f * 4096 < a + planeBytes c.prec))

/-- The source elements of a K-group: (row, from, to) (R217). -/
def Cp.groupSpans (c : Cp) (g : Nat) : List (Nat × Nat × Nat) :=
  if c.shape = 1 then (List.range 64).map (fun r => (r, 16 * g, Nat.min c.width (16 * g + 16)))
  else ((List.range 16).map (· + 16 * g)).filterMap (fun r => if r < c.rows then some (r, 0, 64) else none)

/-- The source elements of a piece. -/
def Cp.sources (c : Cp) (f : Nat) : List (Nat × Nat × Nat) :=
  if c.shape = 0 then c.spans f else (c.groupsIn f).flatMap c.groupSpans

/-! ### Elements (R213 to R217), from source bytes already read -/

/-- The bits of a source element. -/
def Side.code (x : Side) (m : Memory) (r i : Nat) : Nat :=
  let w := fmtW x.fmt
  let at_ := if blocked x.fmt then 8 * (x.addr + r * x.pitch + 64 * (i / epb w)) + 16 + w * (i % epb w) else x.rowBit r + i * w
  bits (Memory.read m (at_ / 8) (w / 8 + 1)) (at_ % 8) w

/-- The header of the block that holds a source element, and the block's address. -/
def Side.blockAddr (x : Side) (r i : Nat) : Nat := x.addr + r * x.pitch + 64 * (i / epb (fmtW x.fmt))
def Side.hdr (x : Side) (m : Memory) (r i : Nat) : Hdr := Hdr.ofNat (Memory.read m (x.blockAddr r i) 2)

/-- Whether a source block is malformed (R103): its own rules, or a width that is not its row's. -/
def Side.blockBad (x : Side) (h : Hdr) : Bool := h.malformed || (h.fmt != 0 && blkWidth h.fmt != fmtW x.fmt)

/-- The exact value of a raw code. -/
def rawVal (t : Ty) (code : Nat) : Val := if t.isInt then .ofInt (tyInt t (BitVec.ofNat 64 code)) else t.fmt.decode code

/-- The exact value of a source element (R93, R95, R105). -/
def Side.value (x : Side) (m : Memory) (r i : Nat) : Val :=
  if blocked x.fmt then (x.hdr m r i).value (x.code m r i % 2 ^ blkWidth (x.hdr m r i).fmt) else rawVal (rawTy x.fmt) (x.code m r i)

/-- Round a value into a raw type (R97, R98). -/
def rawRound (t : Ty) (rm : Rm) (out : Nat) (v : Val) : Nat :=
  if t.isInt then (BitVec.ofInt t.width (roundInt rm out (tyMin t) (tyMax t) v)).toNat else t.fmt.round rm out v

/-- The header of a destination block over its values (R215). -/
def dstHdr (fmt : Nat) (vs : List Val) : Hdr :=
  if vs.all Val.isZero then ⟨0, 0, 0⟩
  else match maxLog vs with
    | none => ⟨fmt, 0, 127⟩
    | some k => ⟨fmt, 0, (clampInt 0 254 (k - blkEmax fmt + 127)).toNat⟩

/-- The residue of an element (R216). -/
def residue (rtype : Nat) (x y : Val) : Nat :=
  let t := Ty.ofCode (BitVec.ofNat 4 rtype)
  if x.isFin && y.isFin then t.fmt.round .rne 0 (x.add .rne y.negate) else 0

/-- Whether an element copy moves bits unchanged (R214). -/
def Cp.bitCopy (c : Cp) : Bool := c.s.fmt == c.t.fmt && !blocked c.s.fmt

/-- The draw of element e (R214). -/
def cpDraw (c : Cp) (key : DWord) (lane : Nat) (ctr : Word) (e : Nat) : Nat :=
  if c.rm = 5 then Sys2Proof.draw key lane (ctr + BitVec.ofNat 32 e) else 0

/-- What a copy writes: bits of bytes of its destination, each byte with the mask of the bits written, and bytes of the
residue buffer. -/
structure Out where
  dst : SMap (Byte × Byte)
  res : SMap (Option Byte)
  deriving DecidableEq, Repr

/-- Put `n` bits of a value at a bit address. -/
def putBits (m : SMap (Byte × Byte)) (at_ n v : Nat) : SMap (Byte × Byte) :=
  (unitsOf 8 at_ n).foldl (fun m a =>
    let one := fun k => decide (at_ ≤ 8 * a + k ∧ 8 * a + k < at_ + n)
    let mask : Byte := BitVec.ofNat 8 (((List.range 8).filter one).foldl (fun s k => s + 2 ^ k) 0)
    let val : Byte := BitVec.ofNat 8 (if 8 * a ≥ at_ then v / 2 ^ (8 * a - at_) else v * 2 ^ (at_ - 8 * a))
    let o := look (0, 0) m a
    put (0, 0) m a (o.1 ||| mask, (o.2 &&& ~~~mask) ||| (val &&& mask))) m

/-- Put bytes at an address. -/
def putBytes (m : SMap (Byte × Byte)) (a : Nat) : List Byte → SMap (Byte × Byte)
  | [] => m
  | b :: bs => putBytes (put (0, 0) m a (0xFF, b)) (a + 1) bs

/-- Put a residue's bytes. -/
def putRes (c : Cp) (m : SMap (Option Byte)) (e ρ : Nat) : SMap (Option Byte) :=
  if !c.res then m else
  let n := (Ty.ofCode (BitVec.ofNat 4 c.rtype)).width / 8
  (List.range n).foldl (fun m k => put none m (c.raddr + e * n + k) (some (BitVec.ofNat 8 (ρ / 256 ^ k)))) m

/-- One element of a raw destination. -/
def Cp.rawElt (c : Cp) (m : Memory) (key : DWord) (lane : Nat) (ctr : Word) (r : Nat) (o : Out) (i : Nat) : Out :=
  let e := r * c.width + i
  let t := rawTy c.t.fmt
  let x := c.s.value m r i
  let y := if c.bitCopy then c.s.code m r i else rawRound t (Rm.ofCode c.rm) (cpDraw c key lane ctr e) x
  { dst := putBits o.dst (c.t.rowBit r + i * t.width) t.width y
    res := putRes c o.res e (if c.bitCopy then 0 else residue c.rtype x (rawVal t y)) }

/-- One block of a blocked destination: elements lo to hi - 1 of row r (R215). -/
def Cp.blkElt (c : Cp) (m : Memory) (key : DWord) (lane : Nat) (ctr : Word) (r lo hi : Nat) (o : Out) : Out :=
  let w := fmtW c.t.fmt
  let is := (List.range (hi - lo)).map (· + lo)
  let h := dstHdr (c.t.fmt % 16) (is.map (c.s.value m r))
  let base := c.t.addr + r * c.t.pitch + 64 * (lo / epb w)
  let dst := putBytes o.dst base (toBytes 2 (h.fmt * 16 + h.aux + h.scale * 256) ++ List.replicate 62 0)
  is.foldl (fun o i =>
    let e := r * c.width + i
    let x := c.s.value m r i
    let y := h.encode (Rm.ofCode c.rm) (cpDraw c key lane ctr e) x
    { dst := putBits o.dst (8 * base + 16 + w * (i - lo)) w y, res := putRes c o.res e (residue c.rtype x (h.value y)) }) { o with dst := dst }

/-- The elements of one interval of a row. -/
def Cp.spanOut (c : Cp) (m : Memory) (key : DWord) (lane : Nat) (ctr : Word) (o : Out) (sp : Nat × Nat × Nat) : Out :=
  if blocked c.t.fmt then
    let e := epb (fmtW c.t.fmt)
    ((List.range ((sp.2.2 - 1) / e - sp.2.1 / e + 1)).map (· + sp.2.1 / e)).foldl (fun o b =>
      c.blkElt m key lane ctr sp.1 (b * e) (Nat.min c.width (b * e + e)) o) o
  else ((List.range (sp.2.2 - sp.2.1)).map (· + sp.2.1)).foldl (c.rawElt m key lane ctr sp.1) o

/-! ### Plane form (R106) -/

/-- V / 2^s rounded to an integer. -/
def planeQ (s : Int) : Val → Int
  | .fin neg n d e => let m : Int := roundNat .rne neg n d (e - s) 0; if neg then -m else m
  | _ => 0

/-- A group's exponent byte and significands at precision P; none when it cannot be put in plane form. -/
def planeGroup (prec : Nat) (vs : List Val) : Option (Nat × List Int) :=
  if vs.any (fun v => !v.isFin) then none else
  match maxLog vs with
  | none => some (0, vs.map (fun _ => 0))
  | some k =>
    let e := if k < -126 then -126 else k
    let q := fun (e : Int) => vs.map (planeQ (e - prec + 2))
    let e := if (q e).any (fun x => decide (x > 2 ^ (prec - 1) - 1)) then e + 1 else e
    if e > 127 then none else some ((e + 127).toNat, q e)

/-- The bytes of a K-group record from the groups of its 64 rows or columns (R107). -/
def planeRecord (prec : Nat) (gs : List (Nat × List Int)) : List Byte :=
  let q := fun n k => BitVec.ofInt prec (((gs.getD n (0, [])).2).getD k 0)
  let plane := fun j => (List.range 128).map (fun a =>
    (BitVec.ofNat 8 ((List.range 8).foldl (fun s b => s + (if (q (a % 8 * 8 + b) (a / 8)).getLsbD j then 2 ^ b else 0)) 0) : Byte))
  gs.map (fun g => (BitVec.ofNat 8 g.1 : Byte)) ++ (List.range prec).flatMap (fun t => plane (prec - 1 - t))

/-- The values of row or column n of K-group g, padded with zeros. -/
def Cp.planeVals (c : Cp) (m : Memory) (g n : Nat) : List Val :=
  (List.range 16).map (fun k =>
    let kk := 16 * g + k
    if kk ≥ (if c.shape = 1 then c.width else c.rows) then .fin false 0 1 0
    else if c.shape = 1 then c.s.value m n kk else c.s.value m kk n)

/-- The record of K-group g, or the row or column that cannot be put in plane form. -/
def Cp.planeOut (c : Cp) (m : Memory) (g : Nat) : Except Nat (List Byte) :=
  let gs := (List.range 64).map (fun n => planeGroup c.prec (c.planeVals m g n))
  match (List.range 64).find? (fun n => (gs.getD n none).isNone) with
  | some n => .error n
  | none => .ok (planeRecord c.prec (gs.map (fun x => x.getD (0, []))))

/-! ### A piece -/

/-- The first malformed source block among some elements (0x0E7): the index of its first element read, and its address. -/
def Cp.blockFault (c : Cp) (m : Memory) (sps : List (Nat × Nat × Nat)) : Option EFault :=
  if !blocked c.s.fmt then none else
  let e := epb (fmtW c.s.fmt)
  sps.findSome? (fun sp => ((List.range ((sp.2.2 - 1) / e - sp.2.1 / e + 1)).map (· + sp.2.1 / e)).findSome? (fun b =>
    if c.s.blockBad (c.s.hdr m sp.1 (b * e)) then
      some (.own 0x0E7 (sp.1 * c.width + Nat.max sp.2.1 (b * e)) (c.s.blockAddr sp.1 (b * e))) else none))

/-- What a piece writes, from its source bytes. -/
def Cp.pieceOut (c : Cp) (m : Memory) (key : DWord) (lane : Nat) (ctr : Word) (f : Nat) : Except EFault Out :=
  match c.blockFault m (c.sources f) with
  | some x => .error x
  | none =>
    if c.shape = 0 then .ok ((c.spans f).foldl (c.spanOut m key lane ctr) ⟨[], []⟩)
    else (c.groupsIn f).foldl (fun o g => match o with
      | .error x => .error x
      | .ok o => match c.planeOut m g with
        | .error n => .error (.own 0x0E8 g n)
        | .ok bs => .ok { o with dst := putBytes o.dst (c.t.addr + g * planeBytes c.prec) bs }) (.ok ⟨[], []⟩)

/-- Read source ranges into a memory of their own, keyed by their addresses. -/
def Dev.gather (d : Dev) (o : Origin) (c : Cp) (rs : List (Nat × Nat)) : Er Memory :=
  Er.each (fun d m r => (if c.expand then d.cread o r.1 r.2 else d.esread o c.s.space r.1 r.2).andThen (fun d bs =>
    (d, .ok (Memory.writeBytes m r.1 bs)))) rs d []

/-- Runs of consecutive bytes within a sector. -/
def runsOf : List (Nat × Byte) → List (Nat × List Byte)
  | [] => []
  | (a, b) :: l => match runsOf l with
    | (c, bs) :: rs => if c = a + 1 ∧ c % 64 ≠ 0 then (a, b :: bs) :: rs else (a, [b]) :: (c, bs) :: rs
    | [] => [(a, [b])]

/-- The bytes of a piece in its frame, the bits it does not write as they stand. -/
def Dev.pieceBytes (d : Dev) (o : Origin) (c : Cp) (f : Nat) (out : Out) : Er (List (Nat × Byte)) :=
  Er.each (fun d l e =>
    if e.1 / 4096 ≠ f then (d, .ok l)
    else if e.2.1 = 0xFF then (d, .ok (l ++ [(e.1, e.2.2)]))
    else (d.esread o c.t.space e.1 1).andThen (fun d old =>
      (d, .ok (l ++ [(e.1, (old.headD 0 &&& ~~~e.2.1) ||| e.2.2)])))) out.dst d []

/-- Write a piece's bytes: into a C page by a new record, elsewhere run by run; then its residues (R216, R224). -/
def Dev.writePiece (d : Dev) (o : Origin) (c : Cp) (f : Nat) (bs : List (Nat × Byte)) (out : Out) : Er Unit :=
  let main : Er Unit :=
    if c.compress then
      let full := decide (bs.length = 4096)
      (if full then (d.centry o (4096 * f)).andThen (fun d ea => (d, .ok (ea, List.replicate 4096 0)))
        else d.cpage o .st (4096 * f)).andThen (fun d p =>
        d.cinstall o p.1 (bs.foldl (fun pg x => pg.set (x.1 % 4096) x.2) p.2))
    else Er.each (fun d _ r => d.eswrite o 1 c.t.space r.1 r.2) (runsOf bs) d ()
  main.andThen (fun d _ =>
    Er.each (fun d _ r => d.ewrite o 1 r.1 r.2) (runsOf (out.res.map (fun e => (e.1, e.2.getD 0)))) d ())

/-- The fields of a copy operation. -/
structure CpOp where
  c : Cp
  key : DWord
  lane : Nat
  ctr : Word
  crc : Word
  landed : Nat
  deriving DecidableEq, Repr

/-- What the next piece of a copy is to write: its frame, its bytes and residues. -/
def Dev.pieceOf (d : Dev) (o : Origin) (x : CpOp) (f : Nat) : Er (List (Nat × Byte) × Out) :=
  (d.gather o x.c ((x.c.sources f).map (fun sp => x.c.s.range sp.1 sp.2.1 sp.2.2))).andThen (fun d m =>
    match x.c.pieceOut m x.key x.lane x.ctr f with
    | .error e => (d, .error e)
    | .ok out => (d.pieceBytes o x.c f out).andThen (fun d bs => (d, .ok (bs, out))))

/-- The check of R219, before the last piece lands (R382). -/
def Dev.crcOk (d : Dev) (o : Origin) (x : CpOp) : Er Unit :=
  if !x.c.crc then (d, .ok ()) else
  (Er.each (fun d c r => (if x.c.expand then d.cread o r.1 r.2 else d.esread o x.c.s.space r.1 r.2).andThen (fun d bs =>
    (d, .ok (bs.foldl crcByte c)))) x.c.srcRanges d (0xFFFFFFFF : Word)).andThen (fun d c =>
      if ~~~c = x.crc then (d, .ok ()) else (d, .error (.own 0x0EA (~~~c).toNat x.crc.toNat)))

/-- The lines of a copy that a piece fills. -/
def Cp.linesIn (c : Cp) (f : Nat) : List Nat := c.lines.filter (fun l => l / 32 == f)

/-- Land the next piece: its accesses, then its counts, lines and arrival (R218). -/
def Dev.landPiece (d : Dev) (op : Op) (x : CpOp) (f : Nat) (last : Bool) : Er Unit :=
  let o := op.src
  (d.pieceOf o x f).andThen (fun d p =>
  (if last then d.crcOk o x else (d, .ok ())).andThen (fun d _ =>
  (d.writePiece o x.c f p.1 p.2).andThen (fun d _ =>
    let residues := runsOf (p.2.res.map (fun e => (e.1, e.2.getD 0)))
    let d := d.ecount o 0 (residues.map (fun r => (r.1, r.2.length)))
    let d := if x.c.expand then d else d.ecount o x.c.s.space ((x.c.sources f).map (fun sp => x.c.s.range sp.1 sp.2.1 sp.2.2))
    let d := if x.c.compress then d else d.ecount o x.c.t.space ((runsOf p.1).map (fun r => (r.1, r.2.length)))
    let d := d.copied o (p.1.length + p.2.res.length)
    if last || x.c.prog then
      (d.arrival o 1 op.done 1 false).andThen (fun d _ => (d.landLines o.g (d.thrOf o) (x.c.linesIn f), .ok ()))
    else (d.landLines o.g (d.thrOf o) (x.c.linesIn f), .ok ()))))

/-- A piece that a failed copy had still to land: the one it was at, or a later one whose reads it may have made. Its bytes are old or new,
each by itself (R379); what it read and wrote is counted (R401). -/
def Dev.failPiece (op : Op) (x : CpOp) (first : Bool) (d : Dev) (f : Nat) : Dev :=
  let srcs := (x.c.sources f).map (fun sp => x.c.s.range sp.1 sp.2.1 sp.2.2)
  let b := d.freeBit
  if !first && !b.2 then b.1 else
  let q := b.1.pieceOf op.src x f
  match q.2 with
  | .error _ => if !first then b.1 else if x.c.expand then q.1 else q.1.maybeCount op.src x.c.s.space srcs
  | .ok p =>
    let d := if x.c.expand then q.1 else q.1.ecount op.src x.c.s.space srcs
    if x.c.compress then
      (let w := d.freeBit; if w.2 then ((w.1.writePiece op.src x.c f p.1 p.2).1).copied op.src p.1.length else w.1)
    else (d.maybeBytes op.src 1 x.c.t.space p.1).maybeBytes op.src 1 0 (p.2.res.map (fun e => (e.1, e.2.getD 0)))

/-- A copy fails, with what it had still to land (R379). -/
def Dev.failCopy (d : Dev) (op : Op) (x : CpOp) (c : Cause) (d5 d6 : Nat) (unres : Bool) : Dev :=
  let left := x.c.frames.drop x.landed
  let d := (left.drop 1).foldl (Dev.failPiece op x false) ((left.take 1).foldl (Dev.failPiece op x true) d)
  d.failOp op 1 c d5 d6 unres (if x.c.prog then 0 else 1) (left.flatMap x.c.linesIn)

/-- Whether an engine error of a copy, a card or a collective stalls its thread, and the code with D5 and D6 (R381). -/
def engineStop (e : EFault) : Bool × Cause × Nat × Nat :=
  match e with
  | .mem c a => if e.isV0 then (true, 0x0E5, c, a) else (false, 0x0E6, c, a)
  | .own c a b => (c == 0x0EC, c, a, b)

/-- COPY_PIECE_LANDED: the next piece of a copy lands, or its thread stalls or fails (R218, R380, R381). -/
def Dev.copyPiece (d : Dev) (id : Nat) : Dev :=
  match d.op? id with
  | none => d
  | some op => match op.kind, op.stall with
    | .copy r key lane ctr crc landed, none =>
      let x : CpOp := ⟨cpOf r, key, lane, ctr, crc, landed⟩
      let fs := x.c.frames
      match fs[landed]? with
      | none => d
      | some f =>
        let last := decide (landed + 1 = fs.length)
        let p := d.landPiece op x f last
        match p.2 with
        | .ok _ => if last then p.1.dropOp id else p.1.modOp id (fun o => { o with kind := .copy r key lane ctr crc (landed + 1) })
        | .error e => match engineStop e with
          | (true, c, d5, d6) => (if c = 0x0EC then p.1 else d).stallOp op c d5 d6
          | (false, c, d5, d6) => d.failCopy op x c d5 d6 false
    | _, _ => d

/-! ### Instructions (R229 to R231) -/

/-- `n` consecutive scalar registers. -/
def Ix.record (x : Ix) (o : Opnd) (n : Nat) : List DWord :=
  match o with
  | .s k => (List.range n).map (fun i => x.w.readS (k.toNat + i))
  | _ => []

/-- The copies outstanding on a core, of 32. -/
def Dev.copies (d : Dev) (core : Nat) : Nat :=
  (d.ops.filter (fun o => o.src.core == core && (match o.kind with | .copy .. => true | _ => false))).length

/-- `cpy` (R230): the refusals, the read of the expected CRC, a rest while the engine is full, and the fork. -/
def Dev.cpy (d : Dev) (o : OpW) : Dev :=
  d.scalarAct o [] [(o.a, 6)] (fun d x =>
    let r := x.record o.a 6
    let c := cpOf r
    let e := x.guard o
    match d.cpRefuse x.x r with
    | some f => (d, .fault f)
    | none =>
      if d.copies x.x.core ≥ 32 then (d, .rest .other) else
      let p := if c.crc then d.arrRead x e (c.done + 8) 4 else (d, .ok 0)
      match p.2 with
      | .error f => (p.1, .fault f)
      | .ok want =>
        let L := lowest e
        let d := (p.1.clearLines x.g c.lines).fork (x.origin e) c.done
          (.copy r x.w.rngkey L (look 0 x.w.rngctr L) (BitVec.ofNat 32 want) 0)
        let n : Word := BitVec.ofNat 32 (c.width * c.rows)
        (if c.rm = 5 ∧ c.shape = 0 then
          d.modWarp x.g x.wi (fun w => { w with rngctr := put 0 w.rngctr L (look 0 w.rngctr L + n) }) else d, .done))

/-- `cwait` (R231): it rests until bits [62:0] reach b or bit 63 is set; the read that completes it is an acquire read (R189). -/
def Dev.cwait (d : Dev) (o : OpW) : Dev :=
  d.scalarAct o [(o.d, 1)] [(o.a, 1), (o.b, 1)] (fun d x =>
    let ends := fun (v : Nat) => decide (v ≥ 2 ^ 63 ∨ v ≥ (x.sval o o.b).toNat)
    let p := d.arrRead x (x.guard o) (x.sval o o.a).toNat 8 (fun v => if ends v then some 4 else none)
    match p.2 with
    | .error f => (p.1, .fault f)
    | .ok v => if ends v then (p.1.setS x o.d (BitVec.ofNat 64 v), .done) else (p.1, .rest .other))

/-- `cpoll` (R231). -/
def Dev.cpoll (d : Dev) (o : OpW) : Dev :=
  d.scalarAct o [(o.d, 1)] [(o.a, 1)] (fun d x =>
    let p := d.arrRead x (x.guard o) (x.sval o o.a).toNat 8 (fun _ => some 4)
    match p.2 with
    | .error f => (p.1, .fault f)
    | .ok v => (p.1.setS x o.d (BitVec.ofNat 64 v), .done))

/-! ### The meanings -/

def execCpy (f : FWord) (s : State) := s.onDev (·.cpy (fop f))
def execCwait (f : FWord) (s : State) := s.onDev (·.cwait (fop f))
def execCpoll (f : FWord) (s : State) := s.onDev (·.cpoll (fop f))
def execCopyPieceLanded (op : Nat) (s : State) := s.onDev (·.copyPiece op)
def execCombCollectorMove (die : Nat) (s : State) := s.onDev (fun d => (d.collect die).getD d)

end Sys2Proof.Machine
end

