-- ==== Sys2Proof/Machine/Geom.lean ====
section
/-!
DEFINITION. The geometry of the rendering pipeline, on exact values: screen positions (R274), the culls (R275), clipping
(R276), coverage, depth and barycentrics (R278), and the intersections of rays with boxes and triangles (R284, R285).
-/
namespace Sys2Proof.Machine

/-! ### Exact comparisons; a NaN satisfies none -/

def vLt (a b : Val) : Bool := !a.isNan && !b.isNan && a.cmp b == .lt
def vLe (a b : Val) : Bool := !a.isNan && !b.isNan && a.cmp b != .gt
def vSub (a b : Val) : Val := a.add .rne b.negate
def vAdd (a b : Val) : Val := a.add .rne b
def vZero : Val := .fin false 0 1 0
def vHalf : Val := .fin false 1 2 0
/-- |a|. -/
def vAbs : Val → Val
  | .fin _ n d e => .fin false n d e
  | .inf _ => .inf false
  | .nan => .nan
/-- The least and the greatest of some values that are not NaN. -/
def vMin (l : List Val) : Val := l.foldl (fun m v => if vLt v m then v else m) (.inf false)
def vMax (l : List Val) : Val := l.foldl (fun m v => if vLt m v then v else m) (.inf true)
/-- The greatest integer at most a value, kept within ±2^20, and the least one at least it, kept within ±2^200, which no finite
f32 reaches. -/
def vFloor (v : Val) : Int := roundInt .rdn 0 (-2 ^ 20) (2 ^ 20) v
def vCeil (v : Val) : Int := roundInt .rup 0 (-2 ^ 200) (2 ^ 200) v

/-! ### Vertices and screen positions (R274) -/

/-- A screen position: xs, ys and zs in f32. -/
structure Pos where
  x : Word
  y : Word
  z : Word
  deriving DecidableEq, Repr

/-- Half of a size in f32. -/
def halfF (n : Nat) : Word := fMul .rne (i2f .rne 0 n) 0x3F000000
/-- 1.0. -/
def oneF : Word := 0x3F800000

/-- The screen position of a vertex on a target of width w and height h. -/
def Vert.screen (w h : Nat) (v : Vert) : Pos :=
  { x := fMul .rne (fAdd .rne (fDiv .rne v.x v.w) oneF) (halfF w)
    y := fMul .rne (fSub .rne oneF (fDiv .rne v.y v.w)) (halfF h)
    z := fDiv .rne v.z v.w }

/-- Whether a vertex has w > 0. -/
def Vert.front (v : Vert) : Bool := vLt vZero (f32 v.w)
/-- Whether a word is a NaN. -/
def nanW (w : Word) : Bool := (f32 w).isNan
/-- Whether a coordinate of a vertex is a NaN. -/
def Vert.nan (v : Vert) : Bool := nanW v.x || nanW v.y || nanW v.z || nanW v.w

/-- A clip plane: two values of a vertex, the first of them at most the second inside. -/
structure Plane where
  lo : Vert → Val
  hi : Vert → Val

/-- Whether a vertex is inside a plane, whether it is beyond it, and its distance from it. -/
def Plane.holds (p : Plane) (v : Vert) : Bool := vLe (p.lo v) (p.hi v)
def Plane.beyond (p : Plane) (v : Vert) : Bool := vLt (p.hi v) (p.lo v)
def Plane.dist (p : Plane) (v : Vert) : Val := vSub (p.hi v) (p.lo v)

/-- The clip planes in the order of R276. -/
def clipPlanes : List Plane :=
  let x := fun (v : Vert) => f32 v.x
  let y := fun (v : Vert) => f32 v.y
  let z := fun (v : Vert) => f32 v.z
  let w := fun (v : Vert) => f32 v.w
  let below := fun (v : Vert) => (f32 v.w).negate
  [⟨below, x⟩, ⟨x, w⟩, ⟨below, y⟩, ⟨y, w⟩, ⟨fun _ => vZero, z⟩, ⟨z, w⟩]

/-- Whether a vertex is inside: −w ≤ x ≤ w, −w ≤ y ≤ w and 0 ≤ z ≤ w. -/
def Vert.inside (v : Vert) : Bool := clipPlanes.all (·.holds v)

/-! ### The culls (R275) -/

/-- Twice the signed area of three screen positions. -/
def area2 (a b c : Pos) : Val :=
  vSub ((vSub (f32 b.x) (f32 a.x)).mul (vSub (f32 c.y) (f32 a.y))) ((vSub (f32 c.x) (f32 a.x)).mul (vSub (f32 b.y) (f32 a.y)))

/-- A screen bounding box: least and greatest x, least and greatest y. -/
structure BBox where
  x0 : Val
  x1 : Val
  y0 : Val
  y1 : Val
  deriving DecidableEq, Repr

/-- The box of some positions; a position without a number in a direction bounds nothing there (log 18). -/
def bboxOf (ps : List Pos) : BBox :=
  let xs := ps.map (fun p => f32 p.x)
  let ys := ps.map (fun p => f32 p.y)
  ⟨vMin xs, vMax xs, vMin ys, vMax ys⟩

/-- The units of `u` pixels in [0, n) that an interval of coordinates touches. -/
def touched (u n : Nat) (lo hi : Val) : List Nat :=
  (List.range ((n + u - 1) / u)).filter (fun k =>
    decide (vFloor lo < u * (k + 1) ∧ u * k ≤ vFloor hi ∧ vFloor lo < n))

/-- The least zs of some positions; where one of them has none, it exceeds nothing (log 18). -/
def leastZ (ps : List Pos) : Val :=
  let zs := ps.map (fun p => f32 p.z)
  if zs.any Val.isNan then .nan else vMin zs

/-- Whether a triangle is culled by a test of its screen positions: a coordinate is a NaN, or its three vertices are in front and the test
holds of the positions as they come out (R275, log 18). -/
def screenCull (w h : Nat) (vs : List Vert) (test : List Pos → Bool) : Bool :=
  vs.any Vert.nan || (vs.all Vert.front && test (vs.map (·.screen w h)))

def backFace (inv : Bool) (ps : List Pos) : Bool :=
  match ps with
  | [a, b, c] => if inv then vLe vZero (area2 a b c) else vLe (area2 a b c) vZero
  | _ => false

def frustumCull (vs : List Vert) : Bool := vs.any Vert.nan || clipPlanes.any (fun p => vs.all p.beyond)

/-- Whether no pixel centre lies in an interval. -/
def noCentre (lo hi : Val) : Bool :=
  let i := vCeil (vSub lo vHalf)
  !vLt lo (.inf false) || !vLe (vAdd (Val.ofInt i) vHalf) hi

def smallCull (ps : List Pos) : Bool :=
  let b := bboxOf ps
  noCentre b.x0 b.x1 || noCentre b.y0 b.y1

/-! ### Clipping (R276) -/

/-- One component of a new vertex: v_in + s × (v_out − v_in). -/
def lerpF (s : Val) (i o : Word) : Word := toF32 .rne (vAdd (f32 i) (s.mul (vSub (f32 o) (f32 i))))

/-- The vertex where an edge crosses a plane. -/
def crossing (p : Plane) (i o : Vert) : Vert :=
  let s := (p.dist i).div (vSub (p.dist i) (p.dist o))
  ⟨lerpF s i.x o.x, lerpF s i.y o.y, lerpF s i.z o.z, lerpF s i.w o.w⟩

/-- Clip a polygon against one plane, edge by edge from its first vertex (log 18). -/
def clipOne (p : Plane) (vs : List Vert) : List Vert :=
  (List.range vs.length).flatMap (fun k =>
    match vs[k]?, vs[(k + 1) % vs.length]? with
    | some a, some b =>
      let ia := p.holds a
      let ib := p.holds b
      (if ia then [a] else []) ++ (if ia && !ib then [crossing p a b] else if !ia && ib then [crossing p b a] else [])
    | _, _ => [])

/-- The polygon that clipping leaves. -/
def clipAll (vs : List Vert) : List Vert := if vs.all Vert.inside then vs else clipPlanes.foldl (fun vs p => clipOne p vs) vs

/-- The fan of a polygon from its first vertex. -/
def fanOf (vs : List Vert) : List (Vert × Vert × Vert) :=
  match vs with
  | a :: rest => (List.range (rest.length - 1)).filterMap (fun k =>
      match rest[k]?, rest[k + 1]? with
      | some b, some c => some (a, b, c)
      | _, _ => none)
  | [] => []

/-! ### Coverage (R278) -/

/-- The edge function of p and q at a point: A x + B y + C with A = p.y − q.y and B = q.x − p.x. -/
def edgeAt (p q : Pos) (x y : Val) : Val :=
  vSub ((vSub (f32 q.x) (f32 p.x)).mul (vSub y (f32 p.y))) ((vSub (f32 q.y) (f32 p.y)).mul (vSub x (f32 p.x)))

/-- Whether a value is positive once turned by a sign. -/
def posBy (neg : Bool) (v : Val) : Bool := if neg then vLt v vZero else vLt vZero v

/-- Whether an edge, turned so that it is positive inside, covers a centre. -/
def edgeCovers (neg : Bool) (p q : Pos) (x y : Val) : Bool :=
  let e := edgeAt p q x y
  let a := vSub (f32 p.y) (f32 q.y)
  let b := vSub (f32 q.x) (f32 p.x)
  posBy neg e || (e.isZero && (posBy neg a || (a.isZero && posBy neg b)))

/-- Whether a fan triangle covers the centre of a pixel. -/
def triCovers (w h x y : Nat) (t : Vert × Vert × Vert) : Bool :=
  let a := t.1.screen w h
  let b := t.2.1.screen w h
  let c := t.2.2.screen w h
  let cx := vAdd (Val.ofInt x) vHalf
  let cy := vAdd (Val.ofInt y) vHalf
  let e := area2 a b c
  let neg := vLt e vZero
  (neg || vLt vZero e) && edgeCovers neg a b cx cy && edgeCovers neg b c cx cy && edgeCovers neg c a cx cy

/-- The depth and the barycentrics b1 and b2 at a pixel's centre, from the original triangle's clip-space plane. -/
def planeAt (w h x y : Nat) (vs : List Vert) : Word × Word × Word :=
  let X := vSub ((Val.ofInt (2 * x + 1)).div (Val.ofInt w)) (Val.ofInt 1)
  let Y := vSub (Val.ofInt 1) ((Val.ofInt (2 * y + 1)).div (Val.ofInt h))
  let v := fun k => vs.getD k ⟨0, 0, 0, 0⟩
  let f := fun k => vSub (f32 (v k).x) (X.mul (f32 (v k).w))
  let g := fun k => vSub (f32 (v k).y) (Y.mul (f32 (v k).w))
  let c := fun i j => vSub ((f i).mul (g j)) ((f j).mul (g i))
  let b0 := c 1 2
  let b1 := c 2 0
  let b2 := c 0 1
  let sum := vAdd (vAdd b0 b1) b2
  let dot := fun (p : Vert → Word) => vAdd (vAdd (b0.mul (f32 (p (v 0)))) (b1.mul (f32 (p (v 1))))) (b2.mul (f32 (p (v 2))))
  (toF32 .rne ((dot (·.z)).div (dot (·.w))), toF32 .rne (b1.div sum), toF32 .rne (b2.div sum))

/-! ### Rays (R284, R285) -/

/-- The next f32 below and above; infinities and NaNs unchanged. -/
def nextBelow (a : Word) : Word :=
  match f32 a with
  | .fin neg n _ _ => if n = 0 then 0x80000001 else if neg then a + 1 else a - 1
  | _ => a
def nextAbove (a : Word) : Word :=
  match f32 a with
  | .fin neg n _ _ => if n = 0 then 0x00000001 else if neg then a - 1 else a + 1
  | _ => a

/-- The keys that a time uses among k, k above 1: the lower one, and the fraction f. -/
def keyAt (t : Word) (k : Nat) : Nat × Word :=
  let t := if vLt vZero (f32 t) then (if vLt (f32 oneF) (f32 t) then oneF else t) else 0
  let s := fMul .rne t (i2f .rne 0 (k - 1 : Nat))
  let i := Nat.min (vFloor (f32 s)).toNat (k - 2)
  (i, fSub .rne s (i2f .rne 0 (i : Nat)))

/-- A value interpolated between two keys. -/
def lerpKey (f a b : Word) : Word := fFma .rne f (fSub .rne b a) a

/-- A ray: origin, direction, tmin, tmax and t. -/
structure Ray where
  o : Word × Word × Word
  d : Word × Word × Word
  tmin : Word
  tmax : Word
  t : Word
  deriving DecidableEq, Repr

/-- The interval of a ray as it is cut by the axes: lo, hi, and whether it has missed or a NaN was formed. -/
structure Slab where
  lo : Word
  hi : Word
  miss : Bool
  deriving DecidableEq, Repr

/-- f32 comparisons; a NaN satisfies none. -/
def fLt (a b : Word) : Bool := vLt (f32 a) (f32 b)
def fLe (a b : Word) : Bool := vLe (f32 a) (f32 b)

/-- Cut an interval by one axis (R285). -/
def Slab.axis (s : Slab) (o d lo hi : Word) : Slab :=
  if (f32 d).isZero then { s with miss := s.miss || fLt o lo || fLt hi o } else
  let inv := fDiv .rne oneF d
  let t1 := fMul .rne (fSub .rne lo o) inv
  let t2 := fMul .rne (fSub .rne hi o) inv
  let l := fMax s.lo (fMin t1 t2)
  let h := fMin s.hi (fMax t1 t2)
  ⟨l, h, s.miss || nanW inv || nanW t1 || nanW t2 || nanW l || nanW h⟩

/-- A box as xmin, ymin, zmin, xmax, ymax and zmax: whether the ray hits it, and its entry e. -/
def rayBox (r : Ray) (b : List Word) : Bool × Word :=
  let g := fun k => b.getD k 0
  let s : Slab := ⟨r.tmin, r.tmax, nanW r.tmin || nanW r.tmax⟩
  let s := ((s.axis r.o.1 r.d.1 (g 0) (g 3)).axis r.o.2.1 r.d.2.1 (g 1) (g 4)).axis r.o.2.2 r.d.2.2 (g 2) (g 5)
  (!s.miss && fLe s.lo s.hi, s.lo)

/-- The hits in ascending e, ties to the lower index. -/
def orderHits (hits : List (Nat × Word)) : List (Nat × Word) :=
  hits.foldl (fun l h => (l.takeWhile (fun x => fLe x.2 h.2)) ++ h :: (l.dropWhile (fun x => fLe x.2 h.2))) []

/-- The results of `isectb` from the boxes of the children. -/
def boxResult (r : Ray) (boxes : List (List Word)) : Word × Word :=
  let rs := boxes.map (rayBox r)
  let at_ := fun k => rs.getD k (false, 0)
  let hits := orderHits (((List.range 4).filter (fun k => (at_ k).1)).map (fun k => (k, (at_ k).2)))
  let order := hits.map (·.1) ++ (List.range 4).filter (fun k => !(at_ k).1)
  let mask := ((List.range 4).filter (fun k => (at_ k).1)).foldl (fun m k => m + 2 ^ k) 0
  let fields := ((List.range 4).map (fun k => order.getD k 0 * 2 ^ (8 + 2 * k))).foldl (· + ·) 0
  (BitVec.ofNat 32 (mask + fields), match hits with
    | h :: _ => h.2
    | [] => 0x7F800000)

/-- Vectors of f32. -/
abbrev V3 := Word × Word × Word
def v3Sub (p q : V3) : V3 := (fSub .rne p.1 q.1, fSub .rne p.2.1 q.2.1, fSub .rne p.2.2 q.2.2)
def v3Dot (p q : V3) : Word :=
  fAdd .rne (fAdd .rne (fMul .rne p.1 q.1) (fMul .rne p.2.1 q.2.1)) (fMul .rne p.2.2 q.2.2)
def v3Cross (p q : V3) : V3 :=
  let m := fun a b c d => fSub .rne (fMul .rne a b) (fMul .rne c d)
  (m p.2.1 q.2.2 p.2.2 q.2.1, m p.2.2 q.1 p.1 q.2.2, m p.1 q.2.1 p.2.1 q.1)

/-- The results of `isectt` from the vertices of the triangle. -/
def triResult (r : Ray) (v0 v1 v2 : V3) : Word × Word × Word :=
  let e1 := v3Sub v1 v0
  let e2 := v3Sub v2 v0
  let pv := v3Cross r.d e2
  let det := v3Dot e1 pv
  let tv := v3Sub r.o v0
  let qv := v3Cross tv e1
  let u := fDiv .rne (v3Dot tv pv) det
  let w := fDiv .rne (v3Dot r.d qv) det
  let th := fDiv .rne (v3Dot e2 qv) det
  let hit := !(f32 det).isZero && !nanW det && fLe 0 u && fLe 0 w && fLe (fAdd .rne u w) oneF && fLe r.tmin th && fLe th r.tmax
  if hit then (th, u, w) else (0x7F800000, 0, 0)

end Sys2Proof.Machine
end

