-- ==== Sys2Proof/Machine/Place.lean ====
section
/-!
DEFINITION. The placement of a group on a core (R199, R312 to R318): the clusters open to a queue, the resources that groups hold, the quadrants of warps, and the
state at a thread's first instruction (R34, R69, R150, R236).
-/
namespace Sys2Proof.Machine

/-- A queue, its class, its pre-emption request, and whether it is revocable (R194, R313). -/
def Dev.queue (d : Dev) (q : Nat) : Queue := look Queue.init d.queues q
def Queue.cls (x : Queue) : Nat := bits x.ctl.toNat 4 2
def Queue.preq (x : Queue) : Bool := x.ctl.getLsbD 7
def Queue.revocable (x : Queue) : Bool := x.rev.getLsbD 0

/-- Whether a cluster is in partition n's guaranteed set or margin, in the live layout and in the one that the cluster
runs under: a cluster taken away takes no new group at once, one given joins at its boundary (R318). -/
def Dev.owned (d : Dev) (c n : Nat) : Bool :=
  let has := fun (p : Part) => p.gnt.getLsbD c || p.mrg.getLsbD c
  has (look ⟨0, 0⟩ d.parts n) && has (d.partAt c n)

/-- A cluster's state. -/
def Dev.clu (d : Dev) (c : Nat) : Clu := look Clu.init d.clus c
def Dev.modClu (d : Dev) (c : Nat) (f : Clu → Clu) : Dev := { d with clus := put Clu.init d.clus c (f (d.clu c)) }

/-- Whether a queue's groups may be placed on a cluster now. -/
def Dev.open? (d : Dev) (q c : Nat) : Bool :=
  let x := d.queue q
  let k := d.clu c
  let n := d.ptn x.vf
  k.target.isNone && k.revoke.isNone && (match k.borrower with
    | some y => y == n && x.revocable
    | none => d.owned c n && (k.resident.isNone || k.resident == some x.vf))

/-- A cluster without a resident function takes that of the first group placed on it (R314). -/
def Dev.settleOn (d : Dev) (c f : Nat) : Dev :=
  if (d.clu c).resident.isNone && (d.clu c).borrower.isNone then d.modClu c (fun k => { k with resident := some f }) else d

/-- The scratchpad granules of a record. -/
def LaunchRec.granules (r : LaunchRec) : Nat := bits r.d3.toNat 0 9
/-- The core mask of a record: bit 8c + r. -/
def LaunchRec.coreMask (r : LaunchRec) : Nat := bits r.d3.toNat 32 32 + r.d4.toNat * 2 ^ 32
/-- The kernel entry and the argument block. -/
def LaunchRec.entry (r : LaunchRec) : Addr := r.d0.setWidth 56
def LaunchRec.args (r : LaunchRec) : DWord := (r.d1.setWidth 56).setWidth 64

/-- The groups that hold something on a core; those freed of their warp slots hold only what their tracker entry
keeps (R90). -/
def Dev.groupsOn (d : Dev) (core : Nat) : List Group := d.groups.filter (·.core == core)
/-- The warp slots in use in a quadrant of a core. -/
def Dev.quadUsed (d : Dev) (core q : Nat) : Nat :=
  (((d.groupsOn core).filter (!·.freed)).map (fun x => (x.warps.filter (·.quad == q)).length)).foldl (· + ·) 0
/-- The sum of a resource over groups. -/
def sumOver (f : Group → Nat) (xs : List Group) : Nat := (xs.map f).foldl (· + ·) 0

/-- Whether a group of a record fits on a core now (R199). -/
def Dev.fits (d : Dev) (r : LaunchRec) (core : Nat) : Bool :=
  let all := d.groupsOn core
  let whole := all.filter (!·.freed)
  decide (sumOver (·.warps.length) whole + r.nwarps ≤ 48 ∧ whole.length < 32
    ∧ sumOver (·.lr.granules) all + r.granules ≤ 384 ∧ sumOver (·.lr.acc) all + r.acc ≤ 16)

/-- Whether a record's resources exceed an empty core (R199). -/
def LaunchRec.tooBig (r : LaunchRec) : Bool := decide (r.nwarps > 48 ∨ r.granules > 384 ∨ r.acc > 16)

/-- The quadrant with the fewest slots in use, a tie going to the lower. -/
def leastQuad (used : List Nat) : Nat := (leastBy (fun q => used.getD q 0) (List.range 4)).getD 0

/-- The quadrants of `n` warps given out one at a time. -/
def quadsFor : Nat → List Nat → List Nat
  | 0, _ => []
  | n + 1, used => let q := leastQuad used; q :: quadsFor n (used.modify q (· + 1))

/-- The quadrants that the warps of a group get on a core. -/
def Dev.quads (d : Dev) (core n : Nat) : List Nat := quadsFor n ((List.range 4).map (d.quadUsed core))

/-- The populated lanes of warp `wi` of `t` threads. -/
def populated (t wi : Nat) : LaneSet := setOf ((List.range 32).filter (fun L => decide (32 * wi + L < t)))

/-- A group of a record as it is placed on a core: `id` is its identity, and its warps age from there. -/
def Dev.newGroup (d : Dev) (id queue grid gid vf core : Nat) (r : LaunchRec) : Group :=
  { id := id, queue := queue, grid := grid, gid := gid, lr := r, vf := vf, die := core / 96, cl := core / 8 % 12, row := core % 8,
    warps := ((List.range r.nwarps).zip (d.quads core r.nwarps)).map (fun p =>
      Warp.entry (populated r.threads p.1) r.entry r.args p.2 (id + p.1) (((d.grid? grid).map (·.know)).getD [])),
    scratch := [], lines := [], tiles := [], holds := [], tileKnow := [], gens := [], pools := [], pre := PreReq.no, preAt := 0, saving := none, tracker := false,
    tailed := false, freed := false, pixel := none, started := d.now, ended := none,
    discarded := false, stall := none }

/-- Add a group; identities go on above those of its warps. -/
def Dev.addGroup (d : Dev) (x : Group) : Dev := { d with groups := d.groups ++ [x], nextId := x.id + x.warps.length + 1 }

end Sys2Proof.Machine
end

