-- ==== Sys2Proof/Machine/Jobs.lean ====
section
/-!
DEFINITION. Job cards (R226 to R228) and collectives (R109, R232), with `cjob` and `coll` (R229, R230).
-/
namespace Sys2Proof.Machine

/-! ### Back-reference streams (R227) -/

/-- A token of a stream: the count of bytes produced before it, and its bytes. -/
structure Tok where
  o : Nat
  bytes : List Byte
  deriving DecidableEq, Repr

/-- The bytes of a match, copied byte by byte. -/
def matchBytes (out : List Byte) (off : Nat) : Nat → List Byte
  | 0 => []
  | n + 1 => let b := out.getD (out.length - off) 0; b :: matchBytes (out ++ [b]) off n

/-- How decoding ends: at the end of the stream, at a stream error (0x0ED) in the token at an offset, or for want of a
byte of the stream that cannot be read. -/
inductive StreamEnd where
  | ok | bad (at_ : Nat) | unread
  deriving DecidableEq, Repr

/-- Decode from position `pos`, where `rest` is what has been read of a stream of `slen` bytes; `fuel` bounds the tokens. -/
def decodeFrom (slen cap : Nat) : Nat → Nat → List Byte → List Byte → List Tok × StreamEnd
  | 0, _, _, _ => ([], .ok)
  | fuel + 1, pos, rest, out =>
    if pos ≥ slen then ([], .ok) else
    match rest with
    | [] => ([], .unread)
    | c :: rest =>
      let o := out.length
      let lit := decide (c.toNat < 128)
      let arg := if lit then c.toNat + 1 else 2
      if pos + 1 + arg > slen then ([], .bad pos)
      else if rest.length < arg then ([], .unread)
      else
        let off := ofBytes (rest.take 2)
        let n := if lit then c.toNat + 1 else c.toNat % 128 + 3
        if (!lit && (off == 0 || decide (off > o))) || decide (o + n > cap) then ([], .bad pos)
        else
          let bs := if lit then rest.take n else matchBytes out off n
          let r := decodeFrom slen cap fuel (pos + 1 + arg) (rest.drop arg) (out ++ bs)
          (⟨o, bs⟩ :: r.1, r.2)

/-! ### Job cards (R226, R228) -/

/-- The fields of a card. -/
structure Card where
  src : Nat
  slen : Nat
  dst : Nat
  space : Nat
  cap : Nat
  done : Nat
  olen : Nat
  addr : Nat
  bad : Bool
  deriving DecidableEq, Repr

/-- The fields of a card's eight dwords and its address. -/
def cardOf (r : List DWord) : Card :=
  let w := recW r
  { src := bits (w 0) 0 56, slen := bits (w 1) 0 32, dst := bits (w 2) 0 56, space := bits (w 2) 56 2, cap := bits (w 3) 0 32,
    done := bits (w 4) 3 53 * 8, olen := bits (w 5) 3 53 * 8, addr := w 8,
    bad := bits (w 0) 56 8 != 0 || bits (w 1) 32 32 != 0 || bits (w 2) 58 6 != 0 || bits (w 3) 32 32 != 0 || bits (w 4) 0 3 != 0
      || bits (w 4) 56 8 != 0 || bits (w 5) 0 3 != 0 || bits (w 5) 56 8 != 0 || w 6 != 0 || w 7 != 0 || bits (w 1) 0 32 == 0
      || bits (w 2) 56 2 == 3 }

/-- The lines that a card clears at issue: those of [dst, dst + cap) in the group's window. -/
def Card.lines (c : Card) (window : Nat) : List Nat :=
  if c.space = 1 then linesOf [(c.dst, Nat.min (c.dst + c.cap) window - c.dst)] else []

/-- The window of an origin's group. -/
def Dev.windowOf (d : Dev) (g : Nat) : Nat := ((d.group? g).map (·.lr.window)).getD 0

/-- The lines of a card that have not landed. -/
def Dev.cardLeft (d : Dev) (g : Nat) (c : Card) (landed : Nat) : List Nat :=
  (c.lines (d.windowOf g)).filter (fun l => decide (128 * (l + 1) > c.dst + landed))

/-- As much of a stream as can be read, and what stops the rest. -/
def Dev.readStream (d : Dev) (o : Origin) (a n : Nat) : Dev × List Byte × Option EFault :=
  (chunks a n).foldl (fun r c => match r.2.2 with
    | some _ => r
    | none =>
      let p := r.1.eread o c.1 c.2
      match p.2 with
      | .ok bs => (p.1, r.2.1 ++ bs, none)
      | .error e => (p.1, r.2.1, some e)) (d, [], none)

/-- What a card produces: its tokens, how its stream ends and what could not be read. -/
def Dev.cardOut (d : Dev) (o : Origin) (c : Card) : Dev × List Tok × StreamEnd × Option EFault :=
  let p := d.readStream o c.src c.slen
  let r := decodeFrom c.slen c.cap (c.slen + 1) 0 p.2.1 []
  (p.1, r.1, r.2, p.2.2)

/-- The bytes that tokens produce. -/
def tokBytes (ts : List Tok) : List Byte := ts.flatMap (·.bytes)

/-- Write a card's bytes from `lo` on at its destination. -/
def Dev.cardWrite (d : Dev) (o : Origin) (c : Card) (lo : Nat) (bs : List Byte) : Er Unit :=
  if c.space = 1 ∧ c.dst + lo + bs.length > d.windowOf o.g then (d, .error (.mem 0x085 (Nat.max (c.dst + lo) (d.windowOf o.g))))
  else if bs = [] then (d, .ok ())
  else Er.each (fun d _ r => d.eswrite o 2 c.space r.1 r.2)
    (runsOf ((List.range bs.length).map (fun k => (c.dst + lo + k, bs.getD k 0)))) d ()

/-- The requests of a card's accesses that have not been counted: the destination from `lo` on, and the stream once. -/
def Dev.cardCount (d : Dev) (o : Origin) (c : Card) (lo n : Nat) : Dev :=
  (if lo = 0 then d.ecount o 0 [(c.src, c.slen)] else d).ecount o c.space [(c.dst + lo, n)]

/-- JOB_CARD_OUTPUT_LANDED: the next tokens land, each whole, to the end of the first line or beyond it; a line that they
complete becomes present (R228, R382). -/
def Dev.cardLand (d : Dev) (id : Nat) : Dev :=
  match d.op? id with
  | none => d
  | some op => match op.kind, op.stall with
    | .card r landed, none =>
      let c := cardOf r
      let p := d.cardOut op.src c
      let bs := tokBytes p.2.1
      let upTo := ((c.dst + landed) / 128 + 1) * 128 - c.dst
      let last := ((p.2.1.map (fun t => t.o + t.bytes.length)).find? (fun n => decide (upTo ≤ n))).getD bs.length
      if c.bad || decide (last ≤ landed) then d else
      let w := p.1.cardWrite op.src c landed ((bs.drop landed).take (last - landed))
      match w.2 with
      | .ok _ =>
        let full := (d.cardLeft op.src.g c landed).filter (fun l => decide (128 * (l + 1) ≤ c.dst + last))
        ((w.1.cardCount op.src c landed (last - landed)).landLines op.src.g (w.1.thrOf op.src) full).modOp id (fun o => { o with kind := .card r last })
      | .error _ => d
    | _, _ => d

/-- A card fails: bytes below the failing token are old or new, each by itself, and its output length is the count before that token, if it
is known (R379, R382); the stream that it has read is counted (R401). -/
def Dev.cardFail (d : Dev) (op : Op) (c : Card) (landed : Nat) (ts : List Tok) (o : Option Nat) (code : Cause) (d5 d6 : Nat)
    (unres : Bool) : Dev :=
  let below := (tokBytes ts).take (o.getD 0)
  let d := if landed = 0 then d.ecount op.src 0 [(c.src, (d.readStream op.src c.src c.slen).2.1.length)] else d
  let d := d.maybeBytes op.src 2 c.space (((List.range below.length).map (fun k => (c.dst + k, below.getD k 0))).drop landed)
  d.failOp op 2 code d5 d6 unres 1 (d.cardLeft op.src.g c landed) 0x0E5 (if c.olen = 0 then none else o.map (fun n => (c.olen, n)))

/-- The count before the token that writes an address. -/
def tokBefore (ts : List Tok) (k : Nat) : Nat := ((ts.filter (fun t => decide (t.o ≤ k))).map (·.o)).foldl Nat.max 0

/-- JOB_CARD_DONE (R227, R228, R381, R382). -/
def Dev.cardDone (d : Dev) (id : Nat) : Dev :=
  match d.op? id with
  | none => d
  | some op => match op.kind, op.stall with
    | .card r landed, none =>
      let c := cardOf r
      let o := op.src
      if c.bad then d.failOp op 2 0x0E9 0 c.addr false 1 (d.cardLeft o.g c landed) else
      let p := d.cardOut o c
      let d1 := p.1
      let bs := tokBytes p.2.1
      let stop := fun (d1 : Dev) (e : EFault) (n : Nat) => match engineStop e with
        | (true, k, d5, d6) => d1.stallOp op k d5 d6
        | (false, k, d5, d6) => d1.cardFail op c landed p.2.1 (some n) k d5 d6 false
      match p.2.2.1, p.2.2.2 with
      | .bad at_, _ => d1.cardFail op c landed p.2.1 (some bs.length) 0x0ED at_ bs.length false
      | .unread, some e => stop d1 e bs.length
      | _, _ =>
        let w := d1.cardWrite o c landed (bs.drop landed)
        match w.2 with
        | .error e => stop d1 e (tokBefore p.2.1 ((match e with | .mem _ a => a | .own .. => 0) - c.dst))
        | .ok _ =>
          let w := (w.1.writeLen o 2 (if c.olen = 0 then none else some (c.olen, bs.length))).andThen (fun d _ =>
            (d.cardCount o c landed (bs.length - landed)).arrival o 2 op.done 1 false)
          match w.2 with
          | .error e => stop d1 e bs.length
          | .ok _ => (w.1.landLines o.g (w.1.thrOf o) (w.1.cardLeft o.g c landed)).dropOp id
    | _, _ => d

/-- The cards outstanding on a die, of 256. -/
def Dev.cards (d : Dev) (die : Nat) : Nat :=
  (d.ops.filter (fun o => o.src.die == die && (match o.kind with | .card .. => true | _ => false))).length

/-- `cjob` (R226, R230). -/
def Dev.cjob (d : Dev) (o : OpW) : Dev :=
  d.scalarAct o [] [(o.a, 1)] (fun d x =>
    let a := (x.sval o o.a).toNat
    if a % 64 ≠ 0 then (d, .fault ⟨0x0E2, 0, a⟩)
    else if d.cards x.x.die ≥ 256 then (d, .rest .other)
    else
      let p := d.arrRead x (x.guard o) a 64
      match p.2 with
      | .error f => (p.1, .fault f)
      | .ok v =>
        let r := (List.range 8).map (fun k => (BitVec.ofNat 64 (v / 2 ^ (64 * k)) : DWord)) ++ [BitVec.ofNat 64 a]
        let c := cardOf r
        ((p.1.clearLines x.g (c.lines x.x.lr.window)).fork (x.origin (x.guard o)) c.done (.card r 0), .done))

/-! ### Collectives (R109, R232) -/

/-- The canonical tree over ranks lo to lo + 2^k - 1 of n (R109). -/
def collTree (n : Nat) (f : DWord → DWord → DWord) (x : Nat → DWord) : Nat → Nat → DWord
  | 0, lo => x lo
  | k + 1, lo =>
    if lo + 2 ^ k ≥ n then collTree n f x k lo else f (collTree n f x k lo) (collTree n f x k (lo + 2 ^ k))

/-- The combining operation of a collective: 0 add, 1 min, 2 max. -/
def collOp (op : Nat) (t : Ty) (a b : DWord) : DWord :=
  if t == .bf16 then
    let up := fun (x : DWord) => (x.setWidth 32 <<< 16 : Word)
    if op = 0 then BitVec.ofNat 64 (fmtBf16.round .rne 0 ((fmtBf16.decode a.toNat).add .rne (fmtBf16.decode b.toNat)))
    else (((if op = 1 then fMin else fMax) (up a) (up b)) >>> 16).setWidth 64
  else combine op t a b

/-- The fields of a collective record. -/
structure Coll where
  src : Nat
  dst : Nat
  count : Nat
  done : Nat
  grp : Nat
  bad : Bool
  deriving DecidableEq, Repr

def collOf (r : List DWord) : Coll :=
  let w := recW r
  { src := bits (w 0) 0 56, dst := bits (w 1) 0 56, count := bits (w 2) 0 32, done := bits (w 3) 3 53 * 8,
    grp := bits (w 4) 6 50 * 64,
    bad := bits (w 0) 56 8 != 0 || bits (w 1) 56 8 != 0 || bits (w 2) 32 32 != 0 || bits (w 3) 0 3 != 0 || bits (w 3) 56 8 != 0
      || bits (w 4) 0 6 != 0 || bits (w 4) 56 8 != 0 }

/-- The collectives outstanding on a die, of 16. -/
def Dev.colls (d : Dev) (die : Nat) : Nat :=
  (d.ops.filter (fun o => o.src.die == die && (match o.kind with | .coll .. => true | _ => false))).length

/-- `coll` (R232). -/
def Dev.coll (d : Dev) (o : OpW) : Dev :=
  d.scalarAct o [] [(o.a, 5)] (fun d x =>
    let r := x.record o.a 5
    if (collOf r).bad then (d, .fault ⟨0x0E0, 0, 0⟩)
    else if d.colls x.x.die ≥ 16 then (d, .rest .other)
    else (d.fork (x.origin (x.guard o)) (collOf r).done (.coll r (o.sub % 4) (o.sub / 4) o.ty none), .done))

/-- A group descriptor: own rank and the node and die of each rank. -/
structure Descr where
  own : Nat
  ranks : List (Nat × Nat)
  deriving DecidableEq, Repr

/-- Read a collective's group descriptor; one that breaks R232 fails with 0x0EE. -/
def Dev.descr (d : Dev) (o : Origin) (grp : Nat) : Er Descr :=
  (d.eread o grp 8).andThen (fun d h =>
    let n := ofBytes (h.take 4)
    let own := ofBytes (h.drop 4)
    if n = 0 ∨ n > 1024 ∨ own ≥ n then (d, .error (.own 0x0EE own 0)) else
    (d.eread o (grp + 8) (8 * n)).andThen (fun d bs =>
      let es := (List.range n).map (fun r => ofBytes ((bs.drop (8 * r)).take 8))
      if es.any (fun e => e / 2 ^ 10 != 0) then (d, .error (.own 0x0EE own 0)) else
      (d, .ok ⟨own, es.map (fun e => (bits e 0 8, bits e 8 2))⟩)))

/-- Whether a node number names this package. -/
def Cfg.isLocal (c : Cfg) (node : Nat) : Bool := node == 0 || node == c.node

/-- Whether a rank can be reached from a die. -/
def Dev.reaches (d : Dev) (die : Nat) (rk : Nat × Nat) : Bool :=
  if d.cfg.isLocal rk.1 then (d.unreached die (.ram rk.2)).isNone else !d.downNode.contains rk.1

/-- The descriptor of an outstanding collective that has not met its peers, as it stands. -/
def Dev.descrOf (d : Dev) (op : Op) : Option Descr :=
  match op.kind with
  | .coll r _ _ _ none => (d.descr op.src (collOf r).grp).2.toOption
  | _ => none

/-- The oldest collective of a function on a die that issues rank r, has not met its peers and whose ranks are `ranks`: how
the ranks of a collective find each other is not the spec's (DESIGN CHOICE, log 8). -/
def Dev.peer (d : Dev) (vf : Nat) (ranks : List (Nat × Nat)) (r : Nat) (rk : Nat × Nat) : Option Op :=
  d.ops.find? (fun o => o.src.vf == vf && o.src.die == rk.2 && (match d.descrOf o with
    | some y => y.own == r && y.ranks == ranks
    | none => false))

/-- The oldest collective of a function on a die that issues rank r under a descriptor with other ranks. -/
def Dev.rival (d : Dev) (vf : Nat) (ranks : List (Nat × Nat)) (r : Nat) (rk : Nat × Nat) : Option Op :=
  d.ops.find? (fun o => o.src.vf == vf && o.src.die == rk.2 && (match d.descrOf o with
    | some y => y.own == r && y.ranks != ranks
    | none => false))

/-- Whether an operation is the oldest of its rank: the ranks' collectives meet in the order in which each rank issued them (R232, log 8). -/
def Dev.isOldest (d : Dev) (op : Op) (x : Descr) : Bool :=
  match d.peer op.src.vf x.ranks x.own (x.ranks.getD x.own (0, 0)) with
  | some q => q.id == op.id
  | none => true

/-- Whether two ranks with one descriptor agree in kind, op, type and count (R232). -/
def Op.agree (a b : Op) : Bool :=
  match a.kind, b.kind with
  | .coll r k p t _, .coll r' k' p' t' _ => k == k' && p == p' && t == t' && (collOf r).count == (collOf r').count
  | _, _ => false

/-- `n` free bytes: what a rank of another package contributes. -/
def Dev.freeBytes : Nat → Dev → Dev × List Byte
  | 0, d => (d, [])
  | n + 1, d => let p := Dev.freeBytes n d.fresh.1; (p.1, BitVec.ofNat 8 d.fresh.2 :: p.2)

/-- The source bytes of every rank, in rank order. -/
def Dev.gatherRanks (d : Dev) (vf bytes : Nat) (x : Descr) : Er (List (List Byte)) :=
  Er.each (fun d l r =>
    let rk := x.ranks.getD r (0, 0)
    if !d.cfg.isLocal rk.1 then (let p := Dev.freeBytes bytes d; (p.1, .ok (l ++ [p.2]))) else
    match d.peer vf x.ranks r rk with
    | none => (d, .ok (l ++ [[]]))
    | some op => match op.kind with
      | .coll rc _ _ _ _ => (d.eread op.src (collOf rc).src bytes).andThen (fun d bs => (d, .ok (l ++ [bs])))
      | _ => (d, .ok (l ++ [[]]))) (List.range x.ranks.length) d []

/-- What rank `own` of n receives (R232). -/
def collResult (kind op : Nat) (t : Ty) (count n own : Nat) (srcs : List (List Byte)) : List Byte :=
  let w := t.width / 8
  let elt := fun r i => (BitVec.ofNat 64 (ofBytes (((srcs.getD r []).drop (i * w)).take w)) : DWord)
  let sum := fun i => toBytes w (collTree n (collOp op t) (fun r => elt r i) 10 0).toNat
  match kind with
  | 0 => (List.range count).flatMap sum
  | 1 => (List.range (count / n)).flatMap (fun i => sum (own * (count / n) + i))
  | _ => srcs.flatten

/-- Set what the ranks of a collective that have met receive. -/
def Dev.meet (d : Dev) (vf kind op : Nat) (t : Ty) (count : Nat) (x : Descr) (srcs : List (List Byte)) : Dev :=
  let n := x.ranks.length
  let ids := (List.range n).filterMap (fun r =>
    let rk := x.ranks.getD r (0, 0)
    if d.cfg.isLocal rk.1 then (d.peer vf x.ranks r rk).map (fun o => (o, r)) else none)
  ids.foldl (fun d p => (match p.1.kind with
    | .coll r _ _ _ _ => d.ecount p.1.src 0 [((collOf r).grp, 8 + 8 * n)]
    | _ => d).modOp p.1.id (fun o => match o.kind with
    | .coll r k q t' _ => { o with kind := .coll r k q t' (some (collResult kind op t count n p.2 srcs)) }
    | _ => o)) d

/-- The ranks meet in the oldest collective of each, when every rank can be reached and every rank of this package has issued its part. Where a rank has issued
it only under another descriptor, they differ (0x0EE), or it belongs to another group and they wait: a free choice (log 8). -/
def Dev.collMeet (d : Dev) (op : Op) (r : List DWord) (kind cop : Nat) (t : Ty) : Er Bool :=
  (d.descr op.src (collOf r).grp).andThen (fun d x =>
    let n := x.ranks.length
    let count := (collOf r).count
    if !d.isOldest op x then (d, .ok false) else
    if kind = 1 ∧ count % n ≠ 0 then (d, .error (.own 0x0EE x.own 0)) else
    let rs := (List.range n).zip x.ranks
    if rs.any (fun p => !d.reaches op.src.die p.2) then (d, .ok false) else
    let locals := rs.filter (fun p => d.cfg.isLocal p.2.1)
    let vf := op.src.vf
    let here := fun (p : Nat × Nat × Nat) => (d.peer vf x.ranks p.1 p.2).isSome
    match locals.find? (fun p => !here p) with
    | some p =>
      if !locals.all (fun p => here p || (d.rival vf x.ranks p.1 p.2).isSome) then (d, .ok false) else
      let b := d.freeBit
      (b.1, if b.2 then .error (.own 0x0EE p.1 0) else .ok false)
    | none =>
    match locals.find? (fun p => match d.peer vf x.ranks p.1 p.2 with
        | some q => !op.agree q
        | none => false) with
    | some p => (d, .error (.own 0x0EE p.1 0))
    | none => (d.gatherRanks op.src.vf (count * (t.width / 8)) x).andThen (fun d srcs =>
        (d.meet op.src.vf kind cop t count x srcs, .ok true)))

/-- The other operations of this package that would meet one in its collective. -/
def Dev.fellows (d : Dev) (op : Op) (r : List DWord) : List Op :=
  match (d.descr op.src (collOf r).grp).2 with
  | .ok x => if !d.isOldest op x then [] else ((List.range x.ranks.length).filterMap (fun k =>
      let rk := x.ranks.getD k (0, 0)
      if d.cfg.isLocal rk.1 then d.peer op.src.vf x.ranks k rk else none)).filter (fun o => o.id != op.id)
  | .error _ => []

/-- A collective fails, and before its ranks have met so does every rank of this package that would have met it: what it
would write is not known, or is old or new byte by byte (R379, R382). -/
def Dev.failColl (d : Dev) (op : Op) (r : List DWord) (got : Option (List Byte)) (c : Cause) (d5 d6 : Nat) (unres : Bool) : Dev :=
  let bs := got.getD []
  let others := if got.isNone then d.fellows op r else []
  let d := (d.maybeBytes op.src 2 0 ((List.range bs.length).map (fun k => ((collOf r).dst + k, bs.getD k 0)))).failOp op 2 c d5 d6 unres 1 []
  others.foldl (fun d o => d.failOp o 2 c d5 d6 unres 1 []) d

/-- Write a rank's destination and add its arrival. -/
def Dev.collWrite (d : Dev) (op : Op) (r : List DWord) (bytes : Nat) (got : List Byte) : Er Unit :=
  let c := collOf r
  (d.ewrite op.src 2 c.dst got).andThen (fun d _ =>
    ((d.ecount op.src 0 [(c.src, bytes)]).ecount op.src 0 [(c.dst, got.length)]).arrival op.src 2 op.done 1 false)

/-- COLLECTIVE_DONE (R232). -/
def Dev.collDone (d : Dev) (id : Nat) : Dev :=
  let stop := fun (d1 : Dev) (op : Op) r got e => match engineStop e with
    | (true, k, d5, d6) => d1.stallOp op k d5 d6
    | (false, k, d5, d6) => d1.failColl op r got k d5 d6 false
  let run := fun (d : Dev) => match d.op? id with
    | some op => match op.kind, op.stall with
      | .coll r _ _ t (some got), none =>
        let w := d.collWrite op r ((collOf r).count * (t.width / 8)) got
        (match w.2 with
        | .ok _ => w.1.dropOp id
        | .error e => stop d op r (some got) e)
      | _, _ => d
    | none => d
  match d.op? id with
  | none => d
  | some op => match op.kind, op.stall with
    | .coll r kind cop t none, none =>
      let m := d.collMeet op r kind cop t
      (match m.2 with
      | .ok true => run m.1
      | .ok false => m.1
      | .error e => stop m.1 op r none e)
    | _, _ => run d

/-- COLLECTIVE_RANK_TIMEOUT: a rank that is not reached within 1 ms, 1.7 × 10^6 cycles (0x0EF). -/
def Dev.collTimeout (d : Dev) (id rank : Nat) : Dev :=
  match d.op? id with
  | none => d
  | some op => match op.kind, op.stall with
    | .coll r _ _ _ none, none =>
      if d.now < op.started + 1700000 then d else
      match (d.descr op.src (collOf r).grp).2 with
      | .ok x => match x.ranks[rank]? with
        | some rk => if d.reaches op.src.die rk || !d.isOldest op x then d else d.failColl op r none 0x0EF rank rk.1 false
        | none => d
      | .error _ => d
    | _, _ => d

/-! ### The meanings -/

def execCjob (f : FWord) (s : State) := s.onDev (·.cjob (fop f))
def execColl (f : FWord) (s : State) := s.onDev (·.coll (fop f))
def execJobCardOutputLanded (op : Nat) (s : State) := s.onDev (·.cardLand op)
def execJobCardDone (op : Nat) (s : State) := s.onDev (·.cardDone op)
def execCollectiveDone (op : Nat) (s : State) := s.onDev (·.collDone op)
def execCollectiveRankTimeout (op rank : Nat) (s : State) := s.onDev (·.collTimeout op rank)

end Sys2Proof.Machine
end

