-- ==== Sys2Proof/Machine/Surface.lean ====
section
/-!
DEFINITION. Predicted surfaces: slots and descriptors (R249 to R251), tiles (R252), reconstruction (R253 to R255), the
tile record (R256 to R258), coding and the rate state (R259, R260), staging and eviction (R261, R262), the instructions of
row 8 (R263 to R268) and the resolve thread, with the refusals, failures and stalls of R385 and R386.
-/
namespace Sys2Proof.Machine

/-! ### Slots (R249, R250) -/

def Slot.mtab (s : Slot) : Nat := bits s.d0.toNat 0 56
def Slot.w (s : Slot) : Nat := bits s.d1.toNat 0 12 + 1
def Slot.h (s : Slot) : Nat := bits s.d1.toNat 16 12 + 1
def Slot.nch (s : Slot) : Nat := bits s.d1.toNat 32 3
def Slot.n10 (s : Slot) : Bool := s.d1.getLsbD 35
def Slot.isKey (s : Slot) : Bool := s.d1.getLsbD 36
def Slot.ll (s : Slot) : Bool := s.d1.getLsbD 37
def Slot.bqp (s : Slot) : Nat := bits s.d1.toNat 38 5
def Slot.pred (s : Slot) : Nat := bits s.d1.toNat 48 8
def Slot.budget (s : Slot) : Nat := bits s.d2.toNat 0 32
def Slot.tw (s : Slot) : Nat := (s.w + 15) / 16
def Slot.th (s : Slot) : Nat := (s.h + 15) / 16
/-- The number of tiles. -/
def Slot.tiles (s : Slot) : Nat := s.tw * s.th
/-- The bits and the greatest value of a sample. -/
def Slot.bpc (s : Slot) : Nat := if s.n10 then 10 else 8
def Slot.max (s : Slot) : Nat := 2 ^ s.bpc - 1
/-- The tile of a pixel. -/
def Slot.tileAt (s : Slot) (x y : Nat) : Nat := y / 16 * s.tw + x / 16

/-- A bound slot: where it stands, and its state. -/
structure Surf where
  die : Nat
  vf : Nat
  no : Nat
  s : Slot
  deriving DecidableEq, Repr

def slotKey (die vf no : Nat) : Nat := (16 * die + vf) * 256 + no
def Surf.key (f : Surf) : Nat := slotKey f.die f.vf f.no
/-- The bound slot of a number. -/
def Dev.surf? (d : Dev) (die vf no : Nat) : Option Surf := (look none d.slots (slotKey die vf no)).map (fun s => ⟨die, vf, no, s⟩)
/-- The bound slot of a key. -/
def Dev.surfAt (d : Dev) (key : Nat) : Option Surf := d.surf? (key / 4096) (key / 256 % 16) (key % 256)
/-- The predecessor of a surface that is not key. -/
def Dev.pred? (d : Dev) (f : Surf) : Option Surf := if f.s.isKey then none else d.surf? f.die f.vf f.s.pred
/-- Change the state of a slot. -/
def Dev.modSlot (d : Dev) (key : Nat) (g : Slot → Slot) : Dev := { d with slots := put none d.slots key ((look none d.slots key).map g) }

/-! ### The transform (R254) -/

/-- H(u, y). -/
def hadamard (u y : Nat) : Int :=
  ([[1, 1, 1, 1], [1, 1, -1, -1], [1, -1, -1, 1], [1, -1, 1, -1]].getD u []).getD y 0
/-- The pairs (i, j) of a 4 × 4 cell. -/
def cell16 : List (Nat × Nat) := (List.range 16).map (fun i => (i / 4, i % 4))
/-- The quantiser step of a qp. -/
def qStep (qp : Nat) : Nat := (4 + qp % 4) * 2 ^ (qp / 4)
/-- Res(y, x) of a cell's levels. -/
def residual (qp : Nat) (ls : List Int) (y x : Nat) : Int :=
  let D := fun (p : Nat × Nat) => ls.getD (4 * p.1 + p.2) 0 * (qStep qp : Int)
  ((cell16.map (fun p => hadamard p.1 y * D p * hadamard p.2 x)).foldl (· + ·) 0 + 32) / 64
/-- F(u, v) of a cell's residual samples. -/
def forward (es : List Int) (u v : Nat) : Int :=
  (cell16.map (fun p => hadamard u p.1 * es.getD (4 * p.1 + p.2) 0 * hadamard v p.2)).foldl (· + ·) 0
/-- The level of a coefficient (R259). -/
def quantise (qp : Nat) (F : Int) : Int :=
  let q := qStep qp
  let m : Int := ((4 * F.natAbs + q / 2) / q : Nat)
  clampInt (-16383) 16383 (if F < 0 then -m else m)

/-! ### The tile record (R256, R257) -/

/-- A cell of a record. -/
inductive TCell where
  | skip | coded (levels : List Int) | raw (samples : List Nat)
  deriving DecidableEq, Repr

/-- A tile's record; the cells stand at channel × 16 + cell. -/
structure TRec where
  qp : Nat
  key : Bool
  prov : Bool
  pin : Bool
  vecs : List (Int × Int)
  cells : List TCell
  deriving DecidableEq, Repr

/-- The n-bit two's-complement value. -/
def signed (n x : Nat) : Int := if x % 2 ^ n ≥ 2 ^ (n - 1) then ((x % 2 ^ n : Nat) : Int) - 2 ^ n else (x % 2 ^ n : Nat)

/-- One level and the bytes after it. -/
def takeLevel : List Byte → Option (Int × List Byte)
  | [] => none
  | b0 :: bs => if b0.toNat < 128 then some (signed 7 b0.toNat, bs) else
    match bs with
    | [] => none
    | b1 :: bs => some (signed 15 (b0.toNat % 128 * 256 + b1.toNat), bs)

/-- The levels of the coefficients of a nonzero map. -/
def takeLevels (m : Nat) : List Nat → List Byte → Option (List Int × List Byte)
  | [], bs => some ([], bs)
  | i :: is, bs =>
    if m.testBit i then
      match takeLevel bs with
      | none => none
      | some (l, bs) => (takeLevels m is bs).map (fun p => (l :: p.1, p.2))
    else (takeLevels m is bs).map (fun p => (0 :: p.1, p.2))

/-- Raw samples of `k` bytes, none above `top`. -/
def takeRaw (k top : Nat) : Nat → List Byte → Option (List Nat × List Byte)
  | 0, bs => some ([], bs)
  | n + 1, bs =>
    let v := ofBytes (bs.take k)
    if bs.length < k ∨ v > top then none else (takeRaw k top n (bs.drop k)).map (fun p => (v :: p.1, p.2))

/-- One cell and the bytes after it. -/
def takeCell (s : Slot) : List Byte → Option (TCell × List Byte)
  | [] => none
  | m :: bs =>
    if m = 0 then some (.skip, bs)
    else if m = 1 then
      if bs.length < 2 then none else
      (takeLevels (ofBytes (bs.take 2)) (List.range 16) (bs.drop 2)).map (fun p => (.coded p.1, p.2))
    else if m = 2 then (takeRaw (if s.n10 then 2 else 1) s.max 16 bs).map (fun p => (.raw p.1, p.2))
    else none

/-- `n` cells. -/
def takeCells (s : Slot) : Nat → List Byte → Option (List TCell)
  | 0, _ => some []
  | n + 1, bs => match takeCell s bs with
    | none => none
    | some (c, bs) => (takeCells s n bs).map (c :: ·)

/-- The record that some bytes hold; none when it is malformed. -/
def tileParse (s : Slot) (bs : List Byte) : Option TRec :=
  let h := ofBytes (bs.take 16)
  let fs := (List.range 8).map (fun k => bits h (32 + 12 * k) 12)
  if bs.length < 16 ∨ fs.contains 0x800 then none else
  (takeCells s (16 * s.nch) (bs.drop 16)).map (fun cs =>
    { qp := bits h 24 5, key := h.testBit 29, prov := h.testBit 30, pin := h.testBit 31,
      vecs := (List.range 4).map (fun b => (signed 12 (fs.getD (2 * b) 0), signed 12 (fs.getD (2 * b + 1) 0))), cells := cs })

/-- The bytes of a level. -/
def levelBytes (v : Int) : List Byte :=
  if -64 ≤ v ∧ v ≤ 63 then [BitVec.ofNat 8 (v % 128).toNat]
  else [BitVec.ofNat 8 (128 + (v % 32768).toNat / 256), BitVec.ofNat 8 (v % 256).toNat]

/-- The bytes of a cell. -/
def cellBytes (s : Slot) : TCell → List Byte
  | .skip => [0]
  | .coded ls => 1 :: toBytes 2 (((List.range 16).filter (fun i => ls.getD i 0 != 0)).foldl (fun m i => m + 2 ^ i) 0)
      ++ (ls.filter (· != 0)).flatMap levelBytes
  | .raw xs => 2 :: xs.flatMap (toBytes (if s.n10 then 2 else 1))

/-- The bytes of a record. -/
def tileBytes (f : Surf) (tile : Nat) (r : TRec) : List Byte :=
  let one := fun (b : Bool) k => if b then 2 ^ k else 0
  let vec := fun (b : Nat) => let v := r.vecs.getD b (0, 0); (v.1 % 4096).toNat + (v.2 % 4096).toNat * 4096
  pad32 (toBytes 16 (f.no + tile % f.s.tw * 2 ^ 8 + tile / f.s.tw * 2 ^ 16 + r.qp * 2 ^ 24 + one r.key 29 + one r.prov 30
    + one r.pin 31 + ((List.range 4).map (fun b => vec b * 2 ^ (32 + 24 * b))).foldl (· + ·) 0)
    ++ r.cells.flatMap (cellBytes f.s))

/-- The record that an invalid entry stands for (R258). -/
def TRec.blank (s : Slot) : TRec :=
  { qp := 0, key := s.isKey, prov := false, pin := false, vecs := List.replicate 4 (0, 0), cells := List.replicate (16 * s.nch) .skip }

/-! ### Units of a tile (R252); px and py count within the tile -/

def motionBlock (px py : Nat) : Nat := 2 * (py / 8) + px / 8
def cellNo (px py : Nat) : Nat := 4 * (py / 4) + px / 4
def inCell (px py : Nat) : Nat := 4 * (py % 4) + px % 4
/-- The pixel of sample k of cell c. -/
def cellPixel (c k : Nat) : Nat × Nat := (c % 4 * 4 + k % 4, c / 4 * 4 + k / 4)
/-- The motion block of a cell. -/
def cellBlock (c : Nat) : Nat := 2 * (c / 8) + c % 4 / 2

/-! ### The mapping table (R250, R258, R385) -/

/-- What surface reads give: a value, or a code of class 15 with its D5 and D6. -/
abbrev Su (α : Type) := Except Flt α

/-- The physical address of a virtual address of a mapping table, which must be a P page of the die. It is walked each time: no TLB holds
it (R163; DESIGN CHOICE, log 5). -/
def Dev.tablePa (d : Dev) (die vf : Nat) (acc : Acc) (va : Nat) : Su Nat :=
  if va ≥ 2 ^ 56 then .error ⟨0x0F4, if acc.writes then 0x071 else 0x061, va⟩ else
  match d.walk die vf va with
  | .leaf e l =>
    let pa := d.leafAt .p e l va
    match d.permitKind vf acc .p e pa with
    | some c => .error ⟨0x0F4, c, va⟩
    | none => if d.cfg.place pa = .ram die then .ok pa else .error ⟨0x0F4, 0, va⟩
  | w =>
    let c := ((w.fault acc.writes va).map (·.cause.toNat)).getD 0
    .error ⟨if c = 0x060 ∨ c = 0x070 then 0x0F5 else 0x0F4, c, va⟩

/-- The virtual address of a tile's entry. -/
def Surf.entryVa (f : Surf) (tile : Nat) : Nat := f.s.mtab + 8 * tile

/-- A tile's entry and its physical address. -/
def Dev.tileEntry (d : Dev) (f : Surf) (tile : Nat) : Su (Nat × Nat) :=
  match d.tablePa f.die f.vf (.ld false) (f.entryVa tile) with
  | .error e => .error e
  | .ok pa => if (d.badAt pa 8).isSome then .error ⟨0x0F4, 0x170, f.entryVa tile⟩ else .ok (Memory.read d.mem pa 8, pa)

/-- A tile's current record; none when its entry is invalid. -/
def Dev.tileRec (d : Dev) (f : Surf) (tile : Nat) : Su (Option TRec) :=
  match d.tileEntry f tile with
  | .error e => .error e
  | .ok (e, _) =>
    if entReserved e then .error ⟨0x0FB, f.no, f.entryVa tile⟩
    else if !entV e then .ok none
    else if !d.inStore f.die e then .error ⟨0x0FB, f.no, f.entryVa tile⟩
    else
      let ra := d.combBase f.die + 32 * entOff e
      if (d.badAt ra (32 * entLen e)).isSome then .error ⟨0x0FD, f.no, tile⟩ else
      match tileParse f.s (Memory.readBytes d.mem ra (32 * entLen e)) with
      | none => .error ⟨0x0FA, f.no, tile⟩
      | some r => .ok (some r)

/-- The requests of reading one tile's entry and record, which a reconstruction cache may save. -/
def Dev.recordRequests (d : Dev) (f : Surf) (tile : Nat) : Dev :=
  match d.tileEntry f tile with
  | .error _ => d
  | .ok (e, pa) =>
    let p := d.freeBit
    if !p.2 then p.1 else
    let d := p.1.l2 (d.dieOf pa) f.vf false (pa / 128)
    if !entV e then d else (unitsOf 64 (d.combBase f.die + 32 * entOff e) (32 * entLen e)).foldl (fun d u => d.l2 f.die f.vf false (u / 2)) d

/-! ### Reconstruction (R253 to R255) -/

/-- The sum of some samples. -/
def sumAt (S : Int × Int → Su Nat) : List (Int × Int) → Su Nat
  | [] => .ok 0
  | p :: l => match S p, sumAt S l with
    | .ok a, .ok b => .ok (a + b)
    | .error e, _ => .error e
    | _, .error e => .error e

/-- The prediction of the sample at (x, y) under a vector from the predecessor's samples S. -/
def predict (S : Nat → Nat → Su Nat) (w h : Nat) (v : Int × Int) (x y : Nat) : Su Nat :=
  let hx := 2 * (x : Int) + v.1
  let hy := 2 * (y : Int) + v.2
  let xs := if hx % 2 = 0 then [hx / 2] else [hx / 2, hx / 2 + 1]
  let ys := if hy % 2 = 0 then [hy / 2] else [hy / 2, hy / 2 + 1]
  let ps := ys.flatMap (fun j => xs.map (fun i => (i, j)))
  let at_ := fun (p : Int × Int) => S (clampInt 0 (w - 1) p.1).toNat (clampInt 0 (h - 1) p.2).toNat
  (sumAt at_ ps).map (fun n => (n + ps.length / 2) / ps.length)

/-- A sample of a cell from its prediction (R255). -/
def cellSample (s : Slot) (qp : Nat) (c : TCell) (k : Nat) (P : Su Nat) : Su Nat :=
  match c with
  | .raw xs => .ok (xs.getD k 0)
  | .skip => P.map (fun p => (clampInt 0 s.max p).toNat)
  | .coded ls => P.map (fun (p : Nat) => (clampInt 0 s.max ((p : Int) + residual qp ls (k / 4) (k % 4))).toNat)

/-- The staging tile of a tile. -/
def Dev.stage? (d : Dev) (key tile : Nat) : Option Stage := d.stages.find? (fun g => g.slot == key && g.tile == tile)
/-- The place of a staged sample. -/
def stageKey (ch px py : Nat) : Nat := 256 * ch + 16 * py + px
/-- A staged sample. -/
def Stage.sample (g : Stage) (ch px py : Nat) : Nat := look 0 g.samples (stageKey ch px py)

/-- The sample of a surface at (x, y): the staged one, or the one its record reconstructs to; `fuel` bounds the chain. -/
def Dev.sampleAt (d : Dev) : Nat → Surf → Nat → Nat → Nat → Su Nat
  | 0, _, _, _, _ => .ok 0
  | fuel + 1, f, ch, x, y =>
    match d.stage? f.key (f.s.tileAt x y) with
    | some g => if g.bad then .error ⟨0x0FD, f.no, g.tile⟩ else .ok (g.sample ch (x % 16) (y % 16))
    | none => match d.tileRec f (f.s.tileAt x y) with
      | .error e => .error e
      | .ok r? =>
        let r := r?.getD (TRec.blank f.s)
        let P := if f.s.isKey || r.key then .ok 0 else match d.pred? f with
          | none => .ok 0
          | some p => predict (d.sampleAt fuel p ch) p.s.w p.s.h (r.vecs.getD (motionBlock (x % 16) (y % 16)) (0, 0)) x y
        cellSample f.s r.qp (r.cells.getD (16 * ch + cellNo (x % 16) (y % 16)) .skip) (inCell (x % 16) (y % 16)) P

/-- The greatest number of surfaces in a chain (R251). -/
def chainMax : Nat := 8

/-- The tiles of a predecessor that the predictions of a tile under some vectors read (R253). -/
def predTiles (p : Slot) (tw tile : Nat) (vecs : List (Int × Int)) : List Nat :=
  ((List.range 4).flatMap (fun b =>
    let v := vecs.getD b (0, 0)
    let x0 : Int := (tile % tw * 16 + b % 2 * 8 : Nat)
    let y0 : Int := (tile / tw * 16 + b / 2 * 8 : Nat)
    let span := fun (n : Nat) (c d : Int) =>
      let lo := (clampInt 0 (n - 1) ((2 * c + d) / 2)).toNat / 16
      let hi := (clampInt 0 (n - 1) ((2 * (c + 7) + d + 1) / 2)).toNat / 16
      (List.range (hi + 1 - lo)).map (· + lo)
    (span p.h y0 v.2).flatMap (fun j => (span p.w x0 v.1).map (fun i => j * p.tw + i)))).eraseDups

/-- The vectors under which a tile's record is predicted; none where its samples need no predecessor. -/
def Dev.recVecs (d : Dev) (f : Surf) (tile : Nat) : Option (List (Int × Int)) :=
  match d.tileRec f tile with
  | .ok r? => let r := r?.getD (TRec.blank f.s); if f.s.isKey || r.key then none else some r.vecs
  | .error _ => none

/-- The requests of reading some tiles down the chain (R253, R401): of those that are not staged, and of the predecessor's tiles that
they are predicted from. -/
def Dev.chainRequests : Nat → Surf → List Nat → Dev → Dev
  | 0, _, _, d => d
  | n + 1, f, ts, d =>
    let ts := ts.filter (fun t => (d.stage? f.key t).isNone)
    let d' := ts.foldl (fun d t => d.recordRequests f t) d
    match d.pred? f with
    | none => d'
    | some p => Dev.chainRequests n p ((ts.flatMap (fun t => ((d.recVecs f t).map (predTiles p.s f.s.tw t)).getD [])).eraseDups) d'

/-- The requests of reading a tile. -/
def Dev.tileRequests (d : Dev) (f : Surf) (tile : Nat) : Dev := Dev.chainRequests chainMax f [tile] d

/-- The requests of predicting a staging tile under its vectors. -/
def Dev.predRequests (d : Dev) (f : Surf) (g : Stage) : Dev :=
  match d.pred? f with
  | none => d
  | some p => if g.key then d else Dev.chainRequests chainMax p (predTiles p.s f.s.tw g.tile g.vecs) d

/-- A sample as `sld` returns it. -/
def Dev.sample (d : Dev) (f : Surf) (ch x y : Nat) : Su Nat := d.sampleAt chainMax f ch x y

/-- The prediction of a sample of a staging tile, under its vectors and key flag. -/
def Dev.stagePred (d : Dev) (f : Surf) (g : Stage) (ch px py : Nat) : Su Nat :=
  if f.s.isKey || g.key then .ok 0 else
  match d.pred? f with
  | none => .ok 0
  | some p => predict (d.sample p ch) p.s.w p.s.h (g.vecs.getD (motionBlock px py) (0, 0))
      (g.tile % f.s.tw * 16 + px) (g.tile / f.s.tw * 16 + py)

/-! ### Coding (R259 to R261) -/

/-- Evaluate a list of surface reads. -/
def allSu {α β : Type} (f : α → Su β) : List α → Su (List β)
  | [] => .ok []
  | a :: l => match f a, allSu f l with
    | .ok b, .ok bs => .ok (b :: bs)
    | .error e, _ => .error e
    | _, .error e => .error e

/-- The samples of a cell. -/
def Stage.cellSamples (g : Stage) (ch c : Nat) : List Nat :=
  (List.range 16).map (fun k => g.sample ch (cellPixel c k).1 (cellPixel c k).2)

/-- The cell of a level-mode cell's levels. -/
def levelCell (ls : List Int) : TCell := if ls.all (· == 0) then .skip else .coded ls

/-- Code a pixel-mode cell at a qp from its samples and predictions. -/
def codeCell (s : Slot) (q : Nat) (xs ps : List Nat) : TCell :=
  let es := (List.range 16).map (fun k => ((xs.getD k 0 : Nat) : Int) - (ps.getD k 0 : Nat))
  let ls := cell16.map (fun p => quantise q (forward es p.1 p.2))
  if ls.all (· == 0) then .skip
  else if 3 + ((ls.filter (· != 0)).flatMap levelBytes).length ≤ 1 + (if s.n10 then 32 else 16) then .coded ls
  else .raw xs

/-- The cells of a channel. -/
def channelCells (nch : Nat) : List (Nat × Nat) := (List.range (16 * nch)).map (fun i => (i / 16, i % 16))

/-- Code one cell of a staging tile: final, or provisional (R262). -/
def Dev.codeStageCell (d : Dev) (f : Surf) (g : Stage) (q : Nat) (final : Bool) (c : Nat × Nat) : Su TCell :=
  match look none g.cells (16 * c.1 + c.2) with
  | some ls => .ok (levelCell ls)
  | none =>
    if !final then .ok (.raw (g.cellSamples c.1 c.2)) else
    (allSu (fun k => d.stagePred f g c.1 (cellPixel c.2 k).1 (cellPixel c.2 k).2) (List.range 16)).map
      (fun ps => codeCell f.s q (g.cellSamples c.1 c.2) ps)

/-- The qp at which a staging tile is coded (R260). -/
def Stage.codeQp (g : Stage) (s : Slot) (final : Bool) : Nat :=
  if s.ll then 0 else if final && g.cells.isEmpty then s.qcur else g.qp

/-- The record of a staging tile; one that cannot be corrected has none (R385). -/
def Dev.codeStage (d : Dev) (f : Surf) (g : Stage) (final : Bool) : Su (List Byte) :=
  if g.bad then .error ⟨0x0FD, f.no, g.tile⟩ else
  let q := g.codeQp f.s final
  (allSu (d.codeStageCell f g q final) (channelCells f.s.nch)).map (fun cs =>
    tileBytes f g.tile { qp := q, key := g.key, prov := !final, pin := !g.cells.isEmpty, vecs := g.vecs, cells := cs })

/-- The update of the rate state by a final coding of `n` bytes (R260). -/
def Slot.rate (s : Slot) (n : Nat) : Slot :=
  let s := { s with spent := s.spent + n, ncoded := s.ncoded + 1 }
  if s.budget = 0 ∨ s.ll then s else
  let target := s.budget * s.ncoded / s.tiles
  if s.spent > target then { s with qcur := Nat.min (s.qcur + 1) 31 }
  else if s.spent < target then { s with qcur := s.qcur - 1 } else s

/-- The home cluster of a tile (R261, log 5). -/
def homeOf (key tile : Nat) : Nat := Config.tileHome key tile % 12
/-- The home cluster of a tile among the clusters of the device: 12 × die + cluster. -/
def homeKey (key tile : Nat) : Nat := 12 * (key / 4096) + homeOf key tile
/-- The comb engine of a home as a writer of the comb store (R20). -/
def combId (home : Nat) : Nat := 1024 + home
/-- The comb engine of a home as an agent (R375): it stands at its cluster (R180). -/
def Surf.who (f : Surf) (home : Nat) : Who :=
  { kind := 2, tag := f.vf, die := f.die, cl := home % 12, noq := true, thr := ⟨2, f.die, home % 12, 0, 2 ^ 51 + home, 0, 0⟩ }

/-- Append a tile's record and install it by a release store at `.dev` (R20, R224, R259). -/
def Dev.installTile (d : Dev) (f : Surf) (tile : Nat) (bs : List Byte) : Dev × Option Flt :=
  let home := homeKey f.key tile
  let n := d.past.length
  match d.tablePa f.die f.vf .st (f.entryVa tile) with
  | .error e => (d, some e)
  | .ok pa => match d.append f.die (combId home) (f.who home) pa (f.key + 1) bs with
    | (d, none) => (d, some ⟨0x0FC, f.no, tile⟩)
    | (d, some off) =>
      let d := (unitsOf 64 (d.combBase f.die + 32 * off) bs.length).foldl (fun d u => d.l2 f.die f.vf false (u / 2)) (d.l2 f.die f.vf false (pa / 128))
      (((d.install { f.who home with rel := 5, before := newIds n d.past } pa off (bs.length / 32)).count f.die f.vf 15 1), none)

/-- Remove a staging tile. -/
def Dev.dropStage (d : Dev) (key tile : Nat) : Dev := { d with stages := d.stages.filter (fun g => !(g.slot == key && g.tile == tile)) }

/-- The bytes of some channels of a staged pixel, from one on, as the history of its samples holds them. -/
def Stage.pixelBytes (g : Stage) (lo n px py : Nat) : List Byte := (List.range n).flatMap (fun k => toBytes 2 (g.sample (lo + k) px py))

/-- The place of channel `ch` of pixel (px, py) of a tile in the history of writes. -/
def Surf.place (f : Surf) (tile px py ch : Nat) : Nat := samplePlace f.key tile (16 * py + px) ch

/-- Every sample of a staging tile as a write of the history, pixel by pixel (R269). -/
def Stage.marks (g : Stage) (f : Surf) : List (Nat × List Byte) :=
  (List.range 256).filterMap (fun k =>
    if g.tile % f.s.tw * 16 + k % 16 < f.s.w ∧ g.tile / f.s.tw * 16 + k / 16 < f.s.h then
      some (f.place g.tile (k % 16) (k / 16) 0, g.pixelBytes 0 f.s.nch (k % 16) (k / 16)) else none)

/-- The final coding of a staging tile by a resolve thread, in one step at its home: it writes every sample of the tile (R261, R269); what
it meets if it does not happen. -/
def Dev.finalCode (d : Dev) (o : Origin) (f : Surf) (g : Stage) : Dev × Option Flt :=
  match d.codeStage f g true with
  | .error e => (d, some e)
  | .ok bs =>
    let p := (d.predRequests f g).installTile f g.tile bs
    match p.2 with
    | some e => (p.1, some e)
    | none => (((p.1.modSlot f.key (·.rate bs.length)).dropStage f.key g.tile).engineMarks o (g.marks f), none)

/-! ### Staging (R261, R262) -/

/-- The staging tile that a tile would get. -/
def Dev.newStage (d : Dev) (f : Surf) (tile : Nat) : Su Stage :=
  match d.tileRec f tile with
  | .error e => .error e
  | .ok r? =>
    let r := r?.getD (TRec.blank f.s)
    let ps := (List.range (256 * f.s.nch))
    (allSu (fun i => d.sample f (i / 256) (tile % f.s.tw * 16 + i % 16) (tile / f.s.tw * 16 + i % 256 / 16)) ps).map (fun xs =>
      { slot := f.key, tile := tile, key := r.key, vecs := r.vecs, qp := if r?.isSome then r.qp else f.s.qcur, order := 0, bad := false
        samples := (ps.zip xs).foldl (fun m p => put 0 m p.1 p.2) []
        cells := if r.prov && r.pin then (List.range r.cells.length).foldl (fun m i => match r.cells.getD i .skip with
          | .coded ls => put none m i (some ls)
          | _ => m) [] else [] })

/-- The staging tiles at a home. -/
def Dev.stagesAt (d : Dev) (home : Nat) : List Stage := d.stages.filter (fun g => homeKey g.slot g.tile == home)

/-- Evict a staging tile into a provisional record (R262): a tile whose table cannot be written stays staged, which no
instruction can see (log 17); only the want of a segment holds it up. -/
def Dev.evict (d : Dev) (g : Stage) : Dev × Option Flt :=
  match d.surfAt g.slot with
  | none => (d.dropStage g.slot g.tile, none)
  | some f => match d.codeStage f g false with
    | .error _ => (d, none)
    | .ok bs =>
      let p := d.installTile f g.tile bs
      match p.2 with
      | some e => if e.cause = 0x0FC then (p.1, some e) else (d, none)
      | none => (p.1.dropStage g.slot g.tile, none)

/-- Make room at a home for one more staging tile. -/
def Dev.makeRoom (d : Dev) (home : Nat) : Dev × Option Flt :=
  if (d.stagesAt home).length < 64 then (d, none) else
  match leastBy (·.order) (d.stagesAt home) with
  | none => (d, none)
  | some g => d.evict g

/-- The staging tile of a tile, created when it is missing. -/
def Dev.stageOf (d : Dev) (f : Surf) (tile : Nat) : Dev × Su Stage :=
  match d.stage? f.key tile with
  | some g => (d, if g.bad then .error ⟨0x0FD, f.no, tile⟩ else .ok g)
  | none => match d.newStage f tile with
    | .error e => (d, .error e)
    | .ok g =>
      let p := (d.tileRequests f tile).makeRoom (homeKey f.key tile)
      match p.2 with
      | some e => (p.1, .error { e with d5 := f.no, d6 := tile })
      | none => ({ p.1 with stages := g :: p.1.stages }, .ok g)

/-- Store a staging tile that has been written, as the one written last. -/
def Dev.setStage (d : Dev) (g : Stage) : Dev :=
  { d with stages := d.stages.map (fun h => if h.slot = g.slot ∧ h.tile = g.tile then { g with order := d.nextId } else h), nextId := d.nextId + 1 }

/-- Every level-mode cell that satisfies a test is turned to pixel mode (R266). -/
def Stage.toPixels (g : Stage) (sel : Nat → Bool) : Stage := { g with cells := g.cells.filter (fun e => !sel e.1) }

/-- Write a sample: its cell becomes pixel-mode (R266). -/
def Stage.putSample (g : Stage) (ch px py v : Nat) : Stage :=
  { g.toPixels (· == 16 * ch + cellNo px py) with samples := put 0 g.samples (stageKey ch px py) v }

/-- Write the vector of a motion block (R266). -/
def Stage.putVec (g : Stage) (b : Nat) (v : Int × Int) : Stage :=
  { g.toPixels (fun k => cellBlock (k % 16) == b) with vecs := g.vecs.set b v }

/-- `sst` at a pixel of a staging tile (R266). -/
def Stage.sst (g : Stage) (s : Slot) (mode mask px py c : Nat) : Stage :=
  match mode with
  | 1 => g.putVec (motionBlock px py) (signed 16 c, signed 16 (c / 2 ^ 16))
  | 2 => if s.isKey then g else { g.toPixels (fun _ => true) with key := c % 2 == 1 }
  | _ => (List.range s.nch).foldl (fun g ch => if mask.testBit ch then g.putSample ch px py (bits c (s.bpc * ch) s.bpc) else g) g

/-- `sstc` at a pixel of a staging tile (R267). -/
def Dev.sstcAt (d : Dev) (f : Surf) (g : Stage) (px py c : Nat) : Su Stage :=
  let ch := bits c 20 2
  let k := 16 * ch + cellNo px py
  let ls := ((look none g.cells k).getD (List.replicate 16 0)).set (bits c 16 4) (signed 16 c)
  let at_ := fun (i : Nat) => cellPixel (cellNo px py) i
  (allSu (fun i => cellSample f.s (if f.s.ll then 0 else g.qp) (.coded ls) i (d.stagePred f g ch (at_ i).1 (at_ i).2)) (List.range 16)).map (fun xs =>
    { g with cells := put none g.cells k (some ls)
             samples := ((List.range 16).zip xs).foldl (fun m p => put 0 m (stageKey ch (at_ p.1).1 (at_ p.1).2) p.2) g.samples })

/-! ### Homes without a segment (R385) -/

/-- The homes that lanes, resolve threads or raster units wait at for a segment. -/
def Dev.stalledHomes (d : Dev) : List Nat :=
  (d.groups.flatMap (fun x => x.warps.flatMap (fun w => (lanesOf w.live).filterMap (fun L => match look .none w.wait L with
    | .rest _ (.segment h _ _) => some h
    | _ => none))))
  ++ d.ops.filterMap (fun o => match o.kind, o.stall with
    | .resolve slot .., some (0x0FC, _, t) => some (homeKey (slotKey o.src.die o.src.vf slot) t)
    | _, _ => none)
  ++ d.draws.filterMap (fun r => match r.stall with
    | some (0x0FC, no, t) => some (homeKey (slotKey r.die r.vf no) t)
    | _ => none)

/-- Whether a home is stalled. -/
def Dev.homeStalled (d : Dev) (home : Nat) : Bool := (d.freeSeg (home / 12)).isNone && d.stalledHomes.contains home

/-! ### Lane instructions -/

/-- The lanes of a surface instruction so far: values, faults, and the lanes that rest for a segment with their home and
what their record would hold. -/
structure SuSt where
  d : Dev
  vals : List (Nat × Nat)
  bad : List (Nat × Flt)
  rests : List (Nat × Nat × Flt)
  deriving DecidableEq, Repr

/-- One lane of a surface instruction: its slot and pixel, then `chk` on the operands, then `act` on the pixel. -/
def SuSt.lane (x : Ix) (slot : Nat) (writes : Bool) (xy : Nat → Nat × Nat) (chk : Surf → Nat → Option Flt)
    (act : Dev → Surf → Nat → Nat → Nat → Dev × Su Nat) (m : SuSt) (L : Nat) : SuSt :=
  let no := fun (f : Flt) => { m with bad := m.bad ++ [(L, f)] }
  match m.d.surf? x.x.die x.x.vf slot with
  | none => no ⟨0x0F0, slot, 0⟩
  | some f =>
    let p := xy L
    if writes && f.s.hold != 0 then no ⟨0x0F3, slot, f.s.hold⟩
    else if p.1 ≥ f.s.w ∨ p.2 ≥ f.s.h then no ⟨0x0F6, slot, p.1 ||| p.2 * 2 ^ 16⟩
    else match chk f L with
    | some e => no e
    | none =>
      let tile := f.s.tileAt p.1 p.2
      let home := homeKey f.key tile
      if m.d.homeStalled home then { m with rests := m.rests ++ [(L, home, ⟨0x0FC, slot, tile⟩)] } else
      let r := act m.d f L p.1 p.2
      match r.2 with
      | .ok v => { m with d := r.1, vals := m.vals ++ [(L, v)] }
      | .error e =>
        if e.cause = 0x0FC then { m with d := r.1, rests := m.rests ++ [(L, home, e)] }
        else { m with d := r.1, bad := m.bad ++ [(L, e)] }

/-- The record of the lanes that begin to rest for a segment (R380, R385). -/
def Dev.recordStall (d : Dev) (x : Ix) (rs : List (Nat × Nat × Flt)) : Dev :=
  match rs with
  | [] => d
  | (L, _, f) :: _ =>
    let ls := setOf (rs.map (·.1))
    (d.recordFor x.x.queue { warpRec x.x x.wi x.pc.toNat x.word ls f with hm := x.w.handler.getLsbD L, res := true }
      { group := x.g, warp := x.wi, lanes := ls }).1

/-- A surface instruction in its lanes, in ascending order. -/
def Dev.surfLanes (d : Dev) (o : OpW) (ds srcs : List Use) (writes : Bool) (chk : Ix → Surf → Nat → Option Flt)
    (act : Ix → Dev → Surf → Nat → Nat → Nat → Dev × Su Nat) : Dev :=
  match d.ix with
  | none => d
  | some x =>
    let p := d.plan x o ds srcs (fun _ => none) (fun _ => false)
    let xy := fun L => ((x.val o .n32 o.a L).toNat, (x.val o .n32 o.b L).toNat)
    let m := (lanesOf p.ok).foldl (SuSt.lane x (o.immBits 0 8) writes xy (chk x) (act x)) ⟨d, [], [], []⟩
    let ok := setOf (m.vals.map (·.1))
    let compact := ds.any x.x.lr.isCompact && ok != 0
    let bad := m.bad ++ (if compact then faultAll ok ⟨0x043, 0, 0⟩ else [])
    let ok := if compact then 0 else ok
    let d := if ds = [] then m.d else
      (m.d.modWarp x.g x.wi (fun w => w.writeD o.d .n32 ok .g (fun L => BitVec.ofNat 64 ((m.vals.lookup L).getD 0)))).mend x ds ok
    let d := ((m.rests.map (·.2)).eraseDups).foldl (fun d r =>
      d.rest x (setOf ((m.rests.filter (·.2 == r)).map (·.1))) (.segment r.1 r.2.d5 r.2.d6)) (d.recordStall x m.rests)
    let wait := setOf (m.rests.map (·.1))
    d.finish x (ok ||| wait) wait (p.bad ++ bad)

/-- The samples of a pixel, channel by channel (R265). -/
def Dev.pixel (d : Dev) (f : Surf) (x y : Nat) : Su (List Nat) := allSu (fun ch => d.sample f ch x y) (List.range f.s.nch)

/-- The packed word of a pixel's samples (R265). -/
def Slot.pack (s : Slot) (vs : List Nat) : Nat := ((List.range s.nch).map (fun ch => vs.getD ch 0 * 2 ^ (s.bpc * ch))).foldl (· + ·) 0

/-- A plain load of a pixel whose newest samples are `vs` by some lanes (R269): those, or older ones that the order of writes allows; where
nothing has written them, the binding of the slot has. -/
def Dev.readPixelOf (d : Dev) (x : Ix) (ls : LaneSet) (f : Surf) (px py : Nat) (vs : List Nat) : Dev × Nat :=
  let a := f.place (f.s.tileAt px py) (px % 16) (py % 16) 0
  let p := d.readPlace x ls a (2 * f.s.nch) (vs.flatMap (toBytes 2)) false (fun _ => none)
  let d := if d.past.any (·.spans a (2 * f.s.nch)) then p.1 else
    p.1.modWarp x.g x.wi (·.modView ls (d.observe ((d.past.find? (·.place == bindPlace f.key)).map (·.id)).toList))
  (d, f.s.pack ((List.range f.s.nch).map (fun ch => ofBytes ((p.2.drop (2 * ch)).take 2))))

def Dev.sld (d : Dev) (o : OpW) : Dev :=
  d.surfLanes o [(o.d, 1)] [(o.a, 1), (o.b, 1)] false (fun _ _ _ => none) (fun x d f L px py =>
    match d.pixel f px py with
    | .error e => (d, .error e)
    | .ok vs =>
      let p := (d.tileRequests f (f.s.tileAt px py)).readPixelOf x (laneBit L) f px py vs
      (p.1, .ok p.2))

/-- Some lanes write a staging tile that `g` changes; `marks` are the samples written, with what they held (R269). -/
def Dev.stageWrite (d : Dev) (x : Ix) (ls : LaneSet) (f : Surf) (px py : Nat) (marks : Stage → List (Nat × List Byte)) (g : Dev → Stage → Su Stage) :
    Dev × Su Nat :=
  let p := d.stageOf f (f.s.tileAt px py)
  match p.2 with
  | .error e => (p.1, .error e)
  | .ok s => match g p.1 s with
    | .error e => (d, .error e)
    | .ok s' => ((marks s).foldl (fun d m => d.writeMark x ls m.1 m.2) (p.1.setStage s'), .ok 0)

/-- The samples that an `sst` of a pixel writes: one access from the lowest channel of its mask to the highest (R266). -/
def sstMarks (f : Surf) (mode mask px py : Nat) (g : Stage) : List (Nat × List Byte) :=
  let on := (List.range f.s.nch).filter (fun ch => mask.testBit ch)
  match mode, on with
  | 0, lo :: _ => [(f.place g.tile px py lo, g.pixelBytes lo (on.getLastD lo + 1 - lo) px py)]
  | _, _ => []

/-- The samples that an `sstc` writes: those of one channel of its cell (R267). -/
def sstcMarks (f : Surf) (px py c : Nat) (g : Stage) : List (Nat × List Byte) :=
  (List.range 16).map (fun i =>
    let q := cellPixel (cellNo px py) i
    (f.place g.tile q.1 q.2 (bits c 20 2), g.pixelBytes (bits c 20 2) 1 q.1 q.2))

/-- Whether an `sst` operand breaks R266. -/
def sstBad (mode c : Nat) : Bool :=
  match mode with
  | 1 => decide ((signed 16 c).natAbs > 2047 ∨ (signed 16 (c / 2 ^ 16)).natAbs > 2047)
  | 2 => decide (c ≥ 2)
  | _ => false

def Dev.sst (d : Dev) (o : OpW) : Dev :=
  let mode := o.ty.code.toNat % 4
  let c := fun (x : Ix) L => (x.val o .n32 o.c L).toNat
  d.surfLanes o [] [(o.a, 1), (o.b, 1), (o.c, 1)] true
    (fun x f L => if sstBad mode (c x L) then some ⟨0x0F7, f.no, c x L⟩ else none)
    (fun x d f L px py => d.stageWrite x (laneBit L) f px py (sstMarks f mode o.sub (px % 16) (py % 16))
      (fun _ g => .ok (g.sst f.s mode o.sub (px % 16) (py % 16) (c x L))))

/-- Whether an `sstc` operand breaks R267. -/
def sstcBad (s : Slot) (c : Nat) : Bool := decide (c ≥ 2 ^ 22 ∨ (signed 16 c).natAbs > 16383 ∨ bits c 20 2 ≥ s.nch)

def Dev.sstc (d : Dev) (o : OpW) : Dev :=
  let c := fun (x : Ix) L => (x.val o .n32 o.c L).toNat
  d.surfLanes o [] [(o.a, 1), (o.b, 1), (o.c, 1)] true
    (fun x f L => if sstcBad f.s (c x L) then some ⟨0x0F8, f.no, c x L⟩ else none)
    (fun x d f L px py =>
      let p := d.stageWrite x (laneBit L) f px py (sstcMarks f (px % 16) (py % 16) (c x L)) (fun d g => d.sstcAt f g (px % 16) (py % 16) (c x L))
      (((p.1.stage? f.key (f.s.tileAt px py)).map (p.1.predRequests f)).getD p.1, p.2))

/-! ### `sbind` (R264) -/

/-- Whether a descriptor breaks R250. -/
def descBad (r : List DWord) : Bool :=
  let w := recW r
  let n10 := (w 1).testBit 35
  bits (w 0) 56 8 != 0 || w 0 % 4096 != 0 || bits (w 1) 12 4 != 0 || bits (w 1) 28 4 != 0 || bits (w 1) 43 5 != 0
    || bits (w 1) 56 8 != 0 || bits (w 2) 32 32 != 0 || [3, 4, 5, 6, 7].any (fun k => w k != 0)
    || bits (w 1) 32 3 == 0 || decide (bits (w 1) 32 3 > (if n10 then 3 else 4))

/-- A fresh slot of a descriptor (R260). -/
def slotOf (r : List DWord) (depth : Nat) : Slot :=
  let s : Slot := ⟨r.getD 0 0, r.getD 1 0, r.getD 2 0, depth, 0, 0, 0, 0⟩
  { s with qcur := if s.ll then 0 else s.bqp }

/-- The depth that a descriptor's surface would have, or none when its chain breaks R251. -/
def Dev.chainDepth (d : Dev) (die vf no : Nat) (s : Slot) : Option Nat :=
  if s.isKey then some 0 else
  match d.surf? die vf s.pred with
  | none => none
  | some p =>
    if s.pred = no ∨ p.s.w ≠ s.w ∨ p.s.h ≠ s.h ∨ p.s.nch ≠ s.nch ∨ p.s.n10 ≠ s.n10 ∨ p.s.depth ≥ 7 then none else some (p.s.depth + 1)

/-- The virtual pages of a mapping table: address and bytes. -/
def Slot.tablePages (s : Slot) : List (Nat × Nat) := chunks s.mtab (8 * s.tiles)

/-- The physical pieces of a mapping table. -/
def Dev.tablePieces (d : Dev) (die vf : Nat) (acc : Acc) (s : Slot) : Su (List (Nat × Nat)) :=
  allSu (fun c => (d.tablePa die vf acc c.1).map (fun pa => (pa, c.2))) s.tablePages

/-- A resolve of a slot that is released fails with 0x0F0 (R264, R268). -/
def Dev.failResolves (d : Dev) (die vf no : Nat) : Dev :=
  d.ops.foldl (fun d o => match o.kind with
    | .resolve slot .. => if o.src.die = die ∧ o.src.vf = vf ∧ slot = no then d.failOp o 2 0x0F0 no 0 false 1 [] 0x0F5 else d
    | _ => d) d

/-- Release a slot: staging tiles go uncoded, the hold on the predecessor is dropped, its records die and its resolves
fail (R264). -/
def Dev.releaseSlot (d : Dev) (f : Surf) : Dev :=
  let d1 := match d.pred? f with
    | none => d
    | some p => d.modSlot p.key (fun s => { s with hold := s.hold - 1 })
  let d2 := (d1.segNos f.die).foldl (fun d i =>
    let s := d.seg f.die i
    d.setSeg f.die i { s with recs := s.recs.filter (fun r => r.2.2.2 != f.key + 1) }) d1
  ({ d2 with
      stages := d2.stages.filter (·.slot != f.key)
      slots := put none d2.slots f.key none
      past := d2.past.map (fun (w : Write) => if w.spans (samplePlace f.key 0 0 0) (2 ^ 28) then w.gone else w) }).failResolves f.die f.vf f.no

/-- Some lanes bind a slot: every entry of its table becomes invalid, by a write of theirs, and they write every sample of the slot (R264). No
read goes behind that write (log 4). -/
def Dev.bindSlot (d : Dev) (x : Ix) (ls : LaneSet) (no : Nat) (s : Slot) (ps : List (Nat × Nat)) : Dev :=
  let y := x.x
  let key := slotKey y.die y.vf no
  let d := ps.foldl (fun d p => (unitsOf 64 p.1 p.2).foldl (fun d u => d.l2 y.die y.vf false (u / 2))
    (d.writeAt x ls .st (.g p.1 true) (List.replicate p.2 0) 0)) d
  let d := if s.isKey then d else d.modSlot (slotKey y.die y.vf s.pred) (fun p => { p with hold := p.hold + 1 })
  let d := d.writeMark x ls (bindPlace key) [0]
  let v := d.viewAt x ls
  { d.modWarp x.g x.wi (·.meet ls (samplePlace key 0 0 0) (2 ^ 28) v) with slots := put none d.slots key (some s) }

/-- The descriptor at an address, checked, with the physical pieces of its table. -/
def Dev.readDesc (d : Dev) (x : Ix) (ls : LaneSet) (no a : Nat) : Dev × Except Flt (Slot × List (Nat × Nat)) :=
  let p := d.arrRead x ls a 64
  match p.2 with
  | .error f => (p.1, .error f)
  | .ok v =>
    let r := (List.range 8).map (fun k => BitVec.ofNat 64 (bits v (64 * k) 64))
    if descBad r then (p.1, .error ⟨0x0F1, no, a⟩) else
    let s := slotOf r 0
    match p.1.chainDepth x.x.die x.x.vf no s with
    | none => (p.1, .error ⟨0x0F2, no, s.pred⟩)
    | some n => match p.1.tablePieces x.x.die x.x.vf .st s with
      | .error f => (p.1, .error f)
      | .ok ps => (p.1, .ok ({ s with depth := n }, ps))

def Dev.sbind (d : Dev) (o : OpW) : Dev :=
  d.scalarAct o [] [(o.a, 1)] (fun d x =>
    let no := o.immBits 0 8
    let a := (x.sval o o.a).toNat
    let old := d.surf? x.x.die x.x.vf no
    let held := (old.map (·.s.hold)).getD 0
    if held ≠ 0 then (d, .fault ⟨0x0F3, no, held⟩) else
    let release := fun (d : Dev) => match old with
      | some f => d.releaseSlot f
      | none => d
    if a = 0 then (release d, .done) else
    let p := d.readDesc x (x.guard o) no a
    match p.2 with
    | .error f => (p.1, .fault f)
    | .ok (s, ps) => ((release p.1).bindSlot x (x.guard o) no s ps, .done))

/-! ### `sres` (R268) -/

/-- The rectangle of an `sres`: tx0, ty0, tx1 and ty1. -/
def sresRect (s : Slot) (all : Bool) (b : Nat) : Option (Nat × Nat × Nat × Nat) :=
  if all then some (0, 0, s.tw - 1, s.th - 1) else
  let r := (bits b 0 8, bits b 8 8, bits b 16 8, bits b 24 8)
  if b ≥ 2 ^ 32 ∨ r.2.2.1 < r.1 ∨ r.2.2.2 < r.2.1 ∨ r.2.2.1 ≥ s.tw ∨ r.2.2.2 ≥ s.th then none else some r

/-- The tiles of a rectangle, ascending. -/
def rectTiles (s : Slot) (tx0 ty0 tx1 ty1 : Nat) : List Nat :=
  (List.range (ty1 + 1 - ty0)).flatMap (fun j => (List.range (tx1 + 1 - tx0)).map (fun i => (ty0 + j) * s.tw + tx0 + i))

/-- A table page of some tiles that the arrival meets with V = 0. -/
def Dev.tableGap (d : Dev) (f : Surf) (ts : List Nat) : Option Flt :=
  ts.findSome? (fun t => match d.tablePa f.die f.vf (.ld false) (f.entryVa t) with
    | .error e => if e.cause = 0x0F5 then some e else none
    | .ok _ => none)

def Dev.sres (d : Dev) (o : OpW) : Dev :=
  let all := o.sub % 2 == 1
  d.scalarAct o [] ((o.a, 1) :: (if all then [] else [(o.b, 1)])) (fun d x =>
    let no := o.immBits 0 8
    match d.surf? x.x.die x.x.vf no with
    | none => (d, .fault ⟨0x0F0, no, 0⟩)
    | some f =>
      if f.s.hold ≠ 0 then (d, .fault ⟨0x0F3, no, f.s.hold⟩) else
      let b := (x.sval o o.b).toNat
      match sresRect f.s all b with
      | none => (d, .fault ⟨0x0F9, no, b⟩)
      | some (tx0, ty0, tx1, ty1) => match d.tableGap f (rectTiles f.s tx0 ty0 tx1 ty1) with
        | some e => (d, .fault e)
        | none =>
          (d.fork (x.origin (x.guard o)) (bits (x.sval o o.a).toNat 3 53 * 8) (.resolve no tx0 ty0 tx1 ty1 0), .done))

/-- Whether a tile needs a final coding, and its staging tile then (R268); what it reads to find that out is counted (R401). -/
def Dev.resolveStage (d : Dev) (f : Surf) (tile : Nat) : Dev × Su (Option Stage) :=
  match d.stage? f.key tile with
  | some g => (d, .ok (some g))
  | none => match d.tileRec f tile with
    | .error e => (d, .error e)
    | .ok none => (d.recordRequests f tile, .ok none)
    | .ok (some r) =>
      if !r.prov then (d.recordRequests f tile, .ok none) else
      let p := d.stageOf f tile
      (p.1, p.2.map some)

/-- A resolve visits one tile: it codes it when it needs coding, and only then waits for a segment. -/
def Dev.resolveTile (d : Dev) (o : Origin) (f : Surf) (tile : Nat) : Dev × Option Flt :=
  let p := d.resolveStage f tile
  match p.2 with
  | .error e => (d, some e)
  | .ok none => (p.1, none)
  | .ok (some g) =>
    if d.homeStalled (homeKey f.key tile) then (d, some ⟨0x0FC, f.no, tile⟩) else
    let r := p.1.finalCode o f g
    match r.2 with
    | some e => (if e.cause = 0x0FC then r.1 else d, some e)
    | none => (r.1, none)

/-- RESOLVE_TILE_CODING: the next tile of a resolve, or its final arrival after the last, which meets V = 0 or another memory
fault under the codes of its tables (log 16). While a successor holds the slot nothing of it is coded (R253): the resolve waits (DESIGN
CHOICE, log 17). -/
def Dev.resolveStep (d : Dev) (id : Nat) : Dev :=
  match d.op? id with
  | none => d
  | some op => match op.kind, op.stall with
    | .resolve no tx0 ty0 tx1 ty1 next, none =>
      match d.surf? op.src.die op.src.vf no with
      | none => d.failOp op 2 0x0F0 no 0 false 1 [] 0x0F5
      | some f => match (rectTiles f.s tx0 ty0 tx1 ty1)[next]? with
        | none =>
          let a := d.arrival op.src 2 op.done 1 false
          (match a.2 with
          | .ok _ => a.1.dropOp id
          | .error e => match e.isV0, e with
            | true, .mem c va => d.stallOp op 0x0F5 c va
            | _, .mem c va => d.failOp op 2 0x0F4 c va false 1 [] 0x0F5
            | _, .own c p q => d.failOp op 2 c p q false 1 [] 0x0F5)
        | some tile =>
          if f.s.hold ≠ 0 then d else
          let p := d.resolveTile op.src f tile
          match p.2 with
          | none => p.1.modOp id (fun o => { o with kind := .resolve no tx0 ty0 tx1 ty1 (next + 1) })
          | some e =>
            if e.cause = 0x0F5 ∨ e.cause = 0x0FC then p.1.stallOp op e.cause e.d5 e.d6
            else p.1.failOp op 2 e.cause e.d5 e.d6 false 1 [] 0x0F5
    | _, _ => d

/-! ### The meanings -/

def execSbind (f : FWord) (s : State) := s.onDev (·.sbind (fop f))
def execSld (f : FWord) (s : State) := s.onDev (·.sld (fop f))
def execSst (f : FWord) (s : State) := s.onDev (·.sst (fop f))
def execSstc (f : FWord) (s : State) := s.onDev (·.sstc (fop f))
def execSres (f : FWord) (s : State) := s.onDev (·.sres (fop f))
def execResolveTileCoding (op : Nat) (s : State) := s.onDev (·.resolveStep op)

end Sys2Proof.Machine
end

