-- ==== Sys2Proof/Machine/Render.lean ====
section
/-!
DEFINITION. The rendering pipeline (R272 to R286): draws, the culls and exports of primitive assembly, reprojection,
raster, the shading groups, the blender and the end of a draw, the intersections, and the codes of R387 and R388.
-/
namespace Sys2Proof.Machine

/-! ### The draw descriptor (R272) -/

/-- The accessors of a descriptor's dwords. -/
def Draw.word (r : Draw) (k : Nat) : Nat := recW r.desc k
def Draw.slot (r : Draw) : Nat := bits (r.word 0) 0 8
def Draw.blend (r : Draw) : Bool := (r.word 0).testBit 8
def Draw.rp (r : Draw) : Bool := (r.word 0).testBit 9
def Draw.sh (r : Draw) : Bool := (r.word 0).testBit 10
def Draw.tr (r : Draw) : Bool := (r.word 0).testBit 11
def Draw.dt (r : Draw) : Bool := (r.word 0).testBit 12
def Draw.bm (r : Draw) : Nat := if r.blend then bits (r.word 0) 13 2 else 0
def Draw.seq (r : Draw) : Nat := bits (r.word 0) 16 32
def Draw.npk (r : Draw) : Nat := bits (r.word 0) 48 16
/-- The address of a buffer: D3 vbc, D4 vbp, D5 hz, D6 cmap, D7 mv, D8 tl. -/
def Draw.buf (r : Draw) (k : Nat) : Nat := bits (r.word k) 0 56
def Draw.tlcap (r : Draw) : Nat := bits (r.word 9) 0 32
def Draw.tol (r : Draw) : Word := BitVec.ofNat 32 (bits (r.word 9) 32 32)
def Draw.done (r : Draw) : Nat := bits (r.word 10) 3 53 * 8
def Draw.rcl (r : Draw) : List Nat := (List.range 12).filter (fun c => (r.word 12).testBit (32 + c))

/-- The launch record that stands for the pixel kernel on a cluster (R272, R280). -/
def Draw.kernel (r : Draw) (cl : Nat) : LaunchRec :=
  let cores := 0xFF * 2 ^ (8 * cl)
  { d0 := BitVec.ofNat 64 (r.buf 1), d1 := BitVec.ofNat 64 (r.buf 2), d2 := BitVec.ofNat 64 (r.word 11 / 2 ^ 32 * 2 ^ 32 + 1)
    d3 := BitVec.ofNat 64 (bits (r.word 12) 0 9 + cores % 2 ^ 32 * 2 ^ 32), d4 := BitVec.ofNat 64 (cores / 2 ^ 32), d5 := 0, d6 := 0, d7 := 0 }

/-- Whether the depth test is made early (R279). -/
def Draw.early (r : Draw) : Bool := (r.word 11).testBit 58 && (r.word 11).testBit 59

/-- The key of a draw's target. -/
def Draw.target (r : Draw) : Nat := slotKey r.die r.vf r.slot

/-- Whether a descriptor breaks R272, but for its slot and clusters; `pres` is not held to the limit on g of R67 (DESIGN CHOICE,
log 24). -/
def drawBad (w : Nat → Nat) (f : Surf) : Bool :=
  bits (w 0) 15 1 != 0 || bits (w 0) 13 2 == 3 || (bits (w 0) 13 2 == 1 && (f.s.n10 || decide (f.s.nch < 2))) || bits (w 0) 48 16 == 0
    || [1, 2, 3, 4, 5, 6, 7, 8].any (fun k => bits (w k) 56 8 != 0) || bits (w 10) 0 3 != 0 || bits (w 10) 56 8 != 0
    || bits (w 11) 61 3 != 0 || bits (w 11) 32 11 != 32 || bits (w 12) 9 23 != 0 || bits (w 12) 44 20 != 0
    || [13, 14, 15].any (fun k => w k != 0)

/-- The draw under way that a descriptor address names for a function on a die. -/
def Dev.drawAt (d : Dev) (die vf addr : Nat) : Option Draw :=
  d.draws.find? (fun r => r.die == die && r.vf == vf && r.addr == addr)
def Dev.draw? (d : Dev) (id : Nat) : Option Draw := d.draws.find? (·.id == id)

/-- The packet number of a warp (R273). -/
def Ix.packet (x : Ix) : Nat := x.x.gid * x.x.lr.nwarps + x.wi

/-- A fresh draw of some lanes: what happens before its write of `drawd` happens before all that it does (R283). -/
def newDraw (d : Dev) (x : Ix) (ls : LaneSet) (addr : Nat) (desc : List DWord) : Draw :=
  let know := d.knownTo x.g x.wi ls
  { id := d.nextId, addr := addr, desc := desc, vf := x.x.vf, die := x.x.die, queue := x.x.queue, grid := x.x.grid
    src := { x.origin x.iss with op := d.nextId }, closed := [], counts := [], exports := [], reproj := [], rastered := [], shaded := [], frags := []
    vecsSet := [], hzKnow := [], failed := false, stall := none, started := d.now, view := ⟨know, know, [], 0⟩ }

/-- The refusal of a descriptor (R387). -/
def Dev.drawRefuse (d : Dev) (x : Ix) (desc : List DWord) : Option Flt :=
  let w := recW desc
  let rcl := (List.range 12).filter (fun c => (w 12).testBit (32 + c))
  match d.surf? x.x.die x.x.vf (bits (w 0) 0 8) with
  | none => some ⟨0x100, 0, 0⟩
  | some f =>
    if drawBad w f || rcl.isEmpty || rcl.any (fun c => !d.inPart (12 * x.x.die + c) (d.ptn x.x.vf)) then some ⟨0x100, 0, 0⟩
    else if x.packet ≥ bits (w 0) 48 16 then some ⟨0x101, 0, 0⟩ else none

/-- Whether every packet of a draw has closed. -/
def Draw.isClosed (r : Draw) : Bool := (List.range r.npk).all r.closed.contains
/-- Whether a draw has failed and made its final arrival. -/
def Draw.over (r : Draw) : Bool := r.failed && r.stall.isNone

/-- Failed draws are forgotten once no packet of theirs can come any more. -/
def Dev.dropDraws (d : Dev) : Dev :=
  { d with draws := d.draws.filter (fun r => !(r.over && (r.isClosed || (d.grid? r.grid).isNone))) }

/-- A warp takes part in a draw, with an open packet (R273). -/
def Dev.enterDraw (d : Dev) (x : Ix) (v : BitVec 56) (id : Nat) : Dev :=
  (d.modDraw id (fun r => { r with closed := r.closed.filter (· != x.packet) })).modWarp x.g x.wi
    (fun w => { w with drawd := v, draw := some id, drawn := if w.drawn.contains id then w.drawn else id :: w.drawn })

/-- A write of `drawd` by the arrival of some lanes: it reads the descriptor, and the warp takes part in its draw (R273); a draw
that has failed keeps the packets that name it (R388). -/
def Dev.setDrawd (d : Dev) (x : Ix) (ls : LaneSet) (v : BitVec 56) : Dev × Scalar :=
  let p := d.dropDraws.arrRead x ls v.toNat 128
  match p.2 with
  | .error f => (p.1, .fault f)
  | .ok n =>
    let desc := (List.range 16).map (fun k => (BitVec.ofNat 64 (bits n (64 * k) 64) : DWord))
    match p.1.drawRefuse x desc with
    | some f => (p.1, .fault f)
    | none =>
      let fresh := ({ p.1 with draws := newDraw p.1 x ls v.toNat desc :: p.1.draws, nextId := p.1.nextId + 1 }).enterDraw x v p.1.nextId
      match p.1.drawAt x.x.die x.x.vf v.toNat with
      | some r => if r.failed && r.desc.headD 0 != desc.headD 0 then (fresh, .done) else (p.1.enterDraw x v r.id, .done)
      | none => (fresh, .done)

/-! ### Screen tiles and the order of draws (R273, R282) -/

def screenW (s : Slot) : Nat := (s.w + 31) / 32
def screenH (s : Slot) : Nat := (s.h + 31) / 32
/-- The number of screen tiles. -/
def screenTiles (s : Slot) : Nat := screenW s * screenH s
/-- The cluster whose raster unit serves a screen tile. -/
def Draw.cluster (r : Draw) (s : Slot) (tile : Nat) : Nat :=
  r.rcl.getD ((tile % screenW s + tile / screenW s) % r.rcl.length) 0
/-- The pixels of a screen tile, row by row. -/
def tilePixels (s : Slot) (tile : Nat) : List (Nat × Nat) :=
  (List.range 32).flatMap (fun j => (List.range 32).filterMap (fun i =>
    let p := (tile % screenW s * 32 + i, tile / screenW s * 32 + j)
    if p.1 < s.w ∧ p.2 < s.h then some p else none))

/-- The lowest open packet. -/
def Draw.lowestOpen (r : Draw) : Option Nat := (List.range r.npk).find? (fun k => !r.closed.contains k)
/-- The order of an export or a fragment within its draw. -/
def orderOf (packet n : Nat) : Nat := packet * 2 ^ 32 + n
/-- Whether an export has been rasterised at a tile. -/
def Draw.isRastered (r : Draw) (tile : Nat) (e : Export) : Bool := (look [] r.rastered tile).contains (e.packet, e.n)
/-- The next export to rasterise at a tile. -/
def Draw.nextExport (r : Draw) (tile : Nat) : Option Export :=
  leastBy (fun e => orderOf e.packet e.n) (r.exports.filter (fun e => e.tiles.contains tile && !r.isRastered tile e))
/-- Whether all of a draw has been applied at a tile; a failed one counts as applied (R388). -/
def Draw.appliedAt (r : Draw) (tile : Nat) : Bool :=
  r.failed || (r.isClosed && (!r.rp || r.reproj.contains tile) && (r.nextExport tile).isNone && (look [] r.frags tile).isEmpty
    && (r.blend || !r.sh || r.shaded.contains tile))
/-- Whether every earlier draw of the target has been applied at a tile. -/
def Dev.earlierApplied (d : Dev) (r : Draw) (tile : Nat) : Bool :=
  d.draws.all (fun o => o.target != r.target || decide (o.seq ≥ r.seq) || o.appliedAt tile)
/-- The primitives in the reorder window of a tile of a target: those exported and not yet applied there. -/
def Dev.windowAt (d : Dev) (target tile : Nat) : Nat :=
  ((d.draws.filter (fun r => r.target == target && !r.failed)).map (fun r =>
    (r.exports.filter (fun e => e.tiles.contains tile && (!r.isRastered tile e
      || (look [] r.frags tile).any (fun p => p.order == orderOf e.packet e.n)))).length)).foldl (· + ·) 0

/-! ### Positions (R274) -/

/-- The index of a vertex in a triangle word. -/
def triIndex (w : Word) (k : Nat) : Nat := bits w.toNat (8 * k) 6
/-- Whether a triangle word has a reserved bit set. -/
def triBad (w : Word) : Bool := (w &&& 0xFFC0C0C0) != 0

/-- What a lane's read of its positions gives: vertices, a wait on presence, or a fault. -/
inductive PosRead where
  | verts (vs : List Vert) | wait (sum : Nat) (lines : List Nat) | fault (f : Flt)
  deriving DecidableEq, Repr

/-- A vertex from its 16 bytes. -/
def vertOf (v : Nat) : Vert := ⟨BitVec.ofNat 32 v, BitVec.ofNat 32 (v / 2 ^ 32), BitVec.ofNat 32 (v / 2 ^ 64), BitVec.ofNat 32 (v / 2 ^ 96)⟩

/-- Read the three records of a triangle in a lane as `lsp` does, word by word. -/
def Dev.readVerts (d : Dev) (x : Ix) (L base : Nat) (tri : Word) : Dev × PosRead :=
  let at_ := (List.range 3).map (fun k => base + 16 * triIndex tri k)
  match at_.find? (fun a => decide (a ≥ 2 ^ 21 ∨ a ≥ x.x.lr.window)) with
  | some a => (d, .fault ⟨0x085, a, 0⟩)
  | none => match at_.find? (fun a => !(d.awaited x a 16).isEmpty) with
    | some a => (d, .wait a (unitsOf 128 a 16))
    | none => match at_.findSome? (fun a => (d.sramBad (scratchGran x.g) true a 16).map (fun g => (a, g))) with
      | some (a, g) => (d, .fault ⟨0x171, a, 8 * g⟩)
      | none =>
        let d := d.presenceJoin x (laneBit L) (at_.flatMap (fun a => unitsOf 128 a 16))
        let p := at_.foldl (fun (r : Dev × List Vert) a =>
          let q := r.1.readWords x (laneBit L) (.sp a) 16 4
          (q.1, r.2 ++ [vertOf (ofBytes q.2)])) (d, [])
        (p.1, .verts p.2)

/-- The refusal of a cull or an export in a lane (R387). -/
def Dev.triRefuse (d : Dev) (o : OpW) (x : Ix) (L : Nat) : Option Flt :=
  if triBad ((x.val o .n32 o.b L).setWidth 32) then some ⟨0x102, 0, 0⟩
  else if (x.w.draw.bind d.draw?).isNone then some ⟨0x103, 0, 0⟩
  else if (x.sval o o.a).toNat % 16 ≠ 0 then some ⟨0x104, 0, 0⟩ else none

/-! ### The lanes of a cull or an export -/

/-- The lanes so far: results, faults, and those that rest with their reasons. -/
structure TriSt where
  d : Dev
  vals : List (Nat × Bool)
  bad : List (Nat × Flt)
  rests : List (Nat × RestWhy)
  deriving DecidableEq, Repr

/-- What one lane does with its vertices. -/
inductive TriRes where
  | val (b : Bool) | fault (f : Flt) | rest
  deriving DecidableEq, Repr

/-- One lane; after a lane that rests the later ones rest with it, so that exports keep their order (log 18). -/
def TriSt.lane (o : OpW) (x : Ix) (hold : Bool) (act : Dev → Nat → Draw → List Vert → Dev × TriRes) (m : TriSt) (L : Nat) : TriSt :=
  let rest := fun (m : TriSt) (why : RestWhy) => { m with rests := m.rests ++ [(L, why)] }
  if hold && !m.rests.isEmpty then rest m ((m.rests.head?.map (·.2)).getD .other) else
  match m.d.triRefuse o x L, x.w.draw.bind m.d.draw? with
  | some f, _ => { m with bad := m.bad ++ [(L, f)] }
  | none, none => m
  | none, some r =>
    match m.d.readVerts x L (x.sval o o.a).toNat ((x.val o .n32 o.b L).setWidth 32) with
    | (d, .fault f) => { m with d := d, bad := m.bad ++ [(L, f)] }
    | (d, .wait s ls) => rest { m with d := d } (.presence s ls)
    | (d, .verts vs) => match act d L r vs with
      | (d, .val b) => { m with d := d, vals := m.vals ++ [(L, b)] }
      | (d, .fault f) => { m with d := d, bad := m.bad ++ [(L, f)] }
      | (d, .rest) => rest { m with d := d } .other

/-- An instruction over triangles. -/
def Dev.triLanes (d : Dev) (o : OpW) (ds srcs : List Use) (hold : Bool) (act : Ix → Dev → Nat → Draw → List Vert → Dev × TriRes) : Dev :=
  match d.ix with
  | none => d
  | some x =>
    let p := d.plan x o ds srcs (fun _ => none) (fun _ => false)
    let m := (lanesOf p.ok).foldl (TriSt.lane o x hold (act x)) ⟨d, [], [], []⟩
    let ok := setOf (m.vals.map (·.1))
    let rs := setOf (m.rests.map (·.1))
    let d := (m.d.modWarp x.g x.wi (fun w => w.writeD o.d .n32 ok .g (fun L => ofBool ((m.vals.lookup L).getD false)))).mend x ds ok
    let d := ((m.rests.map (·.2)).eraseDups).foldl (fun d why => d.rest x (setOf ((m.rests.filter (·.2 == why)).map (·.1))) why) d
    let d := d.finish x (ok ||| rs) rs (p.bad ++ m.bad)
    if m.rests.isEmpty then d else d.presenceCheck x.g

/-! ### The culls (R275) -/

/-- The target of a draw. -/
def Dev.targetOf (d : Dev) (r : Draw) : Option Surf := d.surf? r.die r.vf r.slot
/-- The slot of a draw's target; while it is unbound the fields read 0 (log 18). -/
def Dev.slotOfDraw (d : Dev) (r : Draw) : Slot := ((d.targetOf r).map (·.s)).getD ⟨0, 0, 0, 0, 0, 0, 0, 0⟩

/-- A cull of screen positions. -/
def Dev.cull (d : Dev) (o : OpW) (test : Slot → List Vert → Bool) : Dev :=
  d.triLanes o [(o.d, 1)] [(o.a, 1), (o.b, 1)] false (fun _ d _ r vs => (d, .val (test (d.slotOfDraw r) vs)))

/-- The screen tiles that a bounding box touches. -/
def tilesOf (s : Slot) (b : BBox) : List Nat :=
  (touched 32 s.h b.y0 b.y1).flatMap (fun j => (touched 32 s.w b.x0 b.x1).map (fun i => j * screenW s + i))
/-- The 8 × 8 blocks that a bounding box touches. -/
def blocksOf (s : Slot) (b : BBox) : List Nat :=
  (touched 8 s.h b.y0 b.y1).flatMap (fun j => (touched 8 s.w b.x0 b.x1).map (fun i => j * ((s.w + 7) / 8) + i))

/-- Whether z exceeds the `hz` max of some blocks, each read as a plain load of a lane. -/
def Dev.hzExceeds (d : Dev) (x : Ix) (L hz : Nat) (z : Val) : List Nat → Dev × Except Flt Bool
  | [] => (d, .ok true)
  | b :: bs =>
    let p := d.arrRead x (laneBit L) (hz + 8 * b + 4) 4
    match p.2 with
    | .error f => (p.1, .error f)
    | .ok m =>
      let r := p.1.hzExceeds x L hz z bs
      match r.2 with
      | .error f => (r.1, .error f)
      | .ok y => (r.1, .ok (y && vLt (f32 (BitVec.ofNat 32 m)) z))

/-- `cullhz` in a lane: the `hz` writes of the reprojections that it waits for happen before its reads. A failed draw reprojects
nothing more, and no lane waits for it. -/
def Dev.hzLane (d : Dev) (x : Ix) (L : Nat) (r : Draw) (vs : List Vert) : Dev × TriRes :=
  let s := d.slotOfDraw r
  if vs.any Vert.nan then (d, .val true)
  else if !vs.all Vert.front then (d, .val false)
  else
    let ps := vs.map (·.screen s.w s.h)
    let b := bboxOf ps
    if r.rp && !r.failed && (tilesOf s b).any (fun t => !r.reproj.contains t) then (d, .rest) else
    let d := d.modWarp x.g x.wi (·.gain (laneBit L) ((tilesOf s b).foldl (fun m t => uni m (look [] r.hzKnow t)) []))
    let q := d.hzExceeds x L (r.buf 5) (leastZ ps) (blocksOf s b)
    match q.2 with
    | .error f => (q.1, .fault f)
    | .ok c => (q.1, .val c)

def Dev.cullhz (d : Dev) (o : OpW) : Dev :=
  d.triLanes o [(o.d, 1)] [(o.a, 1), (o.b, 1)] false (fun x d L r vs => d.hzLane x L r vs)

/-! ### Export (R276, R282) -/

/-- Whether an export must wait for room: a covered window is full and its packet is not the lowest open one. -/
def Dev.windowFull (d : Dev) (r : Draw) (packet : Nat) (tiles : List Nat) : Bool :=
  r.lowestOpen != some packet && tiles.any (fun t => decide (d.windowAt r.target t ≥ 64))

/-- The export of a lane; a failed draw takes none. -/
def Dev.exportLane (d : Dev) (x : Ix) (L : Nat) (r : Draw) (id : Word) (vs : List Vert) : Dev × TriRes :=
  let s := d.slotOfDraw r
  let poly := clipAll vs
  let know := d.knownTo x.g x.wi (laneBit L)
  if r.failed || poly.isEmpty then (d, .val true) else
  let tiles := tilesOf s (bboxOf (poly.map (·.screen s.w s.h)))
  if d.windowFull r x.packet tiles then (d, .rest) else
  (d.modDraw r.id (fun r =>
    let n := look 0 r.counts x.packet
    { r with exports := r.exports ++ [⟨x.packet, n, id, vs, fanOf poly, tiles, know⟩], counts := put 0 r.counts x.packet (n + 1) }), .val true)

/-- `pexp.fin`: the warp's packet of its current draw closes. -/
def Dev.pexpFin (d : Dev) (o : OpW) : Dev :=
  d.laneAct o [] [] (fun x _ => if (x.w.draw.bind d.draw?).isNone then some ⟨0x103, 0, 0⟩ else none) (fun d x ok =>
    if ok = 0 then (d, 0) else
    ((d.closePacket x.x x.wi { x.w with drawn := x.w.draw.toList }).modWarp x.g x.wi (fun w =>
      { w with draw := none, drawn := w.drawn.filter (fun i => x.w.draw != some i) }), 0))

def Dev.pexp (d : Dev) (o : OpW) : Dev :=
  if o.sub % 2 = 1 then d.pexpFin o else
  d.triLanes { o with d := .zero } [] [(o.a, 1), (o.b, 1), (o.c, 1)] true (fun x d L r vs =>
    d.exportLane x L r ((x.val o .n32 o.c L).setWidth 32) vs)

/-! ### Buffers of the raster units -/

/-- The agent of a draw at a screen tile: the raster unit that serves it (R180). -/
def Draw.at_ (r : Draw) (s : Slot) (tile : Nat) : Origin := { r.src with cl := r.cluster s tile }

/-- Read and write a little-endian word of `n` bytes: each is one request for each of its sectors (R401, log 18). -/
def Dev.rd (d : Dev) (o : Origin) (a n : Nat) : Er Nat := (d.eread o a n).andThen (fun d bs => (d.ecount o 0 [(a, n)], .ok (ofBytes bs)))
def Dev.wr (d : Dev) (o : Origin) (a n v : Nat) : Er Unit := (d.ewrite o 2 a (toBytes n v)).andThen (fun d _ => (d.ecount o 0 [(a, n)], .ok ()))

/-- Add 1 to a word as an atomic at its home; the old value. -/
def Dev.bump (d : Dev) (o : Origin) (a : Nat) : Er Nat :=
  (d.epage o.vf o.die .rmw .plain a).andThen (fun d t =>
    if (d.badAt t.2.2 4).isSome then (d, .error (.mem 0x170 a)) else
    let p := d.engineRead o t.2.2 (Memory.readBytes d.mem t.2.2 4)
    let n := ofBytes p.2
    (((p.1.requests o.vf t.2.2 4 o.die).poke { p.1.ewho o 2 with rmw := true } t.2.2 (toBytes 4 (n + 1))).opWrote o d.past.length, .ok n))

/-- Work of a draw's thread that some writes happen before, as they need not before its other work (R283). -/
def Dev.withKnow (d : Dev) (o : Origin) (ids : List Nat) (work : Dev → Er Unit) : Er Unit :=
  let know := (d.opView o).know
  (work (d.modView o (·.gain ids))).andThen (fun d _ => (d.modView o (fun v => { v with know := know }), .ok ()))

/-- A pixel of a visibility buffer: depth and id word. -/
def pixelAddr (base : Nat) (s : Slot) (x y : Nat) : Nat := base + 8 * (y * s.w + x)
def Dev.readPixel (d : Dev) (o : Origin) (base : Nat) (s : Slot) (x y : Nat) : Er (Word × Word) :=
  (d.rd o (pixelAddr base s x y) 8).andThen (fun d v => (d, .ok (BitVec.ofNat 32 v, BitVec.ofNat 32 (v / 2 ^ 32))))
def Dev.writePixel (d : Dev) (o : Origin) (base : Nat) (s : Slot) (x y : Nat) (z id : Word) : Er Unit :=
  d.wr o (pixelAddr base s x y) 8 (z.toNat + id.toNat * 2 ^ 32)

/-- Rebuild the `hz` entry of a block from `vbc`. -/
def Dev.rebuildHz (d : Dev) (o : Origin) (r : Draw) (s : Slot) (b : Nat) : Er Unit :=
  let bw := (s.w + 7) / 8
  let ps := (List.range 64).filterMap (fun k =>
    let p := (b % bw * 8 + k % 8, b / bw * 8 + k / 8)
    if p.1 < s.w ∧ p.2 < s.h then some p else none)
  (Er.each (fun d (m : Option (Word × Word)) p => (d.readPixel o (r.buf 3) s p.1 p.2).andThen (fun d v =>
    (d, .ok (some (match m with
      | some m => (fMin m.1 v.1, fMax m.2 v.1)
      | none => (v.1, v.1)))))) ps d none).andThen (fun d m =>
    match m with
    | some m => d.wr o (r.buf 5 + 8 * b) 8 (m.1.toNat + m.2.toNat * 2 ^ 32)
    | none => (d, .ok ()))

/-- The blocks of some pixels, each once. -/
def blocksOfPixels (s : Slot) (ps : List (Nat × Nat)) : List Nat := (ps.map (fun p => p.2 / 8 * ((s.w + 7) / 8) + p.1 / 8)).eraseDups
/-- Rebuild the `hz` entries of the blocks of some pixels. -/
def Dev.rebuildAll (d : Dev) (o : Origin) (r : Draw) (s : Slot) (ps : List (Nat × Nat)) : Er Unit :=
  Er.each (fun d _ b => d.rebuildHz o r s b) (blocksOfPixels s ps) d ()

/-- The byte of the closed-pixel bitmap that holds a pixel. -/
def closedAddr (r : Draw) (s : Slot) (x y : Nat) : Nat := r.buf 6 + y * ((s.w + 7) / 8) + x / 8

/-- The motion vector of a block; without a motion table (0, 0). -/
def Dev.motion (d : Dev) (o : Origin) (r : Draw) (s : Slot) (bx by_ : Nat) : Er (Int × Int) :=
  if r.buf 7 = 0 then (d, .ok (0, 0)) else
  (d.rd o (r.buf 7 + 4 * (by_ * ((s.w + 7) / 8) + bx)) 4).andThen (fun d v => (d, .ok (signed 16 v, signed 16 (v / 2 ^ 16))))

/-! ### Reprojection (R277) -/

/-- The taps of a pixel. -/
def reprojTaps (v : Int × Int) (x y : Nat) : List (Int × Int) :=
  let hx := 2 * (x : Int) + v.1
  let hy := 2 * (y : Int) + v.2
  let fx := hx % 2 = 1
  let fy := hy % 2 = 1
  let i := hx / 2
  let j := hy / 2
  [(i, j)] ++ (if fx then [(i + 1, j)] else []) ++ (if fy then [(i, j + 1)] else []) ++ (if fx ∧ fy then [(i + 1, j + 1)] else [])

/-- The id word of a pixel without a primitive. -/
def noId : Word := 0xFFFFFFFF

/-- Whether taps, the first of them a, are consistent. -/
def tapsPass (tol : Word) (ts : List (Word × Word)) : Bool :=
  match ts with
  | [] => false
  | a :: _ => ts.all (fun t => t.2 != noId && t.2.toNat / 2 ^ 24 == a.2.toNat / 2 ^ 24
      && vLe (vAbs (vSub (f32 t.1) (f32 a.1))) ((f32 tol).mul (vAbs (f32 a.1))))

/-- Append a pixel to the trace list. -/
def Dev.trace (d : Dev) (o : Origin) (r : Draw) (x y : Nat) : Er Unit :=
  (d.bump o (r.buf 8)).andThen (fun d n =>
    if n < r.tlcap then d.wr o (r.buf 8 + 4 + 4 * n) 4 (x ||| y * 2 ^ 16) else (d, .ok ()))

/-- Reproject one pixel. -/
def Dev.reprojPixel (d : Dev) (o : Origin) (r : Draw) (s : Slot) (p : Nat × Nat) : Er Unit :=
  (d.motion o r s (p.1 / 8) (p.2 / 8)).andThen (fun d v =>
    let ts := reprojTaps v p.1 p.2
    let inside := ts.all (fun t => decide (0 ≤ t.1 ∧ t.1 < s.w ∧ 0 ≤ t.2 ∧ t.2 < s.h))
    (if inside then Er.each (fun d l t => (d.readPixel o (r.buf 4) s t.1.toNat t.2.toNat).andThen (fun d v => (d, .ok (l ++ [v])))) ts d []
      else (d, .ok [])).andThen (fun d vs =>
    let pass := tapsPass r.tol vs
    let new := if pass then vs.headD (0, noId) else (0x7F800000, noId)
    (d.writePixel o (r.buf 3) s p.1 p.2 new.1 new.2).andThen (fun d _ =>
    (d.rd o (closedAddr r s p.1 p.2) 1).andThen (fun d c =>
    let m := 2 ^ (p.1 % 8)
    (d.wr o (closedAddr r s p.1 p.2) 1 (c - (if c.testBit (p.1 % 8) then m else 0) + (if pass then m else 0))).andThen (fun d _ =>
    if pass || !r.tr then (d, .ok ()) else d.trace o r p.1 p.2)))))

/-- Reproject a screen tile. -/
def Dev.reprojTile (d : Dev) (r : Draw) (s : Slot) (tile : Nat) : Er Unit :=
  let o := r.at_ s tile
  (Er.each (fun d _ p => d.reprojPixel o r s p) (tilePixels s tile) d ()).andThen (fun d _ =>
  let n := d.past.length
  (d.rebuildAll o r s (tilePixels s tile)).andThen (fun d _ =>
    (d.modDraw r.id (fun r => { r with
      reproj := tile :: r.reproj
      hzKnow := put [] r.hzKnow tile (newIds n d.past) }), .ok ())))

/-! ### Raster (R278, R279) -/

/-- One fragment of an export: its visibility writes, and a fragment to shade in blend mode. -/
def Dev.rasterPixel (d : Dev) (o : Origin) (r : Draw) (s : Slot) (e : Export) (acc : List (Nat × Nat) × List Pending) (p : Nat × Nat) :
    Er (List (Nat × Nat) × List Pending) :=
  if !e.fan.any (triCovers s.w s.h p.1 p.2) then (d, .ok acc) else
  (d.rd o (closedAddr r s p.1 p.2) 1).andThen (fun d c =>
    if c.testBit (p.1 % 8) || (r.rp && r.tr) then (d, .ok acc) else
    let v := planeAt s.w s.h p.1 p.2 e.verts
    let frag : Pending := ⟨orderOf e.packet e.n, p.1, p.2, v.1, e.id, v.2.1, v.2.2, false, none, e.know⟩
    if r.blend && !r.early then (d, .ok (acc.1, acc.2 ++ [frag])) else
    (d.readPixel o (r.buf 3) s p.1 p.2).andThen (fun d old =>
      if r.dt && !fLt v.1 old.1 then (d, .ok acc) else
      (d.writePixel o (r.buf 3) s p.1 p.2 v.1 e.id).andThen (fun d _ =>
        (d, .ok (acc.1 ++ [p], if r.blend then acc.2 ++ [frag] else acc.2)))))

/-- Rasterise the next export of a tile: what happens before the `pexp` happens before its writes (R283). -/
def Dev.rasterExport (d : Dev) (r : Draw) (s : Slot) (tile : Nat) (e : Export) : Er Unit :=
  let o := r.at_ s tile
  d.withKnow o e.know (fun d =>
  (Er.each (fun d a p => d.rasterPixel o r s e a p) (tilePixels s tile) d ([], [])).andThen (fun d a =>
  (d.rebuildAll o r s a.1).andThen (fun d _ =>
    (d.modDraw r.id (fun r => { r with
      rastered := put [] r.rastered tile ((e.packet, e.n) :: look [] r.rastered tile)
      frags := put [] r.frags tile (look [] r.frags tile ++ a.2) }), .ok ()))))

/-- The fragments of a tile of a closed draw in visibility mode; the stored values hold no barycentrics, which are free
(log 18). Every export of the draw happens before their shading (R283). -/
def Dev.shadeTile (d : Dev) (r : Draw) (s : Slot) (tile : Nat) : Er Unit :=
  let o := r.at_ s tile
  let know := r.exports.foldl (fun m e => uni m e.know) []
  (Er.each (fun d (l : List Pending) p => (d.readPixel o (r.buf 3) s p.1 p.2).andThen (fun d v =>
    if v.2 = noId then (d, .ok l) else
    let b1 := d.fresh
    let b2 := b1.1.fresh
    (b2.1, .ok (l ++ [⟨orderOf r.npk (p.2 * s.w + p.1), p.1, p.2, v.1, v.2, BitVec.ofNat 32 b1.2, BitVec.ofNat 32 b2.2, false, none, know⟩]))))
    (tilePixels s tile) d []).andThen (fun d l =>
    (d.modDraw r.id (fun r => { r with shaded := tile :: r.shaded, frags := put [] r.frags tile l }), .ok ()))

/-- The next work of a raster unit at a tile, when its order allows it. -/
def Dev.rasterStep (d : Dev) (r : Draw) (s : Slot) (tile : Nat) : Er Unit :=
  if (r.rp && !r.reproj.contains tile) || !d.earlierApplied r tile then (d, .ok ()) else
  match r.nextExport tile with
  | some e => if (List.range e.packet).all r.closed.contains then d.rasterExport r s tile e else (d, .ok ())
  | none => if r.isClosed && !r.blend && r.sh && !r.shaded.contains tile then d.shadeTile r s tile else (d, .ok ())

/-! ### Shading (R280) -/

/-- The core row that a raster unit places on: the first that fits, going round from the row after the last. -/
def Dev.rasterRow (d : Dev) (die cl : Nat) (k : LaunchRec) : Option Nat :=
  let last := (look Clu.init d.clus (12 * die + cl)).raster
  ((List.range 8).map (fun i => (last + 1 + i) % 8)).find? (fun row => d.fits k (96 * die + 8 * cl + row))

/-- A warp of pixel-shader lanes at entry. -/
def Warp.shader (w : Warp) (fs : List Pending) : Warp :=
  let col := fun (f : Pending → Word) => VReg.g ((List.range 32).map (fun L => ((fs[L]?).map f).getD 0))
  { w with
    v := [(0, col (fun p => BitVec.ofNat 32 (p.x ||| p.y * 2 ^ 16))), (1, col (·.z)), (2, col (·.id)), (3, col (·.b1)), (4, col (·.b2))].foldl
      (fun m e => put (.u 0) m e.1 e.2) w.v
    frag := (List.range fs.length).foldl (fun m L => match fs[L]? with
      | some p => put none m L (some ⟨p.x, p.y, p.z, p.id, p.order, none, false, p.z⟩)
      | none => m) []
    view := (List.range fs.length).foldl (fun m L => match fs[L]? with
      | some p => put View.init m L ((look View.init m L).gain p.know)
      | none => m) w.view }

/-- The group that a raster unit can place now of the fragments of a tile: the fragments, the record and the core row. -/
def Dev.shaderSpot (d : Dev) (r : Draw) (s : Slot) (tile : Nat) : Option (List Pending × LaunchRec × Nat) :=
  let fs := ((look [] r.frags tile).filter (!·.placed)).take 32
  let cl := r.cluster s tile
  let k := { r.kernel cl with d2 := BitVec.ofNat 64 ((r.kernel cl).d2.toNat / 2 ^ 43 * 2 ^ 43 + fs.length * 2 ^ 32 + 1) }
  let q := d.queue r.queue
  if fs.isEmpty || q.preq || q.kill.isSome || !d.open? r.queue (12 * r.die + cl) then none
  else (d.rasterRow r.die cl k).map (fun row => (fs, k, row))

/-- Place that group; its group index is free (log 18). -/
def Dev.placeShader (d : Dev) (r : Draw) (s : Slot) (tile : Nat) : Dev :=
  match d.shaderSpot r s tile with
  | none => d
  | some (fs, k, row) =>
    let cl := r.cluster s tile
    let c := 12 * r.die + cl
    let p := d.fresh
    let d := p.1
    let x := d.newGroup d.nextId r.queue r.grid (p.2 % 2 ^ 32) r.vf (96 * r.die + 8 * cl + row) k
    let x := { x with pixel := some (r.id, tile), warps := x.warps.map (fun w => w.shader fs) }
    let keep := fs.map (fun p => (p.order, p.x, p.y))
    let d := (d.addGroup x).modDraw r.id (fun r => { r with
      frags := put [] r.frags tile ((look [] r.frags tile).map (fun p => if keep.contains (p.order, p.x, p.y) then { p with placed := true } else p)) })
    (d.modClu c (fun k => { k with raster := row })).settleOn c r.vf

/-! ### The blender (R281) -/

/-- One channel of a blend. -/
def blendCh (bm max α s t : Nat) (last : Bool) : Nat :=
  match bm with
  | 1 => if last then α + (t * (max - α) + max / 2) / max else (s * α + t * (max - α) + max / 2) / max
  | 2 => Nat.min (s + t) max
  | _ => s

/-- A vector that a tile header can hold; a component beyond ±2,047 is a free one (log 18). -/
def Dev.vecOk (d : Dev) (v : Int × Int) : Dev × (Int × Int) :=
  let one := fun (d : Dev) (c : Int) => if c.natAbs ≤ 2047 then (d, c) else (d.fresh.1, (d.fresh.2 % 4095 : Nat) - 2047)
  let a := one d v.1
  let b := one a.1 v.2
  (b.1, (a.2, b.2))

/-- What stops a draw: the code, D5 and D6, and whether it is a stall. -/
def drawStop (e : EFault) : Bool × Cause × Nat × Nat :=
  match e with
  | .mem c a => if e.isV0 then (true, 0x10B, c, a) else (false, 0x10A, c, a)
  | .own c a b => (c == 0x0F5 || c == 0x0FC, c, a, b)

/-- A surface read or write as an access of a raster unit. -/
def suEr {α : Type} (p : Dev × Su α) : Er α :=
  (p.1, match p.2 with
    | .ok a => .ok a
    | .error f => .error (.own f.cause f.d5 f.d6))

/-- The staging tile of a surface tile, given its vectors when it has not had them in this draw (R280). A block of an edge tile that lies
wholly beyond W or H has no entry in `mv`, and keeps the vector that it has (DESIGN CHOICE, log 18). -/
def Dev.drawStage (d : Dev) (o : Origin) (r : Draw) (f : Surf) (tile : Nat) : Er Stage :=
  (suEr (d.stageOf f tile)).andThen (fun d g =>
    if r.vecsSet.contains tile then (d, .ok g) else
    Er.each (fun d (g : Stage) b =>
      let bx := tile % f.s.tw * 2 + b % 2
      let by_ := tile / f.s.tw * 2 + b / 2
      if bx * 8 ≥ f.s.w ∨ by_ * 8 ≥ f.s.h then (d, .ok g) else
      (d.motion o r f.s bx by_).andThen (fun d v => ((d.vecOk v).1, .ok (g.putVec b (d.vecOk v).2)))) (List.range 4) d g)

/-- Write the colour of a fragment at its pixel, the samples by one write of the raster unit's thread (R269). -/
def Dev.blendPixel (d : Dev) (o : Origin) (r : Draw) (f : Surf) (p : Pending) (c : Nat) : Er Unit :=
  let tile := f.s.tileAt p.x p.y
  if d.homeStalled (homeKey f.key tile) then (d, .error (.own 0x0FC f.no tile))
  else if f.s.hold ≠ 0 then (d, .error (.own 0x0F3 f.no f.s.hold)) else
  (d.drawStage o r f tile).andThen (fun d g =>
    let s := fun ch => bits c (f.s.bpc * ch) f.s.bpc
    let α := s (f.s.nch - 1)
    let g' := (List.range f.s.nch).foldl (fun (h : Stage) ch =>
      h.putSample ch (p.x % 16) (p.y % 16) (blendCh r.bm f.s.max α (s ch) (g.sample ch (p.x % 16) (p.y % 16)) (ch + 1 == f.s.nch))) g
    (((d.setStage g').engineMarks o [(f.place tile (p.x % 16) (p.y % 16) 0, g.pixelBytes 0 f.s.nch (p.x % 16) (p.y % 16))]).modDraw r.id (fun r => { r with vecsSet := if r.vecsSet.contains tile then r.vecsSet else tile :: r.vecsSet }), .ok ()))

/-- The first fragment of a tile that has ended and that no earlier fragment of its pixel precedes. -/
def blendable (fs : List Pending) : Option Pending :=
  ((List.range fs.length).filterMap (fun i => match fs[i]? with
    | some p => if p.ended.isSome && (fs.take i).all (fun q => q.x != p.x || q.y != p.y) then some p else none
    | none => none)).head?

/-- Apply an ended fragment (R279, R281): what happens before its export, and every access of its shader lane, happens before the writes of
it (R283). -/
def Dev.applyFragment (d : Dev) (o : Origin) (r : Draw) (f : Surf) (p : Pending) : Er Unit :=
  match p.ended with
  | some (some c, z) => d.withKnow o p.know (fun d =>
    if r.blend && !r.early then
      (d.readPixel o (r.buf 3) f.s p.x p.y).andThen (fun d old =>
        if r.dt && !fLt z old.1 then (d, .ok ()) else
        (d.writePixel o (r.buf 3) f.s p.x p.y z p.id).andThen (fun d _ =>
        (d.rebuildAll o r f.s [(p.x, p.y)]).andThen (fun d _ => d.blendPixel o r f p c.toNat)))
    else d.blendPixel o r f p c.toNat)
  | _ => (d, .ok ())

/-- A fragment leaves the blender. -/
def Draw.dropFragment (r : Draw) (tile : Nat) (p : Pending) : Draw :=
  { r with frags := put [] r.frags tile ((look [] r.frags tile).filter (fun q => !(q.order == p.order && q.x == p.x && q.y == p.y))) }

def Dev.blendStep (d : Dev) (r : Draw) (f : Surf) (tile : Nat) : Er Unit :=
  match blendable (look [] r.frags tile) with
  | none => (d, .ok ())
  | some p => (d.applyFragment (r.at_ f.s tile) r f p).andThen (fun d _ => (d.modDraw r.id (·.dropFragment tile p), .ok ()))

/-! ### The end of a draw (R283, R388) -/

/-- A draw leaves the device; the warps that name it name no draw. -/
def Dev.endDraw (d : Dev) (id : Nat) : Dev := { d with draws := d.draws.filter (·.id != id) }

/-- A draw stalls: its record, and what it waits for (R380, log 23). -/
def Dev.stallDraw (d : Dev) (r : Draw) (c : Cause) (d5 d6 : Nat) : Dev :=
  (d.recordFor r.queue { r.src.record c d5 d6 with res := true, imp := true } { op := r.id }).1.modDraw r.id
    (fun r => { r with stall := some (c, d5, d6) })

/-- A failed draw makes its final arrival, and keeps nothing but its packets. An arrival that meets V = 0 stalls the draw there;
one that takes another fault is lost (R378, R380, log 16). -/
def Dev.failedArrival (d : Dev) (r : Draw) : Dev :=
  let a := d.arrival r.src 2 r.done 1 true
  let d := a.1.modDraw r.id (fun r => { r with failed := true, stall := none, exports := [], frags := [] })
  match a.2 with
  | .error (.mem c va) => if (EFault.mem c va).isV0 then d.stallDraw r 0x10B c va else d
  | _ => d

/-- A draw fails: ended fragments that had not been applied are applied or not, each as a free choice (R388). -/
def Dev.failDraw (d : Dev) (r : Draw) (c : Cause) (d5 d6 : Nat) (unres : Bool) : Dev :=
  let d := match d.targetOf r with
    | none => d
    | some f => (r.frags.flatMap (fun (e : Nat × List Pending) => e.2.map (fun p => (e.1, p)))).foldl (fun d (e : Nat × Pending) =>
        let b := d.freeBit
        if b.2 && e.2.ended.isSome then
          match d.applyFragment (r.at_ f.s e.1) r f e.2 with
          | (d2, .ok _) => d2
          | _ => b.1
        else b.1) d
  (d.record r.queue { r.src.record c d5 d6 with imp := true, unres := unres }).failedArrival r

/-- A draw whose work cannot go on stalls or fails. -/
def Dev.stopDraw (d : Dev) (r : Draw) (e : EFault) : Dev :=
  match drawStop e with
  | (true, c, d5, d6) => d.stallDraw r c d5 d6
  | (false, c, d5, d6) => d.failDraw r c d5 d6 false

/-- One step of a draw's work: nothing of it stands when it stops. A draw of a killed queue, or without a target, fails. -/
def Dev.drawWork (d : Dev) (id : Nat) (work : Dev → Draw → Surf → Er Unit) : Dev :=
  match d.draw? id with
  | none => d
  | some r =>
    if r.failed || r.stall.isSome then d
    else if (look Queue.init d.queues r.queue).kill.isSome then d.failDraw r 0x10A 0x031 0 false
    else match d.targetOf r with
    | none => d.failDraw r 0x0F0 r.slot 0 false
    | some f => match work d r f with
      | (d, .ok _) => d
      | (_, .error e) => d.stopDraw r e

def Dev.drawReproject (d : Dev) (id tile : Nat) : Dev :=
  d.drawWork id (fun d r f =>
    if r.rp && !r.reproj.contains tile && decide (tile < screenTiles f.s) && d.earlierApplied r tile then d.reprojTile r f.s tile
    else (d, .ok ()))

def Dev.drawRaster (d : Dev) (id tile : Nat) : Dev :=
  d.drawWork id (fun d r f => if tile < screenTiles f.s then d.rasterStep r f.s tile else (d, .ok ()))

def Dev.drawBlend (d : Dev) (id tile : Nat) : Dev := d.drawWork id (fun d r f => d.blendStep r f tile)

/-- DRAW_DONE: a closed draw whose every tile has been applied makes its final arrival (R283). -/
def Dev.drawDone (d : Dev) (id : Nat) : Dev :=
  d.drawWork id (fun d r f =>
    if (List.range (screenTiles f.s)).all r.appliedAt then
      (d.arrival r.src 2 r.done 1 false).andThen (fun d _ => (d.endDraw r.id, .ok ()))
    else (d, .ok ()))

/-! ### Pixel shaders (R281) -/

/-- The refusal of `pix`, `fdisc` and `fdep` (R387). -/
def fragRefuse (x : Ix) (off : Bool) : Option Flt :=
  if x.x.pixel.isNone then some ⟨0x105, 0, 0⟩ else if off then some ⟨0x106, 0, 0⟩ else none

/-- Change the fragment of some lanes. -/
def Dev.modFrags (d : Dev) (x : Ix) (ok : LaneSet) (f : Nat → Frag → Frag) : Dev :=
  d.modWarp x.g x.wi (fun w => { w with frag := (lanesOf ok).foldl (fun m L => put none m L ((look none m L).map (f L))) w.frag })

def Dev.pix (d : Dev) (o : OpW) : Dev :=
  d.laneAct o [] [(o.a, 1)] (fun x _ => fragRefuse x false) (fun d x ok =>
    (d.modFrags x ok (fun L f => { f with colour := some ((x.val o .n32 o.a L).setWidth 32) }), 0))
def Dev.fdisc (d : Dev) (o : OpW) : Dev :=
  d.laneAct o [] [] (fun x _ => fragRefuse x x.x.lr.nodisc) (fun d x ok => (d.modFrags x ok (fun _ f => { f with disc := true }), 0))
def Dev.fdep (d : Dev) (o : OpW) : Dev :=
  d.laneAct o [] [(o.a, 1)] (fun x _ => fragRefuse x x.x.lr.nodepth) (fun d x ok =>
    (d.modFrags x ok (fun L f => { f with depth := (x.val o .n32 o.a L).setWidth 32 }), 0))

/-! ### Intersections (R284, R285) -/

/-- Plain loads of the words at an address by some lanes, or of its bytes where it is no range of words, sector by sector; `seen` holds the sectors that the instruction has
touched. -/
def Dev.laneLoad (d : Dev) (x : Ix) (ls : LaneSet) (seen : List Nat) (a n : Nat) : Er (List Nat × List Byte) :=
  Er.each (fun d (s : List Nat × List Byte) u =>
    let lo := Nat.max a (64 * u)
    let k := Nat.min (a + n) (64 * u + 64) - lo
    let p := d.locate x.x 0 (.ld false) lo 1
    match p.2 with
    | .error f => (p.1, .error (.own f.cause f.d5 f.d6))
    | .ok l => match p.1.dataFault x.x (.ld false) lo k l with
      | some f => (p.1, .error (.own f.cause f.d5 f.d6))
      | none =>
        let q := (p.1.touch x.x (.ld false) l (!s.1.contains l.sector)).readWords x ls l k (if lo % 4 = 0 ∧ k % 4 = 0 then 4 else 1)
        (q.1, .ok (l.sector :: s.1, s.2 ++ q.2))) (unitsOf 64 a n) d (seen, [])

/-- The f32 values in some bytes. -/
def floatsOf (n : Nat) (bs : List Byte) : List Word := (List.range n).map (fun k => BitVec.ofNat 32 (ofBytes ((bs.drop (4 * k)).take 4)))

/-- Interpolate `n` values at `a + step × key` at the ray's time; box edges are widened when `widen` says which way. -/
def Dev.laneKeys (d : Dev) (x : Ix) (ls : LaneSet) (seen : List Nat) (a step k n : Nat) (t : Word) (widen : Nat → Word → Word) : Er (List Nat × List Word) :=
  if k = 1 then
    (d.laneLoad x ls seen a (4 * n)).andThen (fun d p => (d, .ok (p.1, floatsOf n p.2)))
  else
    let i := keyAt t k
    (d.laneLoad x ls seen (a + step * i.1) (4 * n)).andThen (fun d p =>
    (d.laneLoad x ls p.1 (a + step * (i.1 + 1)) (4 * n)).andThen (fun d q =>
      let u := floatsOf n p.2
      let v := floatsOf n q.2
      (d, .ok (q.1, (List.range n).map (fun j => widen j (lerpKey i.2 (u.getD j 0) (v.getD j 0)))))))

/-- The ray of a lane: nine registers from a. -/
def Ix.ray (x : Ix) (o : OpW) (L : Nat) : Ray :=
  let g := fun k => match o.a with
    | .v n => x.w.readV (n.toNat + k) L
    | _ => 0
  ⟨(g 0, g 1, g 2), (g 3, g 4, g 5), g 6, g 7, g 8⟩

/-- Whether every byte of a list is zero. -/
def allZero (bs : List Byte) : Bool := bs.all (· == 0)

/-- `isectb` in a lane: the results for d and d + 1. -/
def Dev.boxLane (d : Dev) (x : Ix) (ls : LaneSet) (r : Ray) (seen : List Nat) (a : Nat) : Er (List Nat × List Word) :=
  if a % 64 ≠ 0 then (d, .error (.own 0x109 0 0)) else
  (d.laneLoad x ls seen a 16).andThen (fun d h =>
    let n := (h.2.getD 0 0).toNat
    let k := (h.2.getD 1 0).toNat
    if n = 0 ∨ n > 4 ∨ k = 0 ∨ k > 8 ∨ !allZero (h.2.drop 2) then (d, .error (.own 0x107 0 0)) else
    (Er.each (fun d (s : List Nat × List (List Word)) c =>
      (d.laneKeys x ls s.1 (a + 64 + 24 * c) 96 k 6 r.t (fun j => if j < 3 then nextBelow else nextAbove)).andThen (fun d p =>
        (d, .ok (p.1, s.2 ++ [p.2])))) (List.range n) d (h.1, [])).andThen (fun d s =>
      (d, .ok (s.1, [(boxResult r s.2).1, (boxResult r s.2).2]))))

/-- `isectt` in a lane: the results for d, d + 1 and d + 2. -/
def Dev.triLane (d : Dev) (x : Ix) (ls : LaneSet) (r : Ray) (seen : List Nat) (a : Nat) : Er (List Nat × List Word) :=
  if a % 64 ≠ 0 then (d, .error (.own 0x109 0 0)) else
  (d.laneLoad x ls seen a 16).andThen (fun d h =>
    let k := (h.2.getD 0 0).toNat
    if k = 0 ∨ k > 8 ∨ !allZero (h.2.drop 1) then (d, .error (.own 0x108 0 0)) else
    (d.laneKeys x ls h.1 (a + 16) 36 k 9 r.t (fun _ w => w)).andThen (fun d p =>
      let v := fun j => (p.2.getD (3 * j) 0, p.2.getD (3 * j + 1) 0, p.2.getD (3 * j + 2) 0)
      let t := triResult r (v 0) (v 1) (v 2)
      (d, .ok (p.1, [t.1, t.2.1, t.2.2]))))

/-- The lanes of an intersection so far. -/
structure RaySt where
  d : Dev
  seen : List Nat
  vals : List (Nat × List Word)
  bad : List (Nat × Flt)
  deriving DecidableEq, Repr

/-- An intersection in its lanes; `n` registers are written from d, with shape G whatever the shapes of the sources, since what
loads read is G (R65; DESIGN CHOICE, log 24). -/
def Dev.isect (d : Dev) (o : OpW) (n : Nat) (lane : Dev → Ix → LaneSet → Ray → List Nat → Nat → Er (List Nat × List Word)) : Dev :=
  match d.ix with
  | none => d
  | some x =>
    let ds := [(o.d, n)]
    let p := d.plan x o ds [(o.a, 9), useAt .n64 o.b] (fun _ => none) (fun _ => false)
    let m := (lanesOf p.ok).foldl (fun (m : RaySt) L =>
      match lane m.d x (laneBit L) (x.ray o L) m.seen (x.val o .n64 o.b L).toNat with
      | (d, .ok r) => { m with d := d, seen := r.1, vals := m.vals ++ [(L, r.2)] }
      | (d, .error (.own c a b)) => { m with d := d, bad := m.bad ++ [(L, ⟨c, a, b⟩)] }
      | (d, .error (.mem c a)) => { m with d := d, bad := m.bad ++ [(L, ⟨BitVec.ofNat 9 c, a, 0⟩)] }) ⟨d, [], [], []⟩
    let compact := ds.any x.x.lr.isCompact
    let bad := m.bad ++ (if compact then m.vals.map (fun v => (v.1, ⟨0x043, 0, 0⟩)) else [])
    let ok := if compact then 0 else setOf (m.vals.map (·.1))
    let col := fun k => (lanesOf ok).map (fun L => (L, ((m.vals.lookup L).getD []).getD k 0))
    let d := m.d.modWarp x.g x.wi (fun w => match o.d with
      | .v r => if ok = 0 then w else (List.range n).foldl (fun w k => w.writeV (r.toNat + k) .g (col k)) w
      | _ => w)
    (d.mend x ds ok).finish x ok 0 (p.bad ++ bad)

/-! ### The meanings -/

def execCullbf (f : FWord) (s : State) :=
  s.onDev (·.cull (fop f) (fun t vs => screenCull t.w t.h vs (backFace (f.sub.toNat % 2 == 1))))
def execCullfr (f : FWord) (s : State) := s.onDev (·.cull (fop f) (fun _ vs => frustumCull vs))
def execCullsm (f : FWord) (s : State) := s.onDev (·.cull (fop f) (fun t vs => screenCull t.w t.h vs smallCull))
def execCullhz (f : FWord) (s : State) := s.onDev (·.cullhz (fop f))
def execPexp (f : FWord) (s : State) := s.onDev (·.pexp (fop f))
def execIsectb (f : FWord) (s : State) := s.onDev (·.isect (fop f) 2 Dev.boxLane)
def execIsectt (f : FWord) (s : State) := s.onDev (·.isect (fop f) 3 Dev.triLane)
def execPix (f : FWord) (s : State) := s.onDev (·.pix (fop f))
def execFdisc (f : FWord) (s : State) := s.onDev (·.fdisc (fop f))
def execFdep (f : FWord) (s : State) := s.onDev (·.fdep (fop f))
def execDrawReprojection (draw tile : Nat) (s : State) := s.onDev (·.drawReproject draw tile)
def execDrawRasterise (draw tile : Nat) (s : State) := s.onDev (·.drawRaster draw tile)
def execBlendApply (draw tile : Nat) (s : State) := s.onDev (·.drawBlend draw tile)
def execDrawDone (draw : Nat) (s : State) := s.onDev (·.drawDone draw)

end Sys2Proof.Machine
end

