-- ==== Sys2Proof/Machine/Csr.lean ====
section
/-!
DEFINITION. Control registers (R324 to R326, R347, R394) and the proposal bank (R300 to R308, R397).
-/
namespace Sys2Proof.Machine

/-! ### Values -/

/-- The logical clusters of a die that satisfy a test, as a mask. -/
def clusterMask (p : Nat → Bool) : Nat := ((List.range 12).filter p).foldl (fun m c => m + 2 ^ c) 0

/-- `vfid` for a group (R324). -/
def Dev.vfid (d : Dev) (x : Group) : Nat :=
  let n := d.ptn x.vf
  let at_ := fun c => 12 * x.die + c
  x.vf + n * 2 ^ 4 + x.die * 2 ^ 8 + clusterMask (fun c => (d.partAt (at_ c) n).gnt.getLsbD (at_ c)) * 2 ^ 16
    + clusterMask (fun c => d.inPart (at_ c) n) * 2 ^ 32

/-- The key of an event register of a group's function on its die. -/
def Group.evKey (x : Group) (i : Nat) : Nat := Machine.evKey x.die x.vf i

/-- A register of warp, context or function scope (R324). -/
def Dev.csrGet (d : Dev) (x : Ix) (n : Nat) : DWord :=
  if n = 0x00 then x.w.rngkey
  else if n = 0x02 then x.w.drawd.setWidth 64
  else if n = 0x08 then (d.tvecOf x.x).setWidth 64
  else if 0x10 ≤ n ∧ n < 0x18 then look 0 d.evsel (x.x.evKey (n - 0x10))
  else if 0x18 ≤ n ∧ n < 0x20 then (look (0 : BitVec 48) d.evcnt (x.x.evKey (n - 0x18))).setWidth 64
  else if n = 0x20 then (look (0 : BitVec 8) d.evovf (16 * x.x.die + x.x.vf)).setWidth 64
  else BitVec.ofNat 64 (d.vfid x.x)

/-- Write such a register by the arrival of some lanes, keeping its reserved bits. -/
def Dev.csrPut (d : Dev) (x : Ix) (ls : LaneSet) (n : Nat) (v : DWord) : Dev × Scalar :=
  if n = 0x00 then (d.modWarp x.g x.wi (fun w => { w with rngkey := v }), .done)
  else if n = 0x02 then d.setDrawd x ls (v.setWidth 56)
  else if n = 0x08 then (d.modGrid x.x.grid (fun g => { g with tvec := v.setWidth 56 &&& ~~~7 }), .done)
  else if 0x10 ≤ n ∧ n < 0x18 then ({ d with evsel := put 0 d.evsel (x.x.evKey (n - 0x10)) (v &&& 0x3FF) }, .done)
  else if 0x18 ≤ n ∧ n < 0x20 then ({ d with evcnt := put 0 d.evcnt (x.x.evKey (n - 0x18)) (v.setWidth 48) }, .done)
  else if n = 0x20 then ({ d with evovf := put 0 d.evovf (16 * x.x.die + x.x.vf) (v.setWidth 8) }, .done)
  else (d, .fault ⟨0x032, 0, 0⟩)

/-- A lane-scope register of a lane: `rngctr`, `epc` or `ecause`. -/
def Warp.csrLane (w : Warp) (n L : Nat) : DWord :=
  if n = 0x01 then (look 0 w.rngctr L).setWidth 64
  else if n = 0x09 then (look 0 w.epc L).setWidth 64 else (look 0 w.ecause L).setWidth 64

/-- Write `rngctr` or `epc` of a lane. -/
def Warp.putLane (w : Warp) (n L : Nat) (v : DWord) : Warp :=
  if n = 0x01 then { w with rngctr := put 0 w.rngctr L (v.setWidth 32) }
  else { w with epc := put 0 w.epc L (v.setWidth 56 &&& ~~~7) }

/-- Whether a register is of lane scope, and its width. -/
def csrLanes (n : Nat) : Bool := n == 0x01 || n == 0x09 || n == 0x0A
/-- The type at which a lane-scope register is read and written. -/
def csrTy (n : Nat) : Ty := if n = 0x09 then .n64 else .n32

/-! ### The four instructions (R326) -/

def Dev.csrr (d : Dev) (o : OpW) (n : Nat) : Dev :=
  if csrLanes n then d.regOp o (csrTy n) [] (fun _ => .g) (fun x _ L => x.w.csrLane n L)
  else d.scalarAct o [(o.d, 1)] [] (fun d x => (d.setS x o.d (d.csrGet x n), .done))

/-- The refusal of a write in a lane (R394). -/
def csrFault (n : Nat) (x : Ix) (L : Nat) : Option Flt :=
  if n = 0x0A then some ⟨0x032, 0, 0⟩
  else if n = 0x09 ∧ !x.w.handler.getLsbD L then some ⟨0x033, 0, 0⟩ else none

/-- A write of a register; `f` gives the new value from the old one and a. -/
def Dev.csrWrite (d : Dev) (o : OpW) (n : Nat) (f : DWord → DWord → DWord) : Dev :=
  if csrLanes n then
    d.laneAct o [] [useAt (csrTy n) o.a] (csrFault n) (fun d x ok =>
      (d.modWarp x.g x.wi (fun w => (lanesOf ok).foldl (fun w L => w.putLane n L (f (x.w.csrLane n L) (x.val o (csrTy n) o.a L))) w), 0))
  else d.scalarAct o [] [(o.a, 1)] (fun d x =>
    if n = 0x08 ∧ (x.w.handler &&& x.guard o) ≠ 0 then (d, .fault ⟨0x034, 0, 0⟩)
    else d.csrPut x (x.guard o) n (f (d.csrGet x n) (x.sval o o.a)))

/-! ### The proposal bank (R304 to R306) -/

/-- The banked registers. -/
def bankRegs : List Nat := (List.range 16).map (· + 40)

/-- Use in a kernel with g below 56 (R397). -/
def bankRefuse (x : Ix) : Option Flt := if x.x.lr.vg < 56 then some ⟨0x120, 0, 0⟩ else none

/-- The lanes' committed words of a register. -/
def Warp.committed (w : Warp) (n : Nat) : List Word := (List.range 32).map (look (.u 0) w.v n).at
/-- The lanes' proposal words of a register. -/
def Warp.proposal (w : Warp) (n : Nat) : List Word := (List.range 32).map (fun L => (look [] w.prop n).getD L 0)

/-- Open the banks of some lanes with a snapshot; both copies are held as G (R302). -/
def Warp.openBank (w : Warp) (ls : LaneSet) : Warp :=
  let mix := fun (n : Nat) => (List.range 32).map (fun L => if ls.getLsbD L then (w.committed n).getD L 0 else (w.proposal n).getD L 0)
  { w with
    bank := w.bank ||| ls
    prop := bankRegs.foldl (fun m n => put [] m n (mix n)) w.prop
    v := bankRegs.foldl (fun m n => put (.u 0) m n (.g (w.committed n))) w.v }

/-- Commit the proposals of some lanes. -/
def Warp.commit (w : Warp) (ls : LaneSet) : Warp :=
  let mix := fun (n : Nat) => (List.range 32).map (fun L => if ls.getLsbD L then (w.proposal n).getD L 0 else (w.committed n).getD L 0)
  { w with v := bankRegs.foldl (fun m n => put (.u 0) m n (.g (mix n))) w.v }

/-- The fault of a lane that copies all of one copy of the bank, `off` 0 for the committed and 256 for the proposal one (R397). -/
def Dev.copyBad (d : Dev) (x : Ix) (off L : Nat) : Option Flt :=
  (bankRegs.find? (fun k => d.badReg.contains (x.g, x.wi, off + k, L))).map (fun k => ⟨0x160, 0, k + 256 * L⟩)

/-- A copy of the bank written whole in some lanes is good (R370). -/
def Dev.copyGood (d : Dev) (x : Ix) (off : Nat) (ls : LaneSet) : Dev :=
  { d with badReg := d.badReg.filter (fun b =>
      !(b.1 == x.g && b.2.1 == x.wi && ls.getLsbD b.2.2.2 && decide (off + 40 ≤ b.2.2.1 ∧ b.2.2.1 < off + 56))) }

/-- The lanes of a `pacc` that decide, and those of them that commit (R305). -/
def Warp.decides (w : Warp) (x : Ix) (o : OpW) (ok : LaneSet) : LaneSet × LaneSet :=
  let on := ok &&& w.bank
  (on, setOf ((lanesOf on).filter (fun L => vLe (f32 (x.f o o.b L)) (f32 (x.f o o.a L)))))

/-- The deciding lanes close, counted. -/
def Warp.decide (w : Warp) (on yes : LaneSet) : Warp :=
  let w := if yes = 0 then w else w.commit yes
  { w with
    bank := w.bank &&& ~~~on
    acc := w.acc + BitVec.ofNat 32 (lanesOf yes).length
    rej := w.rej + BitVec.ofNat 32 (lanesOf (on &&& ~~~yes)).length }

def Dev.pbopen (d : Dev) (o : OpW) : Dev :=
  d.laneAct o [] [] (fun x L => (bankRefuse x).or (d.copyBad x 0 L)) (fun d x ok =>
    (if ok = 0 then d else (d.modWarp x.g x.wi (·.openBank ok)).copyGood x 256 ok, 0))
def Dev.pbx (d : Dev) (o : OpW) : Dev :=
  d.laneAct o [] [] (fun x _ => bankRefuse x) (fun d x ok => (d.modWarp x.g x.wi (fun w => { w with bank := w.bank &&& ~~~ok }), 0))
def Dev.pacc (d : Dev) (o : OpW) : Dev :=
  d.laneAct o [] [(o.a, 1), (o.b, 1)]
    (fun x L => (bankRefuse x).or (if (x.w.decides x o (laneBit L)).2 = 0 then none else d.copyBad x 256 L)) (fun d x ok =>
    let r := x.w.decides x o ok
    let d := (d.modWarp x.g x.wi (·.decide r.1 r.2)).copyGood x 0 r.2
    ((d.count x.x.die x.x.vf 12 (lanesOf r.2).length).count x.x.die x.x.vf 13 (lanesOf (r.1 &&& ~~~r.2)).length, 0))
def Dev.pbstat (d : Dev) (o : OpW) : Dev :=
  d.scalarAct o [(o.d, 1)] [] (fun d x => match bankRefuse x with
    | some f => (d, .fault f)
    | none =>
      let d := d.setS x o.d (x.w.rej ++ x.w.acc)
      (if o.sub % 2 = 1 then d.modWarp x.g x.wi (fun w => { w with acc := 0, rej := 0 }) else d, .done))

/-! ### The meanings -/

def execCsrr (f : FWord) (s : State) := s.onDev (·.csrr (fop f) f.csr)
def execCsrw (f : FWord) (s : State) := s.onDev (·.csrWrite (fop f) f.csr (fun _ a => a))
def execCsrs (f : FWord) (s : State) := s.onDev (·.csrWrite (fop f) f.csr (fun c a => c ||| a))
def execCsrc (f : FWord) (s : State) := s.onDev (·.csrWrite (fop f) f.csr (fun c a => c &&& ~~~a))
def execPbopen (f : FWord) (s : State) := s.onDev (·.pbopen (fop f))
def execPbx (f : FWord) (s : State) := s.onDev (·.pbx (fop f))
def execPacc (f : FWord) (s : State) := s.onDev (·.pacc (fop f))
def execPbstat (f : FWord) (s : State) := s.onDev (·.pbstat (fop f))

end Sys2Proof.Machine
end

