-- ==== Sys2Proof/Machine/Mailbox.lean ====
section
/-!
DEFINITION. Step mailboxes from the side of warps: their FIFOs (R290 to R293), versions (R294, R295), the instructions
of R298 and R299 and the delivery of a sent message, with the causes of R396.
-/
namespace Sys2Proof.Machine

def boxKey (die n : Nat) : Nat := 1024 * die + n
/-- Mailbox n of a die. -/
def Dev.box (d : Dev) (die n : Nat) : Box := look Box.init d.boxes (boxKey die n)
/-- Change a mailbox. -/
def Dev.modBox (d : Dev) (die n : Nat) (f : Box → Box) : Dev := { d with boxes := put Box.init d.boxes (boxKey die n) (f (d.box die n)) }
/-- The policy version of a function on a die. -/
def Dev.policy (d : Dev) (die f : Nat) : BitVec 16 := look 0 d.polver (16 * die + f)

/-- A status word (R291). -/
def statusWord (st lm1 : Nat) (ver : BitVec 16) : Nat := st + lm1 * 2 ^ 8 + ver.toNat * 2 ^ 16

/-- A mailbox closes with a status, unless it is closed already (R293). -/
def Box.close (b : Box) (st : Nat) : Box := if b.isOpen then { b with isOpen := false, status := st } else b

/-- The messages of a FIFO that are placed and waiting. -/
def placedOf (ms : List Msg) : List Msg := ms.filter (·.placed)

/-- The version of a FIFO's head message once it is placed, or 0. -/
def headVer (ms : List Msg) : Nat := ((ms.head?.filter (·.placed)).map (·.ver.toNat)).getD 0

/-! ### Buffers -/

/-- Global or scratchpad bytes of an arrival's loads: what is read, the lines waited for, or a fault. -/
inductive BufRes (α : Type) where
  | ok (a : α) | wait (sum : Nat) (lines : List Nat) | fault (f : Flt)

/-- The check of a scratchpad range: a wait on presence, or a fault (R172, R365). -/
def Dev.spRange (d : Dev) (x : Ix) (reads : Bool) (a n : Nat) : BufRes Unit :=
  if a + n > 2 ^ 21 ∨ a + n > x.x.lr.window then .fault ⟨0x085, Nat.max a (Nat.min (2 ^ 21) x.x.lr.window), 0⟩ else
  if d.awaited x a n != [] then .wait a (unitsOf 128 a n) else
  match d.sramBad (scratchGran x.g) reads a n with
  | some g => .fault ⟨0x171, Nat.max a (8 * g), 8 * g⟩
  | none => .ok ()

/-- The presence join of an arrival that finds a scratchpad range present, whether or not it waited for it (R190; log 4). -/
def Dev.joinRange (d : Dev) (x : Ix) (ls : LaneSet) (a n : Nat) : Dev := d.presenceJoin x ls (unitsOf 128 a n)

/-- Read `n` bytes of a space as loads of the arrival. -/
def Dev.bufRead (d : Dev) (x : Ix) (ls : LaneSet) (sp : Bool) (a n : Nat) : Dev × BufRes (List Byte) :=
  if sp then
    match d.spRange x true a n with
    | .ok _ => let p := (d.joinRange x ls a n).readWords x ls (.sp a) n 1; (p.1, .ok p.2)
    | .wait s l => (d, .wait s l)
    | .fault f => (d, .fault f)
  else match d.laneLoad x ls [] a n with
    | (d, .ok r) => (d, .ok r.2)
    | (d, .error (.own c p q)) => (d, .fault ⟨c, p, q⟩)
    | (d, .error (.mem c p)) => (d, .fault ⟨BitVec.ofNat 9 c, p, 0⟩)

/-- The places of a global range to store, sector by sector, each checked as `st` (R362). -/
def Dev.storePlaces (d : Dev) (x : Ix) (a n : Nat) : Er (List (Loc × Nat)) :=
  Er.each (fun d ls u =>
    let lo := Nat.max a (64 * u)
    let k := Nat.min (a + n) (64 * u + 64) - lo
    let p := d.locate x.x 0 .st lo 1
    match p.2 with
    | .error f => (p.1, .error (.own f.cause f.d5 f.d6))
    | .ok l =>
      let whole := decide (k = 64)
      match (p.1.dataFault x.x .st lo k l).filter (fun f => !(whole && f.cause == 0x176)) with
      | some f => (p.1, .error (.own f.cause f.d5 f.d6))
      | none => (p.1, .ok (ls ++ [(l, k)]))) (unitsOf 64 a n) d []

/-- Store bytes at places in turn. -/
def Dev.storeAll (d : Dev) (x : Ix) (ls : LaneSet) : List (Loc × Nat) → List Byte → Dev
  | [], _ => d
  | (l, k) :: ps, bs => Dev.storeAll ((d.touch x.x .st l true).writeAt x ls .st l (bs.take k) 0) x ls ps (bs.drop k)

/-- Write bytes to a space as stores of the arrival; the stores are made once every check has passed. -/
def Dev.bufWrite (d : Dev) (x : Ix) (ls : LaneSet) (sp : Bool) (a : Nat) (bs : List Byte) : Dev × BufRes Unit :=
  if sp then
    match d.spRange x false a bs.length with
    | .ok _ => ((d.joinRange x ls a bs.length).writeAt x ls .st (.sp a) bs 0, .ok ())
    | r => (d, r)
  else match d.storePlaces x a bs.length with
    | (d, .ok ps) => (d.storeAll x ls ps bs, .ok ())
    | (d, .error (.own c p q)) => (d, .fault ⟨c, p, q⟩)
    | (d, .error (.mem c p)) => (d, .fault ⟨BitVec.ofNat 9 c, p, 0⟩)

/-! ### Instructions (R298, R299) -/

/-- The refusal of a mailbox number (R396). -/
def Dev.boxRefuse (d : Dev) (x : Ix) (n : Nat) : Option Flt :=
  if n ≥ 1024 then some ⟨0x110, 0, 0⟩ else if (d.box x.x.die n).mvf ≠ x.x.vf then some ⟨0x111, 0, 0⟩ else none

/-- Scalar work that rests on presence while a buffer is absent. -/
def Dev.boxAct (d : Dev) (o : OpW) (ds srcs : List Use) (act : Dev → Ix → Dev × Scalar) : Dev :=
  match d.ix with
  | none => d
  | some x => (d.scalarAct o ds srcs act).presenceCheck x.g

/-- The rest or the fault of a buffer that is not ready. -/
def BufRes.stop {α : Type} : BufRes α → Scalar
  | .ok _ => .done
  | .wait s l => .rest (.presence s l)
  | .fault f => .fault f

/-- A mailbox operand's number. -/
def Ix.boxNo (x : Ix) (o : OpW) (f : Opnd) : Nat := if f == .imm then o.immBits 0 10 else (x.sval o f).toNat

/-- What a resting `mbsend` has captured, and the policy version as its issue reads it (R295, R299). -/
def Dev.captured (d : Dev) (x : Ix) : Option (List Byte) :=
  match (d.rested.find? (fun r => x.arr != 0 && r.arr == x.arr)).map (·.why) with
  | some (RestWhy.send bs) => some bs
  | _ => none
def Dev.policyAt (d : Dev) (x : Ix) : BitVec 16 :=
  ((d.rested.find? (fun r => x.arr != 0 && r.arr == x.arr)).map (·.policy)).getD (d.policy x.x.die x.x.vf)

/-- The policy version that an issue reads: what happened before the `mbver` that wrote it happens before the next release of the
lanes (R184, R299). -/
def Dev.readPolicy (d : Dev) (x : Ix) (ls : LaneSet) : Dev :=
  let ids := look [] d.polKnow (16 * x.x.die + x.x.vf)
  if x.arr != 0 then d else d.modWarp x.g x.wi (·.modView ls (fun v => { v with cum := uni v.cum ids }))

/-- `mbsend`: the payload is captured once, before the rest for a slot; the send is a release (R191). -/
def Dev.mbsend (d : Dev) (o : OpW) : Dev :=
  d.boxAct o [(o.d, 1)] [(o.a, 1), (o.b, 1), (o.c, 1)] (fun d x =>
    let n := x.boxNo o o.c
    let len := (x.sval o o.b).toNat
    match d.boxRefuse x n with
    | some f => (d, .fault f)
    | none =>
      if len = 0 ∨ len > 256 then (d, .fault ⟨0x112, 0, 0⟩) else
      let ls := x.guard o
      match (match d.captured x with
        | some bs => (d, BufRes.ok bs)
        | none => d.bufRead x ls (o.sub % 4 == 1) (x.sval o o.a).toNat len) with
      | (d, .ok bs) =>
        let b := d.box x.x.die n
        if !b.isOpen then (d.setS x o.d (BitVec.ofNat 64 (statusWord b.status 0 0)), .done)
        else if b.act.length ≥ 8 then (d.readPolicy x ls, .rest (.send bs))
        else
          let id := d.nextId
          let p := (d.readPolicy x ls).releasing x ls
          let d := { p.1 with nextId := id + 1 }
          let d := d.modBox x.x.die n (fun b => { b with act := b.act ++ [⟨id, bs, d.policyAt x, false, p.2⟩] })
          ((d.fork (x.origin ls) 0 (.deliver x.x.die n id)).setS x o.d 0, .done)
      | (d, r) => (d, r.stop))

/-- `mbrecv`. -/
def Dev.mbrecv (d : Dev) (o : OpW) : Dev :=
  d.boxAct o [(o.d, 1)] [(o.a, 1), (o.b, 1)] (fun d x =>
    let n := x.boxNo o o.b
    match d.boxRefuse x n with
    | some f => (d, .fault f)
    | none =>
      let b := d.box x.x.die n
      match b.obs with
      | [] => if b.isOpen then (d, .rest .other) else (d.setS x o.d (BitVec.ofNat 64 (statusWord b.status 0 0)), .done)
      | m :: _ =>
        if !m.placed then (d, .rest .other) else
        let ls := x.guard o
        match (d.modWarp x.g x.wi (·.gain ls m.know)).bufWrite x ls (o.sub % 4 == 1) (x.sval o o.a).toNat m.bytes with
        | (d, .ok _) =>
          ((d.modBox x.x.die n (fun b => { b with obs := b.obs.drop 1 })).setS x o.d
            (BitVec.ofNat 64 (statusWord 0 (m.bytes.length - 1) m.ver)), .done)
        | (_, r) => (d, r.stop))

/-- `mbpoll`. -/
def Dev.mbpoll (d : Dev) (o : OpW) : Dev :=
  d.scalarAct o [(o.d, 1)] [(o.a, 1)] (fun d x =>
    let n := x.boxNo o o.a
    match d.boxRefuse x n with
    | some f => (d, .fault f)
    | none =>
      let b := d.box x.x.die n
      let w := (placedOf b.obs).length + (8 - b.act.length) * 2 ^ 4 + b.status * 2 ^ 8
        + headVer b.obs * 2 ^ 16
      (d.setS x o.d (BitVec.ofNat 64 w), .done))

/-- `mbver`: a release write at `.dev` (R299). -/
def Dev.mbver (d : Dev) (o : OpW) : Dev :=
  d.scalarAct o [] [(o.a, 1)] (fun d x =>
    let p := d.releasing x (x.guard o)
    let k := 16 * x.x.die + x.x.vf
    ({ p.1 with polver := put 0 p.1.polver k ((x.sval o o.a).setWidth 16), polKnow := put [] p.1.polKnow k p.2 }, .done))

/-- MAILBOX_DELIVERY: a sent message is placed in its slot; one that a later open discarded is gone. -/
def Dev.deliverMsg (d : Dev) (id : Nat) : Dev :=
  match d.op? id with
  | none => d
  | some op => match op.kind with
    | .deliver die n msg =>
      (d.modBox die n (fun b => { b with act := b.act.map (fun m => if m.id = msg then { m with placed := true } else m) })).dropOp id
    | _ => d

/-! ### The meanings -/

def execMbsend (f : FWord) (s : State) := s.onDev (·.mbsend (fop f))
def execMbrecv (f : FWord) (s : State) := s.onDev (·.mbrecv (fop f))
def execMbpoll (f : FWord) (s : State) := s.onDev (·.mbpoll (fop f))
def execMbver (f : FWord) (s : State) := s.onDev (·.mbver (fop f))
def execMailboxDelivery (op : Nat) (s : State) := s.onDev (·.deliverMsg op)

end Sys2Proof.Machine
end

