-- ==== Sys2Proof/Machine/Rv.lean ====
section
/-!
DEFINITION. RV64IMAFDC with Zicsr (R287) below its memory: the expansion of compressed instructions, integer arithmetic,
floating point with its flags, physical memory protection, control registers, traps and returns. PRESUMED from the RISC-V
manuals, which the spec names and does not repeat (log 20).
-/
namespace Sys2Proof.Machine

/-! ### Encodings -/

def rvI (imm rs1 f3 rd op : Nat) : Nat := imm % 4096 * 2 ^ 20 + rs1 * 2 ^ 15 + f3 * 2 ^ 12 + rd * 2 ^ 7 + op
def rvR (f7 rs2 rs1 f3 rd op : Nat) : Nat := f7 * 2 ^ 25 + rs2 * 2 ^ 20 + rs1 * 2 ^ 15 + f3 * 2 ^ 12 + rd * 2 ^ 7 + op
def rvS (imm rs2 rs1 f3 op : Nat) : Nat := bits imm 5 7 * 2 ^ 25 + rs2 * 2 ^ 20 + rs1 * 2 ^ 15 + f3 * 2 ^ 12 + bits imm 0 5 * 2 ^ 7 + op
def rvB (imm rs2 rs1 f3 : Nat) : Nat :=
  bits imm 12 1 * 2 ^ 31 + bits imm 5 6 * 2 ^ 25 + rs2 * 2 ^ 20 + rs1 * 2 ^ 15 + f3 * 2 ^ 12 + bits imm 1 4 * 2 ^ 8 + bits imm 11 1 * 2 ^ 7 + 0x63
def rvJ (imm rd : Nat) : Nat :=
  bits imm 20 1 * 2 ^ 31 + bits imm 1 10 * 2 ^ 21 + bits imm 11 1 * 2 ^ 20 + bits imm 12 8 * 2 ^ 12 + rd * 2 ^ 7 + 0x6F

/-- Put fields (from, width, to) of a word together. -/
def gatherBits (h : Nat) (fs : List (Nat × Nat × Nat)) : Nat := (fs.map (fun f => bits h f.1 f.2.1 * 2 ^ f.2.2)).foldl (· + ·) 0
/-- Sign-extend `n` bits to 21 bits, enough for any compressed immediate. -/
def sext21 (n x : Nat) : Nat := if x.testBit (n - 1) then x + 2 ^ 21 - 2 ^ n else x

/-- Expand a compressed instruction of quadrant 0. -/
def rvcQ0 (h : Nat) : Option Nat :=
  let rd := 8 + bits h 2 3
  let rs := 8 + bits h 7 3
  let u8 := gatherBits h [(10, 3, 3), (5, 2, 6)]
  let u4 := gatherBits h [(10, 3, 3), (6, 1, 2), (5, 1, 6)]
  let sp := gatherBits h [(11, 2, 4), (7, 4, 6), (6, 1, 2), (5, 1, 3)]
  match bits h 13 3 with
  | 0 => if sp = 0 then none else some (rvI sp 2 0 rd 0x13)
  | 1 => some (rvI u8 rs 3 rd 0x07)
  | 2 => some (rvI u4 rs 2 rd 0x03)
  | 3 => some (rvI u8 rs 3 rd 0x03)
  | 5 => some (rvS u8 rd rs 3 0x27)
  | 6 => some (rvS u4 rd rs 2 0x23)
  | 7 => some (rvS u8 rd rs 3 0x23)
  | _ => none

/-- The arithmetic of quadrant 1. -/
def rvcAlu (h : Nat) : Option Nat :=
  let rd := 8 + bits h 7 3
  let rs := 8 + bits h 2 3
  let imm := gatherBits h [(12, 1, 5), (2, 5, 0)]
  match bits h 10 2 with
  | 0 => some (rvI imm rd 5 rd 0x13)
  | 1 => some (rvI (imm + 0x400) rd 5 rd 0x13)
  | 2 => some (rvI (sext21 6 imm) rd 7 rd 0x13)
  | _ => match bits h 12 1, bits h 5 2 with
    | 0, 0 => some (rvR 0x20 rs rd 0 rd 0x33)
    | 0, 1 => some (rvR 0 rs rd 4 rd 0x33)
    | 0, 2 => some (rvR 0 rs rd 6 rd 0x33)
    | 0, _ => some (rvR 0 rs rd 7 rd 0x33)
    | _, 0 => some (rvR 0x20 rs rd 0 rd 0x3B)
    | _, 1 => some (rvR 0 rs rd 0 rd 0x3B)
    | _, _ => none

/-- Expand a compressed instruction of quadrant 1. -/
def rvcQ1 (h : Nat) : Option Nat :=
  let rd := bits h 7 5
  let imm := sext21 6 (gatherBits h [(12, 1, 5), (2, 5, 0)])
  let j := sext21 12 (gatherBits h [(12, 1, 11), (11, 1, 4), (9, 2, 8), (8, 1, 10), (7, 1, 6), (6, 1, 7), (3, 3, 1), (2, 1, 5)])
  let b := sext21 9 (gatherBits h [(12, 1, 8), (10, 2, 3), (5, 2, 6), (3, 2, 1), (2, 1, 5)])
  let sp := sext21 10 (gatherBits h [(12, 1, 9), (6, 1, 4), (5, 1, 6), (3, 2, 7), (2, 1, 5)])
  match bits h 13 3 with
  | 0 => some (rvI imm rd 0 rd 0x13)
  | 1 => if rd = 0 then none else some (rvI imm rd 0 rd 0x1B)
  | 2 => some (rvI imm 0 0 rd 0x13)
  | 3 =>
    if rd = 2 then (if sp = 0 then none else some (rvI sp 2 0 2 0x13))
    else if imm = 0 then none else some (imm % 2 ^ 20 * 2 ^ 12 + rd * 2 ^ 7 + 0x37)
  | 4 => rvcAlu h
  | 5 => some (rvJ j 0)
  | 6 => some (rvB b 0 (8 + bits h 7 3) 0)
  | _ => some (rvB b 0 (8 + bits h 7 3) 1)

/-- Expand a compressed instruction of quadrant 2. -/
def rvcQ2 (h : Nat) : Option Nat :=
  let rd := bits h 7 5
  let rs2 := bits h 2 5
  let sh := gatherBits h [(12, 1, 5), (2, 5, 0)]
  let l8 := gatherBits h [(12, 1, 5), (5, 2, 3), (2, 3, 6)]
  let l4 := gatherBits h [(12, 1, 5), (4, 3, 2), (2, 2, 6)]
  let s8 := gatherBits h [(10, 3, 3), (7, 3, 6)]
  let s4 := gatherBits h [(9, 4, 2), (7, 2, 6)]
  match bits h 13 3 with
  | 0 => some (rvI sh rd 1 rd 0x13)
  | 1 => some (rvI l8 2 3 rd 0x07)
  | 2 => if rd = 0 then none else some (rvI l4 2 2 rd 0x03)
  | 3 => if rd = 0 then none else some (rvI l8 2 3 rd 0x03)
  | 4 =>
    if bits h 12 1 = 0 then
      if rs2 = 0 then (if rd = 0 then none else some (rvI 0 rd 0 0 0x67)) else some (rvR 0 rs2 0 0 rd 0x33)
    else if rs2 = 0 then (if rd = 0 then some 0x00100073 else some (rvI 0 rd 0 1 0x67))
    else some (rvR 0 rs2 rd 0 rd 0x33)
  | 5 => some (rvS s8 rs2 2 3 0x27)
  | 6 => some (rvS s4 rs2 2 2 0x23)
  | _ => some (rvS s8 rs2 2 3 0x23)

/-- The 32-bit instruction that a compressed one stands for; none when it is illegal. -/
def rvcExpand (h : Nat) : Option Nat :=
  match h % 4 with
  | 0 => rvcQ0 h
  | 1 => rvcQ1 h
  | 2 => rvcQ2 h
  | _ => none

/-- The immediates of a 32-bit instruction, as 64-bit values. -/
def immI (w : Nat) : DWord := (BitVec.ofNat 12 (bits w 20 12)).signExtend 64
def immS (w : Nat) : DWord := (BitVec.ofNat 12 (bits w 25 7 * 32 + bits w 7 5)).signExtend 64
def immB (w : Nat) : DWord :=
  (BitVec.ofNat 13 (bits w 31 1 * 2 ^ 12 + bits w 7 1 * 2 ^ 11 + bits w 25 6 * 2 ^ 5 + bits w 8 4 * 2)).signExtend 64
def immU (w : Nat) : DWord := (BitVec.ofNat 32 (bits w 12 20 * 2 ^ 12)).signExtend 64
def immJ (w : Nat) : DWord :=
  (BitVec.ofNat 21 (bits w 31 1 * 2 ^ 20 + bits w 12 8 * 2 ^ 12 + bits w 20 1 * 2 ^ 11 + bits w 21 10 * 2)).signExtend 64

/-! ### Integer arithmetic -/

/-- A 32-bit result, sign-extended. -/
def word32 (x : DWord) : DWord := (x.setWidth 32).signExtend 64

/-- OP and OP-IMM without the M extension; `alt` is bit 30 of the instruction. -/
def rvAlu (f3 : Nat) (alt : Bool) (a b : DWord) : DWord :=
  match f3 with
  | 0 => if alt then a - b else a + b
  | 1 => a <<< (b.toNat % 64)
  | 2 => if a.toInt < b.toInt then 1 else 0
  | 3 => if a.toNat < b.toNat then 1 else 0
  | 4 => a ^^^ b
  | 5 => if alt then a.sshiftRight (b.toNat % 64) else a >>> (b.toNat % 64)
  | 6 => a ||| b
  | _ => a &&& b

/-- OP-32 and OP-IMM-32 without the M extension. -/
def rvAluW (f3 : Nat) (alt : Bool) (a b : DWord) : Option DWord :=
  let s := b.toNat % 32
  match f3 with
  | 0 => some (word32 (if alt then a - b else a + b))
  | 1 => some (word32 (a <<< s))
  | 5 => some (if alt then ((a.setWidth 32).sshiftRight s).signExtend 64 else (a.setWidth 32 >>> s).signExtend 64)
  | _ => none

/-- Division and remainder of integers of n bits: by zero, and on overflow. -/
def rvDiv (signed : Bool) (n : Nat) (a b : Int) : Int × Int :=
  if b = 0 then (if signed then -1 else 2 ^ n - 1, a)
  else if signed then (a.tdiv b, a.tmod b) else (a / b, a % b)

/-- The M extension at 64 bits. -/
def rvMul (f3 : Nat) (a b : DWord) : DWord :=
  let hi := fun (x y : Int) => BitVec.ofInt 64 (x * y / 2 ^ 64)
  match f3 with
  | 0 => a * b
  | 1 => hi a.toInt b.toInt
  | 2 => hi a.toInt b.toNat
  | 3 => hi a.toNat b.toNat
  | 4 => BitVec.ofInt 64 (rvDiv true 64 a.toInt b.toInt).1
  | 5 => BitVec.ofInt 64 (rvDiv false 64 a.toNat b.toNat).1
  | 6 => BitVec.ofInt 64 (rvDiv true 64 a.toInt b.toInt).2
  | _ => BitVec.ofInt 64 (rvDiv false 64 a.toNat b.toNat).2

/-- The M extension at 32 bits. -/
def rvMulW (f3 : Nat) (a b : DWord) : Option DWord :=
  let s := fun (x : DWord) => (x.setWidth 32).toInt
  let u := fun (x : DWord) => ((x.setWidth 32).toNat : Int)
  let out := fun (v : Int) => some ((BitVec.ofInt 32 v).signExtend 64)
  match f3 with
  | 0 => out (s a * s b)
  | 4 => out (rvDiv true 32 (s a) (s b)).1
  | 5 => out (rvDiv false 32 (u a) (u b)).1
  | 6 => out (rvDiv true 32 (s a) (s b)).2
  | 7 => out (rvDiv false 32 (u a) (u b)).2
  | _ => none

/-- Whether a branch is taken; none for an illegal one. -/
def rvTaken (f3 : Nat) (a b : DWord) : Option Bool :=
  match f3 with
  | 0 => some (a == b)
  | 1 => some (a != b)
  | 4 => some (decide (a.toInt < b.toInt))
  | 5 => some (decide (b.toInt ≤ a.toInt))
  | 6 => some (decide (a.toNat < b.toNat))
  | 7 => some (decide (b.toNat ≤ a.toNat))
  | _ => none

/-- The value an AMO leaves, at 32 or 64 bits. -/
def rvAmo (op : Nat) (wide : Bool) (old b : DWord) : Option DWord :=
  let lt := if wide then decide (old.toInt < b.toInt) else decide ((old.setWidth 32).toInt < (b.setWidth 32).toInt)
  let ltu := if wide then decide (old.toNat < b.toNat) else decide (old.toNat % 2 ^ 32 < b.toNat % 2 ^ 32)
  match op with
  | 0 => some (old + b)
  | 1 => some b
  | 4 => some (old ^^^ b)
  | 8 => some (old ||| b)
  | 12 => some (old &&& b)
  | 16 => some (if lt then old else b)
  | 20 => some (if lt then b else old)
  | 24 => some (if ltu then old else b)
  | 28 => some (if ltu then b else old)
  | _ => none

/-! ### Floating point; flags are NX 1, UF 2, OF 4, DZ 8, NV 16 -/

def fmtF64 : Fmt := ⟨11, 52, 1023, .ieee⟩
/-- The format of a fmt field. -/
def rvFmt (f : Nat) : Option Fmt :=
  match f with
  | 0 => some fmtF32
  | 1 => some fmtF64
  | _ => none
/-- The same precision with exponents that no result leaves. -/
def rvWide (f : Fmt) : Fmt := ⟨15, f.mbits, 16383, .ieee⟩

/-- A rounding mode with its draw: RMM rounds up from one half, as a draw of one half does. -/
def rvRm (rm : Nat) : Rm × Nat :=
  match rm with
  | 4 => (.sr, 2 ^ 31)
  | n => (Rm.ofCode n, 0)

/-- Round a value, with the flags of the result. -/
def rvRound (f : Fmt) (rm : Nat) (v : Val) : Nat × Nat :=
  match v with
  | .nan => (f.nanCode, 0)
  | .inf neg => (f.round .rne 0 (.inf neg), 0)
  | v =>
    let r := f.round (rvRm rm).1 (rvRm rm).2 v
    let w := vAbs ((rvWide f).decode ((rvWide f).round (rvRm rm).1 (rvRm rm).2 v))
    let high := vLe (.fin false 1 1 (f.bias + 1)) w
    let nx := high || (f.decode r).cmp v != .eq
    let uf := nx && vLt w (.fin false 1 1 f.emin)
    (r, (if nx then 1 else 0) + (if uf then 2 else 0) + (if high then 4 else 0))

/-- Whether a code is a signalling NaN. -/
def rvSnan (f : Fmt) (x : Nat) : Bool := (f.decode x).isNan && !x.testBit (f.mbits - 1)

/-- The NV flag of a result that is a NaN though no source is, or of a signalling source. -/
def rvNv (f : Fmt) (xs : List Nat) (r : Val) : Nat :=
  if xs.any (rvSnan f) || (r.isNan && !xs.any (fun x => (f.decode x).isNan)) then 16 else 0

/-- Round a result of sources, with all its flags. -/
def rvResult (f : Fmt) (rm : Nat) (xs : List Nat) (v : Val) : Nat × Nat :=
  let r := rvRound f rm v
  (r.1, r.2 + rvNv f xs v)

def rvAddF (f : Fmt) (rm a b : Nat) : Nat × Nat := rvResult f rm [a, b] ((f.decode a).add (rvRm rm).1 (f.decode b))
def rvSubF (f : Fmt) (rm a b : Nat) : Nat × Nat := rvResult f rm [a, b] ((f.decode a).add (rvRm rm).1 (f.decode b).negate)
def rvMulF (f : Fmt) (rm a b : Nat) : Nat × Nat := rvResult f rm [a, b] ((f.decode a).mul (f.decode b))
def rvDivF (f : Fmt) (rm a b : Nat) : Nat × Nat :=
  let x := f.decode a
  let y := f.decode b
  let r := rvResult f rm [a, b] (x.div y)
  if x.isFin && !x.isZero && y.isZero then (r.1, r.2 + 8) else r
def rvSqrtF (f : Fmt) (rm a : Nat) : Nat × Nat := rvResult f rm [a] (f.decode a).sqrt
/-- ±(a × b) ± c. -/
def rvFma (f : Fmt) (rm : Nat) (negP negC : Bool) (a b c : Nat) : Nat × Nat :=
  let p := (f.decode a).mul (f.decode b)
  let p' := if negP then p.negate else p
  let c' := if negC then (f.decode c).negate else f.decode c
  let r := rvResult f rm [a, b, c] (p'.add (rvRm rm).1 c')
  let bad := p.isNan && !(f.decode a).isNan && !(f.decode b).isNan
  (r.1, if bad then r.2 / 32 * 32 + 16 + r.2 % 16 else r.2)

/-- The order of codes that are not NaN, −0 below +0. -/
def rvLess (f : Fmt) (a b : Nat) : Bool :=
  vLt (f.decode a) (f.decode b) || ((f.decode a).isZero && (f.decode b).isZero && a.testBit f.signBit && !b.testBit f.signBit)

def rvMinMax (f : Fmt) (max : Bool) (a b : Nat) : Nat × Nat :=
  let na := (f.decode a).isNan
  let nb := (f.decode b).isNan
  let nv := if rvSnan f a || rvSnan f b then 16 else 0
  (if na && nb then f.nanCode else if na then b else if nb then a else if rvLess f b a != max then b else a, nv)

/-- FLE, FLT and FEQ by rm. -/
def rvCompare (f : Fmt) (rm a b : Nat) : Option (Bool × Nat) :=
  let x := f.decode a
  let y := f.decode b
  let nan := x.isNan || y.isNan
  let s := rvSnan f a || rvSnan f b
  match rm with
  | 0 => some (vLe x y, if nan then 16 else 0)
  | 1 => some (vLt x y, if nan then 16 else 0)
  | 2 => some (!nan && x.cmp y == .eq, if s then 16 else 0)
  | _ => none

def rvSgnj (f : Fmt) (rm a b : Nat) : Option Nat :=
  let m := a % 2 ^ f.signBit
  let sb := b.testBit f.signBit
  let sa := a.testBit f.signBit
  let put := fun (s : Bool) => some (if s then m + 2 ^ f.signBit else m)
  match rm with
  | 0 => put sb
  | 1 => put (!sb)
  | 2 => put (sa != sb)
  | _ => none

/-- The range of an integer conversion: W, WU, L, LU. -/
def rvRange (k : Nat) : Int × Int :=
  match k with
  | 0 => (-2 ^ 31, 2 ^ 31 - 1)
  | 1 => (0, 2 ^ 32 - 1)
  | 2 => (-2 ^ 63, 2 ^ 63 - 1)
  | _ => (0, 2 ^ 64 - 1)

/-- A register image of an integer result: 32-bit ones sign-extended. -/
def rvImage (k : Nat) (v : Int) : DWord := if k < 2 then (BitVec.ofInt 32 v).signExtend 64 else BitVec.ofInt 64 v

/-- Convert to an integer. -/
def rvToInt (f : Fmt) (rm k a : Nat) : DWord × Nat :=
  let (lo, hi) := rvRange k
  match f.decode a with
  | .nan => (rvImage k hi, 16)
  | .inf neg => (rvImage k (if neg then lo else hi), 16)
  | .fin neg n d e =>
    let m : Int := roundNat (rvRm rm).1 neg n d e (rvRm rm).2
    let v := if neg then -m else m
    if v < lo then (rvImage k lo, 16) else if hi < v then (rvImage k hi, 16)
    else (rvImage k v, if (Val.ofInt v).cmp (.fin neg n d e) == .eq then 0 else 1)

/-- The integer that a register holds for a conversion from it. -/
def rvFromInt (k : Nat) (x : DWord) : Int :=
  match k with
  | 0 => (x.setWidth 32).toInt
  | 1 => (x.setWidth 32).toNat
  | 2 => x.toInt
  | _ => x.toNat

def rvClass (f : Fmt) (a : Nat) : Nat := if (f.decode a).isNan then (if rvSnan f a then 2 ^ 8 else 2 ^ 9) else 2 ^ fClass f a

/-- A code as a register of 64 bits holds it: narrower ones boxed in ones. -/
def rvBox (f : Fmt) (x : Nat) : DWord := if f.signBit = 31 then 0xFFFFFFFF#32 ++ BitVec.ofNat 32 x else BitVec.ofNat 64 x
/-- The code that a register holds at a format; a badly boxed one is the canonical NaN. -/
def rvUnbox (f : Fmt) (x : DWord) : Nat :=
  if f.signBit = 31 then (if x.toNat / 2 ^ 32 = 2 ^ 32 - 1 then x.toNat % 2 ^ 32 else f.nanCode) else x.toNat

/-! ### The core's registers -/

def Drone.getX (c : Drone) (n : Nat) : DWord := if n = 0 then 0 else look 0 c.x n
def Drone.setX (c : Drone) (n : Nat) (v : DWord) : Drone := if n = 0 then c else { c with x := put 0 c.x n v }
def Drone.getC (c : Drone) (n : Nat) : DWord := look 0 c.csr n
def Drone.setC (c : Drone) (n : Nat) (v : DWord) : Drone := { c with csr := put 0 c.csr n v }
def Drone.getF (c : Drone) (f : Fmt) (n : Nat) : Nat := rvUnbox f (look 0 c.f n)
/-- Write a floating-point register and raise flags: the state becomes dirty. -/
def Drone.dirty (c : Drone) (flags : Nat) : Drone :=
  (c.setC 0x003 (c.getC 0x003 ||| BitVec.ofNat 64 flags)).setC 0x300 (c.getC 0x300 ||| 0x6000)
def Drone.setF (c : Drone) (n : Nat) (v : DWord) (flags : Nat) : Drone := ({ c with f := put 0 c.f n v }).dirty flags
/-- Whether floating-point state is on. -/
def Drone.fsOn (c : Drone) : Bool := bits (c.getC 0x300).toNat 13 2 != 0
/-- The rounding mode of an instruction; none when it is reserved. -/
def Drone.rm? (c : Drone) (rm : Nat) : Option Nat :=
  let r := if rm = 7 then bits (c.getC 0x003).toNat 5 3 else rm
  if r ≤ 4 then some r else none

/-! ### Physical memory protection -/

/-- The configuration byte of an entry. -/
def Drone.pmpCfg (c : Drone) (i : Nat) : Nat := bits (c.getC (0x3A0 + 2 * (i / 8))).toNat (8 * (i % 8)) 8
def Drone.pmpAddr (c : Drone) (i : Nat) : Nat := (c.getC (0x3B0 + i)).toNat
/-- The number of trailing ones. -/
def trailingOnes : Nat → Nat → Nat
  | 0, _ => 0
  | n + 1, x => if x % 2 = 1 then trailingOnes n (x / 2) + 1 else 0
/-- The range that an entry matches: from, to. -/
def Drone.pmpRange (c : Drone) (i : Nat) : Nat × Nat :=
  let a := c.pmpAddr i
  match bits (c.pmpCfg i) 3 2 with
  | 0 => (0, 0)
  | 1 => (if i = 0 then 0 else c.pmpAddr (i - 1) * 4, a * 4)
  | 2 => (a * 4, a * 4 + 4)
  | _ => let t := trailingOnes 54 a; let lo := a / 2 ^ t * 2 ^ t * 4; (lo, lo + 2 ^ (t + 3))
/-- Whether an access of `n` bytes is permitted: bit 0 of a configuration is read, 1 write, 2 execute. -/
def Drone.pmpOk (c : Drone) (machine : Bool) (bit a n : Nat) : Bool :=
  match (List.range 16).find? (fun i => let r := c.pmpRange i; decide (r.1 < a + n ∧ a < r.2)) with
  | none => machine
  | some i =>
    let r := c.pmpRange i
    decide (r.1 ≤ a ∧ a + n ≤ r.2) && ((machine && !(c.pmpCfg i).testBit 7) || (c.pmpCfg i).testBit bit)
/-- The mode of a data access: MPRV gives that of MPP. -/
def Drone.dataMode (c : Drone) : Bool :=
  let s := c.getC 0x300
  if c.machine && s.getLsbD 17 then bits s.toNat 11 2 == 3 else c.machine

/-! ### Control registers -/

/-- `misa`: RV64 with A, C, D, F, I, M and U. -/
def rvMisa : DWord := 0x800000000010112D
/-- Replace the bits of a mask. -/
def maskBits (mask old v : DWord) : DWord := old &&& ~~~mask ||| v &&& mask
/-- `mstatus` as it reads: SD follows FS, UXL is 2. -/
def rvStatus (s : DWord) : DWord := s ||| 0x200000000 ||| (if bits s.toNat 13 2 = 3 then 0x8000000000000000 else 0)
/-- A write of `mstatus`; an MPP that is no mode keeps its value. -/
def rvPutStatus (s v : DWord) : DWord :=
  let m := bits v.toNat 11 2
  let mask : DWord := if m = 0 ∨ m = 3 then 0x227888 else 0x226088
  maskBits mask s v

/-- A write of eight configuration bytes: locked ones keep theirs; W without R is not set. -/
def Drone.pmpPutCfg (c : Drone) (n : Nat) (v : DWord) : DWord :=
  BitVec.ofNat 64 (((List.range 8).map (fun k =>
    let old := bits (c.getC n).toNat (8 * k) 8
    let new := bits v.toNat (8 * k) 8 % 32 + (if v.toNat.testBit (8 * k + 7) then 128 else 0)
    let new := if new % 4 = 2 then new - 2 else new
    (if old.testBit 7 then old else new) * 2 ^ (8 * k))).foldl (· + ·) 0)
/-- Whether an address register is locked by its entry, or by the next one as a top of range. -/
def Drone.pmpLocked (c : Drone) (i : Nat) : Bool :=
  (c.pmpCfg i).testBit 7 || (decide (i < 15) && (c.pmpCfg (i + 1)).testBit 7 && bits (c.pmpCfg (i + 1)) 3 2 == 1)

/-- Whether a register of machine mode exists that is held in `csr` and reads as it is held. -/
def rvPlain (n : Nat) : Bool :=
  [0x304, 0x305, 0x306, 0x30A, 0x320, 0x340, 0x341, 0x342, 0x343, 0x3A0, 0x3A2].contains n || decide (0x3B0 ≤ n ∧ n ≤ 0x3BF)
/-- Whether a register exists that always reads zero: no interrupt and no event counter is described. -/
def rvZero (n : Nat) : Bool := n == 0x344 || decide (0x323 ≤ n ∧ n ≤ 0x33F) || decide (0xB03 ≤ n ∧ n ≤ 0xB1F)
/-- The registers whose values the implementation fixes. -/
def rvIds (n : Nat) : Bool := decide (0xF11 ≤ n ∧ n ≤ 0xF15)
/-- The counters of cycles and of instructions. -/
def rvCounters (n : Nat) : Bool := n == 0xB00 || n == 0xB02

/-- Write a control register held in `csr`. -/
def Drone.putCsr (c : Drone) (n : Nat) (v : DWord) : Drone :=
  let old := c.getC n
  let set := fun (mask : DWord) => c.setC n (maskBits mask old v)
  match n with
  | 0x001 => (c.setC 0x003 (maskBits 0x1F (c.getC 0x003) v)).dirty 0
  | 0x002 => (c.setC 0x003 (maskBits 0xE0 (c.getC 0x003) (v <<< 5))).dirty 0
  | 0x003 => (c.setC 0x003 (v &&& 0xFF)).dirty 0
  | 0x300 => c.setC 0x300 (rvPutStatus old v)
  | 0x304 => set 0x888
  | 0x305 => if v.toNat % 4 ≤ 1 then c.setC n v else c.setC n (maskBits 3 v old)
  | 0x306 => set 7
  | 0x30A => set 1
  | 0x320 => set 5
  | 0x341 => set (~~~1)
  | 0x3A0 => c.setC n (c.pmpPutCfg n v)
  | 0x3A2 => c.setC n (c.pmpPutCfg n v)
  | n =>
    if 0x3B0 ≤ n ∧ n ≤ 0x3BF then (if c.pmpLocked (n - 0x3B0) then c else c.setC n (v &&& 0x3FFFFFFFFFFFFF))
    else if n = 0x340 ∨ n = 0x342 ∨ n = 0x343 then c.setC n v else c

/-! ### Traps -/

/-- A trap of the drone core to its own vector. -/
def Drone.trap (c : Drone) (cause : Nat) (tval : DWord) : Drone :=
  let s := c.getC 0x300
  let mie := bits s.toNat 3 1
  let s' := maskBits 0x1888 s (BitVec.ofNat 64 (mie * 2 ^ 7 + (if c.machine then 3 else 0) * 2 ^ 11))
  { ((((c.setC 0x341 c.pc).setC 0x342 (BitVec.ofNat 64 cause)).setC 0x343 tval).setC 0x300 s') with
    machine := true, pc := c.getC 0x305 &&& ~~~3 }

/-- MRET. -/
def Drone.mret (c : Drone) : Drone :=
  let s := c.getC 0x300
  let mpp := bits s.toNat 11 2
  let s' := maskBits 0x1888 s (BitVec.ofNat 64 (bits s.toNat 7 1 * 2 ^ 3 + 2 ^ 7))
  let s' := if mpp = 3 then s' else s' &&& ~~~0x20000
  { c.setC 0x300 s' with machine := mpp == 3, pc := c.getC 0x341 }

end Sys2Proof.Machine
end

