-- ==== Sys2Proof/Machine/Drone.lean ====
section
/-!
DEFINITION. Drone cores: the window of an episode (R288), memory accesses (R289), the mailbox registers (R297), one
instruction (R287), and how an episode starts and stops (R288, R296, R395).
-/
namespace Sys2Proof.Machine

/-- Why a drone instruction does not complete: a trap of the core itself, or a stop of the episode (R395). -/
inductive DErr where
  | trap (cause : Nat) (tval : DWord) | stop (why off : Nat)

/-- The outcome of a piece of a drone instruction. -/
abbrev Dr (α : Type) := Dev × Except DErr α

def Dr.andThen {α β : Type} (r : Dr α) (f : Dev → α → Dr β) : Dr β :=
  match r with
  | (d, .ok a) => f d a
  | (d, .error e) => (d, .error e)

/-- The illegal-instruction exception. -/
def rvIllegal {α : Type} (d : Dev) (w : Nat) : Dr α := (d, .error (.trap 2 (BitVec.ofNat 64 w)))

def droneKey (die k : Nat) : Nat := 32 * die + k
/-- Drone core k of a die. -/
def Dev.drone (d : Dev) (i : Nat) : Drone := look Drone.init d.drones i
/-- Change a drone core. -/
def Dev.modDrone (d : Dev) (i : Nat) (f : Drone → Drone) : Dev := { d with drones := put Drone.init d.drones i (f (d.drone i)) }
/-- Whether a core runs an episode. -/
def Drone.runs (c : Drone) : Bool := c.state == 1
/-- A drone core as a writer (R375). -/
def Drone.who (c : Drone) (i : Nat) (rmw : Bool) : Who := { kind := 3, rmw := rmw, tag := c.evf, die := i / 32, queue := i % 32 }
/-- A drone core as a thread of the memory model, which stands at its die (R180). -/
def droneThr (i : Nat) : Thr := ⟨3, i / 32, 0, 0, 2 ^ 48 + i, 0, 0⟩

/-! ### The window (R288) and accesses (R289) -/

/-- The physical address that an offset reaches: below the window's end and in the die's memory. -/
def Dev.windowPa (d : Dev) (i a n : Nat) : Option Nat :=
  let c := d.drone i
  let pa := d.cfg.norm (c.base.toNat + a)
  if a + n ≤ 4096 * c.size.toNat ∧ d.cfg.place pa = .ram (i / 32) then some pa else none

/-- The first offset of an access that the window refuses. -/
def Dev.refusedAt (d : Dev) (i a n : Nat) : Nat :=
  (((List.range n).map (· + a)).find? (fun o => (d.windowPa i o 1).isNone)).getD a

/-- One parcel of 16 bits of an instruction, checked. -/
def Dev.parcelOk (d : Dev) (i a : Nat) : Dr Nat :=
  if !(d.drone i).pmpOk (d.drone i).machine 2 a 2 then (d, .error (.trap 1 (BitVec.ofNat 64 a))) else
  match d.windowPa i a 2 with
  | none => (d, .error (.stop 1 (d.refusedAt i a 2)))
  | some pa => if (d.badAt pa 2).isSome then (d, .error (.stop 2 a)) else (d, .ok pa)

/-- The words that stand, or have stood since the history had `n` writes, at a physical address: newest first. -/
def Dev.wordsSince (d : Dev) (n pa : Nat) : List Nat :=
  ((d.past.filter (fun w => decide (n ≤ w.id) && w.spans pa 4)).foldl (fun (r : List Byte × List Nat) w =>
    let bs := ((List.range 4).zip r.1).map (fun e => if w.covers (pa + e.1) then w.old.getD (pa + e.1 - w.place) 0 else e.2)
    (bs, r.2 ++ [ofBytes bs])) (Memory.readBytes d.mem pa 4, [Memory.read d.mem pa 4])).2

/-- The word at a word's offset as the core fetches it: memory's, from its home, or from the core's instruction cache any that
has stood there since the episode began; which is free (R289, log 5). -/
def Dev.droneWord (d : Dev) (i a : Nat) : Dr Nat :=
  (d.parcelOk i a).andThen (fun d pa =>
    let c := d.drone i
    let ws := d.wordsSince c.since (pa / 4 * 4)
    let p := d.freeBit
    if p.2 then
      let q := p.1.fresh
      match ws with
      | [w] => (p.1, .ok w)
      | _ => (q.1, .ok (ws.getD (q.2 % ws.length) 0))
    else ((p.1.l2 (i / 32) c.evf false).recall (pa / 128), .ok (Memory.read d.mem (pa / 4 * 4) 4)))

/-- The instruction at an offset and its length: the word that it stands for, none for an illegal compressed one, and
the bits fetched. -/
def Dev.droneFetch (d : Dev) (i a : Nat) : Dr (Option Nat × Nat × Nat) :=
  (d.droneWord i a).andThen (fun d w =>
    let lo := bits w (8 * (a % 4)) 16
    if lo % 4 ≠ 3 then (d, .ok (rvcExpand lo, 2, lo))
    else if a % 4 = 0 then (d.parcelOk i (a + 2)).andThen (fun d _ => (d, .ok (some w, 4, w)))
    else (d.droneWord i (a + 2)).andThen (fun d u => (d, .ok (some (lo + u % 2 ^ 16 * 2 ^ 16), 4, lo + u % 2 ^ 16 * 2 ^ 16))))

/-- What a data access of a core is for. -/
inductive DAcc where
  | ld | st | lr | sc | amo
  deriving DecidableEq, Repr

def DAcc.writes : DAcc → Bool
  | .st | .sc | .amo => true
  | _ => false

/-- The physical address of a data access: protection, alignment, the window and memory that cannot be corrected, in
turn (R288, R395). A plain access that is not aligned traps or is performed, free (log 20). -/
def Dev.dronePa (d : Dev) (i : Nat) (acc : DAcc) (a n : Nat) : Dr Nat :=
  let c := d.drone i
  let wr := acc.writes
  let p := if a % n = 0 then (d, false) else if acc == .ld || acc == .st then d.freeBit else (d, true)
  if p.2 then (p.1, .error (.trap (if wr then 6 else 4) (BitVec.ofNat 64 a))) else
  let ok := c.pmpOk c.dataMode (if wr then 1 else 0) a n && (acc != .amo || c.pmpOk c.dataMode 0 a n)
  if !ok then (p.1, .error (.trap (if wr then 7 else 5) (BitVec.ofNat 64 a))) else
  match d.windowPa i a n with
  | none => (p.1, .error (.stop 1 (d.refusedAt i a n)))
  | some pa => if (d.badAt pa n).isSome then (p.1, .error (.stop 2 a)) else (p.1, .ok pa)

/-- An access of `n` bytes at its home bank: a request for each of its sectors, whose lines are recalled (R155, R289). -/
def Dev.droneTouch (d : Dev) (i pa n : Nat) : Dev :=
  (unitsOf 64 pa n).foldl (fun d s => (d.l2 (i / 32) (d.drone i).evf false (s / 2)).recall (s / 2)) d

/-- A read of bytes at a place: what the order of writes allows it, or the newest for an atomic one; `acq` marks an acquire read
at `.dev` (R182, R289). -/
def Dev.droneRead (d : Dev) (i : Nat) (home acq : Bool) (pa n : Nat) : Dev × List Byte :=
  let v := (d.drone i).view
  let now := Memory.readBytes d.mem pa n
  let p := if home then (d, now, topWrites pa n (d.past.filter (·.spans pa n))) else d.glimpse v.know v.seen pa n now
  let v := p.1.observe p.2.2 v
  let v := if acq then p.1.acquire (droneThr i) 4 p.2.2 v else v
  (p.1.modDrone i (fun c => { c with view := v }), p.2.1)

/-- A load. -/
def Dev.droneLoad (d : Dev) (i : Nat) (acc : DAcc) (a n : Nat) (acq : Bool := false) : Dr Nat :=
  (d.dronePa i acc a n).andThen (fun d pa =>
    let p := (d.droneTouch i pa n).droneRead i (acc != .ld) acq pa n
    (p.1, .ok (ofBytes p.2)))

/-- Write bytes at a place; `rl` marks a release write at `.dev`. A plain write that races with the newest write there may come before it:
a free choice (R157, R186). -/
def Dev.dronePoke (d : Dev) (i : Nat) (rmw rl : Bool) (pa : Nat) (bs : List Byte) : Dev :=
  let c := d.drone i
  let rel := Nat.max (if rl then 5 else 0) c.view.rel
  let p := if !rmw && d.mayTrail (droneThr i) c.view.know c.view.seen pa bs.length then d.freeBit else (d, false)
  let who := { c.who i rmw with thr := droneThr i, rel := rel, before := if rel = 0 then c.view.know else c.view.cum
                                behind := if p.2 then [pa] else [] }
  ((p.1.droneTouch i pa bs.length).poke who pa bs).modDrone i (fun c => { c with view := c.view.wrote d.past.length rel })

/-- A store. -/
def Dev.droneStore (d : Dev) (i : Nat) (a n v : Nat) : Dr Unit :=
  (d.dronePa i .st a n).andThen (fun d pa => (d.dronePoke i false false pa (toBytes n v), .ok ()))

/-- `FENCE`, which acts as `fence.ar.dev` whatever its sets (R185, R289). -/
def Dev.droneFence (d : Dev) (i : Nat) : Dev :=
  let t := droneThr i
  let v := d.acquire t 4 (d.drone i).view.seen (d.drone i).view
  let v := (d.fences.filter (fun f => meets f.2.1 f.1 4 t)).foldl (fun v f => v.gain f.2.2) { v with rel := Nat.max v.rel 5 }
  let v := { v with know := uni v.know v.cum }
  { d.modDrone i (fun c => { c with view := v }) with fences := (t, 4, v.cum) :: d.fences }

/-- The places of single bytes of the message buffer. -/
def Dev.droneBytes (d : Dev) (i : Nat) (acc : DAcc) : Nat → Nat → Dr (List Nat)
  | _, 0 => (d, .ok [])
  | a, n + 1 => (d.dronePa i acc a 1).andThen (fun d pa => (Dev.droneBytes d i acc (a + 1) n).andThen (fun d l => (d, .ok (pa :: l))))

/-! ### Stops (R395) -/

/-- Whether mailbox n of the core's die is bound to it (R297). -/
def Dev.bound (d : Dev) (i n : Nat) : Bool :=
  let b := d.box (i / 32) n
  b.core == i % 32 && b.mvf == (d.drone i).evf

/-- Every mailbox bound to a core closes with a status. -/
def Dev.closeBound (d : Dev) (i st : Nat) : Dev :=
  let e := (d.drone i).evf
  { d with boxes := mapVals Box.init (fun n b =>
      if n / 1024 = i / 32 ∧ b.core = i % 32 ∧ b.mvf = e then b.close st else b) d.boxes }

/-- The episode stops: why 1 or 2 leaves state 3 and status 4, why 3 state 2 and status 3, why 4 state 0 and status 5. -/
def Dev.stopDrone (d : Dev) (i why off : Nat) : Dev :=
  let d := d.closeBound i (match why with | 3 => 3 | 4 => 5 | _ => 4)
  d.modDrone i (fun c => { c with
    state := match why with | 3 => 2 | 4 => 0 | _ => 3
    why := why, off := off % 2 ^ 48, wait := .none, owes := none, resv := none })

/-- The end of an instruction: a trap goes to the core's own vector with its value or 0 (log 20), a stop ends the
episode. -/
def Dr.close (i : Nat) (r : Dr Unit) : Dev :=
  match r with
  | (d, .ok _) => d
  | (d, .error (.stop w o)) => d.stopDrone i w o
  | (d, .error (.trap c v)) =>
    let p := d.freeBit
    p.1.modDrone i (fun x => { x.trap c (if p.2 then v else 0) with wait := .none })

/-! ### Mailbox registers (R297) -/

/-- Whether an action's version lies in a window (R295). -/
def inVersions (win : DWord) (v : BitVec 16) : Bool :=
  let lo : BitVec 16 := win.setWidth 16
  let hi : BitVec 16 := (win >>> 16).setWidth 16
  decide ((v - lo).toNat ≤ (hi - lo).toNat)

/-- The core steps past a 4-byte instruction with a value for `rd`. -/
def Drone.done4 (c : Drone) (rd : Nat) (v : Nat) : Drone :=
  { c.setX rd (BitVec.ofNat 64 v) with pc := c.pc + 4, wait := .none }

/-- Write of `dmbsel`: a mailbox not bound is ignored. -/
def Dev.putSel (d : Dev) (i : Nat) (v : DWord) : Dev :=
  if d.bound i (v.toNat % 1024) then d.modDrone i (fun c => { c with sel := v.toNat % 1024 }) else d

/-- `dmbrx`: the head action is taken into the buffer, after an acquire at `.dev`. A core that waits at an empty FIFO owes nothing
(R296). -/
def Dev.dmbrx (d : Dev) (i : Nat) (rd : BitVec 5) : Dr Unit :=
  let c := d.drone i
  let b := d.box (i / 32) c.sel
  if !d.bound i c.sel then rvIllegal d 0 else
  match b.act with
  | [] =>
    if b.isOpen then (d.modDrone i (fun c => { c with wait := .rx rd, owes := none }), .ok ())
    else (d.modDrone i (fun c => c.done4 rd.toNat (statusWord b.status 0 0)), .ok ())
  | m :: _ =>
    if !m.placed then (d.modDrone i (fun c => { c with wait := .rx rd }), .ok ()) else
    (Dev.droneBytes d i .st c.buf.toNat m.bytes.length).andThen (fun d ps =>
      let d := d.modDrone i (fun c => { c with view := c.view.gain m.know })
      let d := (ps.zip m.bytes).foldl (fun d x => d.dronePoke i false false x.1 [x.2]) d
      let d := d.modBox (i / 32) c.sel (fun b => { b with act := b.act.drop 1 })
      let st := if inVersions c.win m.ver then 0 else 1
      (d.modDrone i (fun c => { c.done4 rd.toNat (statusWord st (m.bytes.length - 1) m.ver) with owes := some (c.owes.getD d.now) }), .ok ()))

/-- `dmbtx`: the buffer's first bytes are sent as an observation, a release at `.dev`. -/
def Dev.dmbtx (d : Dev) (i : Nat) (rd : BitVec 5) (value : DWord) : Dr Unit :=
  let c := d.drone i
  let b := d.box (i / 32) c.sel
  if !d.bound i c.sel then rvIllegal d 0 else
  if !b.isOpen then (d.modDrone i (fun c => c.done4 rd.toNat (statusWord b.status 0 0)), .ok ()) else
  if b.obs.length ≥ 8 then (d.modDrone i (fun c => { c with wait := .tx rd value }), .ok ()) else
  (Dev.droneBytes d i .ld c.buf.toNat (value.toNat % 256 + 1)).andThen (fun d ps =>
    let r := ps.foldl (fun (r : Dev × List Byte) pa =>
      let q := (r.1.droneTouch i pa 1).droneRead i false false pa 1
      (q.1, r.2 ++ q.2)) (d, [])
    let d := r.1
    let m : Msg := ⟨d.nextId, r.2, BitVec.ofNat 16 (bits value.toNat 16 16), true, (d.drone i).view.cum⟩
    let d := { d.modBox (i / 32) c.sel (fun b => { b with obs := b.obs ++ [m] }) with
               nextId := d.nextId + 1 }
    (d.modDrone i (fun c => { c.done4 rd.toNat 0 with owes := none, view := c.view.released }), .ok ()))

/-- `dmbclose`. -/
def Dev.dmbclose (d : Dev) (i : Nat) : Dr Unit :=
  let c := d.drone i
  if !d.bound i c.sel then rvIllegal d 0 else
  ((d.modBox (i / 32) c.sel (fun b => b.close 2)).modDrone i (fun c => c.done4 0 0), .ok ())

/-- The word of `dmbcnt`. -/
def Box.counts (b : Box) : Nat := (placedOf b.act).length + (8 - b.obs.length) * 2 ^ 4 + b.status * 2 ^ 8

/-- `dmbcnt`. -/
def Dev.dmbcnt (d : Dev) (i : Nat) (rd : BitVec 5) : Dr Unit :=
  let c := d.drone i
  if !d.bound i c.sel then rvIllegal d 0 else
  (d.modDrone i (fun x => x.done4 rd.toNat (d.box (i / 32) c.sel).counts), .ok ())

/-! ### Control-register instructions -/

/-- How an instruction accesses a register: whether it reads and whether it writes, and the value written for an old
one. -/
structure CsrAcc where
  reads : Bool
  writes : Bool
  put : DWord → DWord

/-- The access of a Zicsr instruction. -/
def csrAcc (c : Drone) (f3 rd rs : Nat) : CsrAcc :=
  let v : DWord := if f3 ≥ 4 then BitVec.ofNat 64 rs else c.getX rs
  match f3 % 4 with
  | 1 => ⟨rd != 0, true, fun _ => v⟩
  | 2 => ⟨true, rs != 0, fun o => o ||| v⟩
  | _ => ⟨true, rs != 0, fun o => o &&& ~~~v⟩

/-- Whether a standard register exists, floating-point ones with their state on. -/
def Drone.hasCsr (c : Drone) (n : Nat) : Bool :=
  if n = 1 ∨ n = 2 ∨ n = 3 then c.fsOn else n == 0x300 || n == 0x301 || rvPlain n || rvZero n || rvIds n || rvCounters n

/-- Read a standard register. -/
def Dev.droneCsr (d : Dev) (i n : Nat) : Dev × DWord :=
  let c := d.drone i
  if rvCounters n then (d.fresh.1, BitVec.ofNat 64 d.fresh.2) else
  (d,
    if n = 1 then c.getC 3 &&& 0x1F else if n = 2 then (c.getC 3 >>> 5) &&& 7 else if n = 3 then c.getC 3 &&& 0xFF
    else if n = 0x300 then rvStatus (c.getC n) else if n = 0x301 then rvMisa
    else if rvIds n then BitVec.ofNat 64 (Config.droneId i n) else if rvZero n then 0 else c.getC n)

/-- A Zicsr instruction. -/
def Dev.droneZicsr (d : Dev) (i w : Nat) : Dr Unit :=
  let c := d.drone i
  let n := bits w 20 12
  let rd := bits w 7 5
  let a := csrAcc c (bits w 12 3) rd (bits w 15 5)
  let plain := fun (old : DWord) (put : DWord → Dev → Dev) =>
    ((if a.writes then put (a.put old) d else d).modDrone i (fun c => c.done4 rd old.toNat), Except.ok ())
  match n with
  | 0x8C0 => plain (BitVec.ofNat 64 c.sel) (fun v d => d.putSel i v)
  | 0x8C1 => plain c.buf (fun v d => d.modDrone i (fun c => { c with buf := v &&& ~~~0x3F }))
  | 0x8C2 => if a.writes then rvIllegal d w else d.dmbrx i (BitVec.ofNat 5 rd)
  | 0x8C3 =>
    let p := d.fresh
    let old : DWord := BitVec.ofNat 64 p.2
    if a.writes then p.1.dmbtx i (BitVec.ofNat 5 rd) (a.put old)
    else if !d.bound i c.sel then rvIllegal d w
    else (p.1.modDrone i (fun c => c.done4 rd old.toNat), .ok ())
  | 0x8C4 => plain c.win (fun v d => d.modDrone i (fun c => { c with win := v &&& 0xFFFFFFFF }))
  | 0x8C5 => if a.reads then rvIllegal d w else d.dmbclose i
  | 0x8C6 => if a.writes then rvIllegal d w else d.dmbcnt i (BitVec.ofNat 5 rd)
  | n =>
    if !c.hasCsr n || (bits n 8 2 == 3 && !c.machine) || (bits n 10 2 == 3 && a.writes) then rvIllegal d w else
    let p := d.droneCsr i n
    (p.1.modDrone i (fun c => (if a.writes then c.putCsr n (a.put p.2) else c).done4 rd p.2.toNat), .ok ())

/-! ### One instruction (R287) -/

/-- The core goes on with its registers changed. -/
def Dev.droneGo (d : Dev) (i len : Nat) (f : Drone → Drone) : Dr Unit :=
  (d.modDrone i (fun c => let x := f c; { x with pc := c.pc + BitVec.ofNat 64 len }), .ok ())

/-- The core goes on at an address. -/
def Dev.droneJump (d : Dev) (i : Nat) (pc : DWord) (f : Drone → Drone) : Dr Unit := (d.modDrone i (fun c => { f c with pc := pc }), .ok ())

/-- Integer instructions without memory. -/
def Dev.droneInt (d : Dev) (i w len : Nat) : Dr Unit :=
  let c := d.drone i
  let rd := bits w 7 5
  let f3 := bits w 12 3
  let a := c.getX (bits w 15 5)
  let b := c.getX (bits w 20 5)
  let f7 := bits w 25 7
  let set := fun (v : DWord) => d.droneGo i len (·.setX rd v)
  let setO := fun (v : Option DWord) => match v with
    | some v => set v
    | none => rvIllegal d w
  match w % 128 with
  | 0x13 =>
    if f3 = 1 then (if bits w 26 6 = 0 then set (rvAlu 1 false a (immI w &&& 0x3F)) else rvIllegal d w)
    else if f3 = 5 then (if bits w 26 6 = 0 ∨ bits w 26 6 = 0x10 then set (rvAlu 5 (bits w 26 6 == 0x10) a (immI w &&& 0x3F)) else rvIllegal d w)
    else set (rvAlu f3 false a (immI w))
  | 0x1B =>
    if f3 = 0 then setO (rvAluW 0 false a (immI w))
    else if f3 = 1 then (if f7 = 0 then setO (rvAluW 1 false a (immI w &&& 0x1F)) else rvIllegal d w)
    else if f3 = 5 then (if f7 = 0 ∨ f7 = 0x20 then setO (rvAluW 5 (f7 == 0x20) a (immI w &&& 0x1F)) else rvIllegal d w)
    else rvIllegal d w
  | 0x33 =>
    if f7 = 1 then set (rvMul f3 a b)
    else if f7 = 0 then set (rvAlu f3 false a b)
    else if f7 = 0x20 ∧ (f3 = 0 ∨ f3 = 5) then set (rvAlu f3 true a b)
    else rvIllegal d w
  | 0x3B =>
    if f7 = 1 then setO (rvMulW f3 a b)
    else if f7 = 0 then setO (rvAluW f3 false a b)
    else if f7 = 0x20 ∧ (f3 = 0 ∨ f3 = 5) then setO (rvAluW f3 true a b)
    else rvIllegal d w
  | 0x37 => set (immU w)
  | 0x17 => set (c.pc + immU w)
  | 0x6F => d.droneJump i (c.pc + immJ w) (·.setX rd (c.pc + BitVec.ofNat 64 len))
  | 0x67 => if f3 ≠ 0 then rvIllegal d w else d.droneJump i ((a + immI w) &&& ~~~1) (·.setX rd (c.pc + BitVec.ofNat 64 len))
  | 0x63 => match rvTaken f3 a b with
    | none => rvIllegal d w
    | some true => d.droneJump i (c.pc + immB w) id
    | some false => d.droneGo i len id
  | _ => rvIllegal d w

/-- LR, SC and the AMOs. -/
def Dev.droneAtomic (d : Dev) (i w len : Nat) : Dr Unit :=
  let c := d.drone i
  let rd := bits w 7 5
  let f3 := bits w 12 3
  let a := (c.getX (bits w 15 5)).toNat
  let b := c.getX (bits w 20 5)
  let op := bits w 27 5
  let n := if f3 = 3 then 8 else 4
  let image := fun (v : Nat) => if n = 8 then BitVec.ofNat 64 v else word32 (BitVec.ofNat 64 v)
  let aq := w.testBit 26
  let rl := w.testBit 25
  if f3 ≠ 2 ∧ f3 ≠ 3 then rvIllegal d w
  else if op = 2 then
    if bits w 20 5 ≠ 0 then rvIllegal d w else
    (d.dronePa i .lr a n).andThen (fun d pa =>
      let p := (d.droneTouch i pa n).droneRead i true aq pa n
      p.1.droneGo i len (fun c => { c.setX rd (image (ofBytes p.2)) with resv := some (pa, n) }))
  else if op = 3 then
    (d.dronePa i .sc a n).andThen (fun d pa =>
      let p := d.freeBit
      if c.resv = some (pa, n) ∧ p.2 then
        (p.1.dronePoke i true rl pa (toBytes n b.toNat)).droneGo i len (fun c => { c.setX rd 0 with resv := none })
      else p.1.droneGo i len (fun c => { c.setX rd 1 with resv := none }))
  else match rvAmo op (n == 8) 0 0 with
    | none => rvIllegal d w
    | some _ =>
      (d.dronePa i .amo a n).andThen (fun d pa =>
        let p := d.droneRead i true aq pa n
        let old := image (ofBytes p.2)
        let v := (rvAmo op (n == 8) old b).getD 0
        (p.1.dronePoke i true rl pa (toBytes n v.toNat)).droneGo i len (·.setX rd old))

/-- Loads and stores, of integer and of floating-point registers. -/
def Dev.droneMem (d : Dev) (i w len : Nat) : Dr Unit :=
  let c := d.drone i
  let rd := bits w 7 5
  let f3 := bits w 12 3
  let x := c.getX (bits w 15 5)
  let n := 2 ^ (f3 % 4)
  match w % 128 with
  | 0x03 =>
    if f3 = 7 then rvIllegal d w else
    (d.droneLoad i .ld (x + immI w).toNat n).andThen (fun d v =>
      let u : DWord := BitVec.ofNat 64 v
      let v : DWord := if f3 ≥ 4 ∨ f3 = 3 then u else if f3 = 0 then (u.setWidth 8).signExtend 64
        else if f3 = 1 then (u.setWidth 16).signExtend 64 else word32 u
      d.droneGo i len (·.setX rd v))
  | 0x07 =>
    if (f3 ≠ 2 ∧ f3 ≠ 3) ∨ !c.fsOn then rvIllegal d w else
    (d.droneLoad i .ld (x + immI w).toNat n).andThen (fun d v =>
      d.droneGo i len (·.setF rd (rvBox (if f3 = 2 then fmtF32 else fmtF64) v) 0))
  | 0x23 =>
    if f3 ≥ 4 then rvIllegal d w else
    (d.droneStore i (x + immS w).toNat n (c.getX (bits w 20 5)).toNat).andThen (fun d _ => d.droneGo i len id)
  | _ =>
    if (f3 ≠ 2 ∧ f3 ≠ 3) ∨ !c.fsOn then rvIllegal d w else
    (d.droneStore i (x + immS w).toNat n (look 0 c.f (bits w 20 5)).toNat).andThen (fun d _ => d.droneGo i len id)

/-- The fused multiply-adds. -/
def Dev.droneFma (d : Dev) (i w len : Nat) : Dr Unit :=
  let c := d.drone i
  match rvFmt (bits w 25 2), c.rm? (bits w 12 3), c.fsOn with
  | some f, some rm, true =>
    let op := bits w 2 2
    let r := rvFma f rm (decide (op ≥ 2)) (op == 1 || op == 3) (c.getF f (bits w 15 5)) (c.getF f (bits w 20 5)) (c.getF f (bits w 27 5))
    d.droneGo i len (·.setF (bits w 7 5) (rvBox f r.1) r.2)
  | _, _, _ => rvIllegal d w

/-- The result of a floating-point instruction: a floating-point register with flags, or an integer register with flags
where it raises any. -/
inductive FRes where
  | f (v : DWord) (flags : Nat) | x (v : DWord) (flags : Option Nat) | bad

/-- The floating-point instructions of OP-FP. -/
def fpOp (c : Drone) (f : Fmt) (w : Nat) : FRes :=
  let m := bits w 12 3
  let s2 := bits w 20 5
  let a := c.getF f (bits w 15 5)
  let b := c.getF f s2
  let raw := look 0 c.f (bits w 15 5)
  let box := fun (r : Nat × Nat) => FRes.f (rvBox f r.1) r.2
  let rnd := fun (g : Nat → Nat × Nat) => match c.rm? m with
    | some rm => box (g rm)
    | none => .bad
  match bits w 27 5 with
  | 0 => rnd (fun rm => rvAddF f rm a b)
  | 1 => rnd (fun rm => rvSubF f rm a b)
  | 2 => rnd (fun rm => rvMulF f rm a b)
  | 3 => rnd (fun rm => rvDivF f rm a b)
  | 4 => match rvSgnj f m a b with
    | some v => box (v, 0)
    | none => .bad
  | 5 => if m ≤ 1 then box (rvMinMax f (m == 1) a b) else .bad
  | 8 => match rvFmt s2 with
    | some g =>
      if g.signBit = f.signBit then .bad else
      let x := c.getF g (bits w 15 5)
      rnd (fun rm => let r := rvRound f rm (g.decode x); (r.1, r.2 + (if rvSnan g x then 16 else 0)))
    | none => .bad
  | 0x0B => if s2 ≠ 0 then .bad else rnd (fun rm => rvSqrtF f rm a)
  | 0x14 => match rvCompare f m a b with
    | some (t, fl) => .x (if t then 1 else 0) (some fl)
    | none => .bad
  | 0x18 => match c.rm? m, decide (s2 ≤ 3) with
    | some rm, true => let r := rvToInt f rm s2 a; .x r.1 (some r.2)
    | _, _ => .bad
  | 0x1A => if s2 ≤ 3 then rnd (fun rm => rvRound f rm (Val.ofInt (rvFromInt s2 (c.getX (bits w 15 5))))) else .bad
  | 0x1C =>
    if s2 ≠ 0 then .bad
    else if m = 0 then .x (if f.signBit = 31 then word32 raw else raw) none
    else if m = 1 then .x (BitVec.ofNat 64 (rvClass f a)) none else .bad
  | 0x1E => if s2 ≠ 0 ∨ m ≠ 0 then .bad else .f (rvBox f ((c.getX (bits w 15 5)).toNat % 2 ^ (f.signBit + 1))) 0
  | _ => .bad

/-- OP-FP. -/
def Dev.droneFp (d : Dev) (i w len : Nat) : Dr Unit :=
  let c := d.drone i
  let rd := bits w 7 5
  match rvFmt (bits w 25 2), c.fsOn with
  | some f, true => match fpOp c f w with
    | .f v fl => d.droneGo i len (·.setF rd v fl)
    | .x v (some fl) => d.droneGo i len (fun c => (c.setX rd v).dirty fl)
    | .x v none => d.droneGo i len (·.setX rd v)
    | .bad => rvIllegal d w
  | _, _ => rvIllegal d w

/-- SYSTEM. -/
def Dev.droneSystem (d : Dev) (i w : Nat) : Dr Unit :=
  let c := d.drone i
  if bits w 12 3 ≠ 0 then (if bits w 12 3 = 4 then rvIllegal d w else d.droneZicsr i w) else
  match w with
  | 0x00000073 => (d, .error (.trap (if c.machine then 11 else 8) 0))
  | 0x00100073 => (d, .error (.trap 3 c.pc))
  | 0x10500073 =>
    let p := d.freeBit
    if !c.machine && (c.getC 0x300).getLsbD 21 && p.2 then rvIllegal p.1 w else p.1.droneGo i 4 id
  | 0x30200073 => if c.machine then (d.modDrone i Drone.mret, .ok ()) else rvIllegal d w
  | _ => rvIllegal d w

/-- One instruction of 32 bits, or one that a compressed one stands for. -/
def Dev.droneExec (d : Dev) (i w len : Nat) : Dr Unit :=
  match w % 128 with
  | 0x03 | 0x07 | 0x23 | 0x27 => d.droneMem i w len
  | 0x0F => if bits w 12 3 = 0 then (d.droneFence i).droneGo i len id else rvIllegal d w
  | 0x2F => d.droneAtomic i w len
  | 0x43 | 0x47 | 0x4B | 0x4F => d.droneFma i w len
  | 0x53 => d.droneFp i w len
  | 0x73 => if len = 2 then (d, .error (.trap 3 (d.drone i).pc)) else d.droneSystem i w
  | _ => d.droneInt i w len

/-- Run something on a core whose episode runs and does not wait. -/
def Dev.onDrone (d : Dev) (i : Nat) (f : Dev → Dr Unit) : Dev :=
  if (d.drone i).runs && (d.drone i).wait == .none && decide (i < 128) then (f d).close i else d

/-- DRONE_INSTRUCTION. -/
def Dev.droneStep (d : Dev) (i : Nat) : Dev :=
  d.onDrone i (fun d => (d.droneFetch i (d.drone i).pc.toNat).andThen (fun d p => match p.1 with
    | some w => d.droneExec i w p.2.1
    | none => rvIllegal d p.2.2))

/-- DRONE_MAILBOX_WAIT_RELEASE: the waiting access is made again. -/
def Dev.droneRelease (d : Dev) (i : Nat) : Dev :=
  if !(d.drone i).runs then d else
  match (d.drone i).wait with
  | .none => d
  | .rx rd => (d.dmbrx i rd).close i
  | .tx rd v => (d.dmbtx i rd v).close i

/-- Whether the step budget of a core has passed while a step is owed (R296). -/
def Dev.runsAway (d : Dev) (i : Nat) : Bool :=
  let c := d.drone i
  match c.owes with
  | some t => decide (c.runs ∧ c.budget ≠ 0 ∧ d.now ≥ t + c.budget)
  | none => false

/-- EPISODE_RUNAWAY (R296). -/
def Dev.runaway (d : Dev) (i : Nat) : Dev := if d.runsAway i then d.stopDrone i 3 0 else d

/-- EPISODE_FAULT_STOP: an access at an offset that the window refuses, or that cannot be corrected. -/
def Dev.faultStop (d : Dev) (i why off : Nat) : Dev :=
  let due := match d.windowPa i off 1 with
    | none => why == 1
    | some pa => why == 2 && (d.badAt pa 1).isSome
  if (d.drone i).runs && due then d.stopDrone i why off else d

/-- A write of run = 1 (R288). -/
def Dev.startEpisode (d : Dev) (i : Nat) : Dev :=
  d.modDrone i (fun c =>
    if c.state = 0 then
      { Drone.init with since := d.past.length, view := c.view, base := c.base, size := c.size, evf := c.evf, budget := c.budget, run := true, state := 1 }
    else { c with run := true })

/-- A write of run = 0 (R288): a running core stops; one that has stopped becomes idle; its mailboxes close with status 5. -/
def Dev.stopEpisode (d : Dev) (i : Nat) : Dev :=
  if (d.drone i).runs then (d.stopDrone i 4 0).modDrone i (fun c => { c with run := false })
  else (d.closeBound i 5).modDrone i (fun c => { c with run := false, state := 0 })

/-! ### The meanings -/

/-- An event of drone core k of a die. -/
def onCore (s : State) (die k : Nat) (f : Dev → Nat → Dev) : Host.Outcome State Fault Refusal :=
  s.onDev (fun d => if die < 4 ∧ k < 32 then f d (droneKey die k) else d)

def execDroneInstruction (die k : Nat) (s : State) := onCore s die k Dev.droneStep
def execDmbsel (die k : Nat) (v : DWord) (s : State) :=
  onCore s die k (fun d i => d.onDrone i (fun d => ((d.putSel i v).modDrone i (fun c => c.done4 0 0), .ok ())))
def execDmbrx (die k : Nat) (rd : BitVec 5) (s : State) := onCore s die k (fun d i => d.onDrone i (fun d => d.dmbrx i rd))
def execDmbtx (die k : Nat) (rd : BitVec 5) (v : DWord) (s : State) := onCore s die k (fun d i => d.onDrone i (fun d => d.dmbtx i rd v))
def execDmbclose (die k : Nat) (s : State) := onCore s die k (fun d i => d.onDrone i (fun d => d.dmbclose i))
def execDmbcnt (die k : Nat) (rd : BitVec 5) (s : State) := onCore s die k (fun d i => d.onDrone i (fun d => d.dmbcnt i rd))
def execDroneMailboxWaitRelease (die k : Nat) (s : State) := onCore s die k Dev.droneRelease
def execEpisodeRunaway (die k : Nat) (s : State) := onCore s die k Dev.runaway
def execEpisodeFaultStop (die k : Nat) (why : BitVec 8) (off : BitVec 48) (s : State) :=
  onCore s die k (fun d i => d.faultStop i why.toNat off.toNat)

end Sys2Proof.Machine
end

