-- ==== Sys2Proof/Machine/Matrix.lean ====
section
/-!
DEFINITION. Row 7: matrix operations on plane-form records (R235 to R243), tiles (R236, R244), drains (R245 to R247) and
the state of an array (R248), with the failures of R383 and R384.
-/
namespace Sys2Proof.Machine

/-! ### Tiles (R236, R237) -/

/-- Element (i, j) of a tile. -/
def Tile.at (t : Tile) (i j : Nat) : Word := look 0 t (64 * i + j)

/-- A tile from its elements. -/
def mkTile (f : Nat → Nat → Word) : Tile :=
  ((List.range 4096).map (fun k => (k, f (k / 64) (k % 64)))).filter (fun e => e.2 != 0)

/-- A tile of a group. -/
def Dev.tile (d : Dev) (g t : Nat) : Tile := ((d.group? g).map (fun x => look [] x.tiles t)).getD []

/-- Write a tile whole; it is good from then on. -/
def Dev.setTile (d : Dev) (g t : Nat) (v : Tile) : Dev :=
  { d.modGroup g (fun x => { x with tiles := put [] x.tiles t v }) with badTile := d.badTile.filter (· != (g, t)) }

/-- The place of a tile of a group in the order of accesses; its elements are accessed together (R236). -/
def tilePlace (g t : Nat) : Nat := 2 ^ 63 + 32 * g + t

/-- Lanes of a warp access a tile: an access of theirs as any other is (R184, R236). -/
def Dev.meetTile (d : Dev) (x : Ix) (ls : LaneSet) (t : Nat) : Dev :=
  let v := d.before x ls (tilePlace x.g t) 1
  d.modWarp x.g x.wi (·.meet ls (tilePlace x.g t) 1 v)

/-- An operation takes a tile's scoreboard entry. -/
def Dev.holdTile (d : Dev) (g t id : Nat) : Dev := d.modGroup g (fun x => { x with holds := (t, id) :: x.holds })
/-- An operation's scoreboard entries clear. -/
def Dev.freeTiles (d : Dev) (id : Nat) : Dev :=
  { d with groups := d.groups.map (fun x => { x with holds := x.holds.filter (·.2 != id) }) }

/-! ### The record of `mmac` (R239) -/

structure Mm where
  offa : Nat
  offb : Nat
  kg : Nat
  fgid : Nat
  spa : Nat
  spb : Nat
  bad : Bool
  deriving DecidableEq, Repr

def mmOf (r : List DWord) : Mm :=
  let w := recW r
  { offa := bits (w 0) 0 21, offb := bits (w 1) 0 21, kg := bits (w 2) 0 16, fgid := bits (w 3) 0 32, spa := bits (w 4) 0 5,
    spb := bits (w 4) 8 5,
    bad := bits (w 0) 21 43 != 0 || bits (w 1) 21 43 != 0 || bits (w 2) 16 48 != 0 || bits (w 3) 32 32 != 0 || bits (w 4) 5 3 != 0
      || bits (w 4) 13 51 != 0 || bits (w 2) 0 16 == 0 || decide (bits (w 4) 0 5 < 2 ∨ bits (w 4) 0 5 > 16)
      || decide (bits (w 4) 8 5 < 2 ∨ bits (w 4) 8 5 > 16) }

/-- The follower group: of the grid, resident on the odd core of the pair, with index fgid. -/
def Dev.follower (d : Dev) (x : Group) (fgid : Nat) : Option Group :=
  if x.row % 2 = 1 then none
  else d.groups.find? (fun y => y.grid == x.grid && y.gid == fgid && y.die == x.die && y.cl == x.cl && y.row == x.row + 1 && !y.freed)

/-- The refusal of an `mmac` (R383), by ascending code; the follower group of a pair. -/
def Dev.mmRefuse (d : Dev) (x : Group) (m : Mm) (n k t : Nat) (solo : Bool) : Except Flt (Option Group) :=
  if m.bad || solo && m.fgid != 0 then .error ⟨0x0D0, 0, 0⟩
  else if n > m.spa ∨ k > m.spb then .error ⟨0x0D1, 0, 0⟩
  else if m.offa % 64 ≠ 0 then .error ⟨0x0D2, 0, m.offa⟩
  else if m.offb % 64 ≠ 0 then .error ⟨0x0D2, 0, m.offb⟩
  else if solo then .ok none
  else match d.follower x m.fgid with
    | none => .error ⟨0x0D3, 0, m.fgid⟩
    | some y => if t ≥ y.lr.acc then .error ⟨0x0D4, 0, t⟩ else .ok (some y)

/-- The cores whose arrays an operation holds (R235). -/
def Op.arrays (o : Op) : List Nat :=
  match o.kind with
  | .mmac _ _ _ _ _ f _ _ => o.src.core :: (f.map (·.2)).toList
  | _ => []

/-- The operation that runs on a core's array. -/
def Dev.onArray (d : Dev) (core : Nat) : Option Op := d.ops.find? (fun o => o.arrays.contains core)

/-- `mmac` (R239, R241): the refusals, a rest while an array or the follower's tile is in use, and the fork. -/
def Dev.mmac (d : Dev) (o : OpW) : Dev :=
  let t := o.immBits 0 4
  let z := o.imm.getLsbD 4
  let solo := o.imm.getLsbD 5
  let n := o.sub + 1
  let k := o.ty.code.toNat + 1
  d.scalarAct o [] [(o.a, 5)] (fun d x =>
    let r := x.record o.a 5
    match d.mmRefuse x.x (mmOf r) n k t solo with
    | .error f => (d, .fault f)
    | .ok y =>
      let busy := (d.onArray x.x.core).isSome || (match y with
        | some y => (d.onArray y.core).isSome || y.held t
        | none => false)
      if busy then (d, .rest .other) else
      let id := d.nextId
      let d := d.meetTile x (x.guard o) t
      let d := (d.fork (x.origin (x.guard o)) 0 (.mmac r n k z t (y.map (fun y => (y.id, y.core))) 0 0)).holdTile x.g t id
      (match y with
        | some y => d.holdTile y.id t id
        | none => d, .done)) [t]

/-! ### The run of an operation (R240, R241, R108) -/

/-- The q of row or column n for element k in a record of which `p` planes are read (R107, R240). -/
def planeRead (m : Memory) (off p n k : Nat) : Int :=
  (BitVec.ofNat p ((List.range p).foldl (fun v t =>
    2 * v + bits (Memory.byte m (off + 64 + 128 * t + 8 * k + n / 8)).toNat (n % 8) 1) 0)).toInt

/-- One K-group added into a tile: exponents and significands of rows and columns (R108). -/
def groupStep (w : Tile) (ma : Memory) (oa n : Nat) (mb : Memory) (ob k : Nat) : Tile :=
  mkTile (fun i j =>
    let ea := (Memory.byte ma (oa + i)).toNat
    let eb := (Memory.byte mb (ob + j)).toNat
    if ea = 0 ∨ eb = 0 then w.at i j else
    let dd := ((List.range 16).map (fun e => planeRead ma oa n i e * planeRead mb ob k j e)).foldl (· + ·) 0
    if dd = 0 then w.at i j else
    let c : Int := ((ea : Int) - 127 - n + 2) + ((eb : Int) - 127 - k + 2)
    toF32 .rne ((f32 (w.at i j)).add .rne (.fin (decide (dd < 0)) dd.natAbs 1 c)))

/-- What stops an operation at a K-group: an absent line at an offset, and whether its count is 0, or a failure with its D5
and D6 (R242, R383). -/
inductive MmStop where
  | absent (off : Nat) (orphan : Bool) | fail (c : Cause) (d5 d6 : Nat)
  deriving DecidableEq, Repr

/-- What stops the read of a K-group record in a window: its extent, an absent line, an error, an exponent (R383). -/
def recStop (d : Dev) (y : Group) (g off p size : Nat) : Option MmStop :=
  if off + size > y.lr.window then some (.fail 0x0D5 g off) else
  match y.absent off (64 + 128 * p) with
  | l :: _ => some (.absent (128 * l) ((look Line.fresh y.lines l).count == 0))
  | [] =>
    if (d.sramBad (scratchGran y.id) true off (64 + 128 * p)).isSome then some (.fail 0x0D7 g 0)
    else if (List.range 64).any (fun n => Memory.byte y.scratch (off + n) == 0xFF) then some (.fail 0x0D6 g off)
    else none

/-- Whether every live thread of the issuing group waits on presence, at a barrier, at a mask, or for a tile that an
operation holds (0x0D8). -/
def Dev.allStuck (d : Dev) (x : Group) (id : Nat) : Bool :=
  x.warps.all (fun w =>
    w.allWait x.stuck || (w.live &&& ~~~(w.waiting x.stuck &&& ~~~w.handler) &&& ~~~(w.issuing &&& ~~~w.handler)) == 0 &&
      (match d.hazardOf x w with
        | some t => x.holds.contains (t, id)
        | none => false))

/-- The cycles of a K-group, and those that an operation holds its arrays for (R242). -/
def mmRate (n k : Nat) : Nat := k * (if n ≤ 8 then 1 else 2)
def mmCycles (n k kg : Nat) : Nat := 32 + kg * mmRate n k

/-- What stops an operation at K-group g, if anything does. -/
def Dev.mmStopAt (d : Dev) (op : Op) (g : Nat) : Option MmStop :=
  match op.kind, d.group? op.src.g with
  | .mmac r n k z t f _ _, some x =>
    let m := mmOf r
    let y := f.bind (fun p => d.group? p.1)
    let sa := 64 + 128 * m.spa
    let sb := 64 + 128 * m.spb
    let oa := m.offa + g * sa
    if g = 0 && !z && (d.badTile.contains (x.id, t) || (match y with
        | some y => d.badTile.contains (y.id, t)
        | none => false)) then some (.fail 0x0D7 0 0)
    else (recStop d x g oa n sa).or (((y.bind (fun y => recStop d y g oa n sa))).or (recStop d x g (m.offb + g * sb) k sb))
  | _, _ => none

/-- The first K-group that an operation has still to read and that stops it: those before the one it is in are read. -/
def Dev.mmStop (d : Dev) (op : Op) : Option (Nat × MmStop) :=
  match op.kind with
  | .mmac r n k _ _ _ ran _ =>
    let kg := (mmOf r).kg
    let read := (ran - 32 + mmRate n k - 1) / mmRate n k
    ((List.range (kg - read)).map (· + read)).findSome? (fun g => (d.mmStopAt op g).map (fun s => (g, s)))
  | _ => none

/-- How many cycles an operation can have run by now: to its end, or to the K-group that stops it. -/
def Dev.mmLimit (d : Dev) (op : Op) : Nat :=
  match op.kind with
  | .mmac r n k _ _ _ _ _ => mmCycles n k (((d.mmStop op).map (·.1)).getD (mmOf r).kg)
  | _ => 0

/-- Time passes for an operation: waits on presence add to its count (R242). -/
def Dev.mmPass (d : Dev) (n : Nat) (op : Op) : Op :=
  match op.kind with
  | .mmac r p k z t f ran shown => { op with kind := .mmac r p k z t f (Nat.max ran (Nat.min (ran + n) (d.mmLimit op))) shown }
  | _ => op

/-- The K-groups that an operation has accumulated for certain. -/
def Op.mmDone (op : Op) : Nat :=
  match op.kind with
  | .mmac r n k _ _ _ ran _ => Nat.min (mmOf r).kg ((ran - 32) / mmRate n k)
  | _ => 0

/-- Whether an operation has run its cycles (R242). -/
def Op.mmOver (op : Op) : Bool :=
  match op.kind with
  | .mmac r n k _ _ _ ran _ => decide (ran ≥ mmCycles n k (mmOf r).kg)
  | _ => false

/-- The K-groups of an operation, in ascending order, added into the leader's and the follower's tile: `x` and `y` are the two
scratchpads, if there is a follower. -/
def mmGroups (m : Mm) (n k : Nat) (x : Memory) (y : Option Memory) : Nat → Nat → Tile × Tile → Tile × Tile
  | 0, _, w => w
  | fuel + 1, g, w =>
    let oa := m.offa + g * (64 + 128 * m.spa)
    let ob := m.offb + g * (64 + 128 * m.spb)
    mmGroups m n k x y fuel (g + 1) (groupStep w.1 x oa n x ob k, match y with
      | some y => groupStep w.2 y oa n x ob k
      | none => w.2)

/-- The accesses of the operation that committed to a tile last, which those who wait for it and read it join (R243). -/
def Dev.knowTile (d : Dev) (g t : Nat) (ids : List Nat) : Dev := d.modGroup g (fun x => { x with tileKnow := put [] x.tileKnow t ids })

/-- MMAC_COMMIT: both tiles in one step, and then the scoreboard entries clear (R241, R237). -/
def Dev.mmCommit (d : Dev) (id : Nat) : Dev :=
  match d.op? id with
  | none => d
  | some op => match op.kind, op.mmOver with
    | .mmac r n k z t f _ _, true =>
      let kg := (mmOf r).kg
      let start := fun (g : Nat) => if z then [] else d.tile g t
      let y := (f.map (·.1)).getD 0
      let p := d.engineScratch op.src op.src.g
      let q := p.1.engineScratch op.src y
      let w := mmGroups (mmOf r) n k p.2 (f.map (fun _ => q.2)) kg 0 (start op.src.g, start y)
      let d := (q.1.setTile op.src.g t w.1).knowTile op.src.g t (q.1.opView op.src).cum
      let d := if f.isSome then (d.setTile y t w.2).knowTile y t (q.1.opView op.src).cum else d
      ((d.freeTiles id).count op.src.die op.src.vf 9 kg).dropOp id
    | _, _ => d

/-- An imprecise trap in a group's warp: its record names some lanes, which enter handler mode, or the queue is killed
when the grid has no handler (R384). -/
def Dev.imprecise (d : Dev) (g wi q : Nat) (r : Rec) (ls : LaneSet) : Dev :=
  match d.group? g with
  | some x =>
    let tvec := d.tvecOf x
    if ls != 0 && tvec == 0 then d.recordKill q { r with lanes := ls } else
    (d.recordFor q { r with lanes := ls } { group := g, warp := wi, lanes := ls }).1.modWarp g wi
      (·.enter tvec ((lanesOf ls).map (fun L => (L, ⟨r.cause, r.d5, r.d6⟩))))
  | none => d.record q r

/-- An `mmac` fails: its working copy goes, its entries clear, and its lanes are told (R384). -/
def Dev.failMmac (d : Dev) (op : Op) (c : Cause) (d5 d6 : Nat) (unres : Bool) : Dev :=
  let d := ((d.freeTiles op.id).count op.src.die op.src.vf 9 op.mmDone).dropOp op.id
  let ls := match d.warp? op.src.g op.src.w with
    | some w => op.src.lanes &&& w.live &&& ~~~w.handler &&& ~~~(setOf (keysOf w.park))
    | none => 0
  d.imprecise op.src.g op.src.w op.src.queue { op.src.record c d5 d6 with imp := true, unres := unres } ls

/-- What an operation fails with at the K-group that stops it: an absent line whose count is 0 fails it once nothing can
land there any more (0x0D8). -/
def Dev.mmFault (d : Dev) (op : Op) : Option (Cause × Nat × Nat) :=
  match d.mmStop op, d.group? op.src.g with
  | some (_, .fail c d5 d6), _ => some (c, d5, d6)
  | some (g, .absent off true), some x => if d.allStuck x op.id then some (0x0D8, g, off) else none
  | _, _ => none

/-- MMAC_FAILURE, once the operation has reached the K-group (R384). -/
def Dev.mmFailure (d : Dev) (id : Nat) : Dev :=
  match d.op? id with
  | none => d
  | some op => match op.kind, d.mmFault op with
    | .mmac _ _ _ _ _ _ ran _, some (c, d5, d6) => if ran < d.mmLimit op then d else d.failMmac op c d5 d6 false
    | _, _ => d

/-! ### Setting tiles (R244) -/

def Dev.mzero (d : Dev) (o : OpW) : Dev :=
  let t := o.immBits 0 4
  d.scalarAct o [] [] (fun d x => ((d.meetTile x (x.guard o) t).setTile x.g t [], .done)) [t]

/-- The rows of an `mload`. -/
def loadRows (a b size : Nat) : List (Nat × Nat) := (List.range 64).map (fun i => (a + i * b, 64 * size))

/-- `mload`: it waits on presence as a load does. -/
def Dev.mload (d : Dev) (o : OpW) : Dev :=
  let t := o.immBits 0 4
  let size := o.ty.width / 8
  match d.ix with
  | none => d
  | some x => (d.scalarAct o [] [(o.a, 1), (o.b, 1)] (fun d x =>
      let a := (x.sval o o.a).toNat
      let b := (x.sval o o.b).toNat
      let rows := loadRows a b size
      if a % 64 ≠ 0 ∨ b % 64 ≠ 0 ∨ b < 64 * size then (d, .fault ⟨0x0D9, 0, a⟩)
      else if a + 63 * b + 64 * size > x.x.lr.window then (d, .fault ⟨0x0DA, 0, a⟩)
      else
        let away := rows.flatMap (fun r => d.awaited x r.1 r.2)
        if away ≠ [] then (d, .rest (.presence a (linesOf rows)))
        else match rows.findSome? (fun r => d.sramBad (scratchGran x.g) true r.1 r.2) with
          | some g => (d, .fault ⟨0x171, a, 8 * g⟩)
          | none =>
            let d := d.presenceJoin x (x.guard o) (linesOf rows)
            let p := rows.foldl (fun r q => let s := r.1.readWords x (x.guard o) (.sp q.1) q.2 size; (s.1, r.2 ++ [s.2])) (d, [])
            ((p.1.meetTile x (x.guard o) t).setTile x.g t (mkTile (fun i j =>
              BitVec.ofNat 32 (fCvt .f32 o.ty .rne 0 (ofBytes (((p.2.getD i []).drop (j * size)).take size))))), .done)) [t]).presenceCheck x.g

/-! ### Drains (R245 to R247) -/

structure Drain where
  dst : Nat
  pitch : Nat
  done : Nat
  bad : Bool
  deriving DecidableEq, Repr

def drainOf (r : List DWord) : Drain :=
  let w := recW r
  { dst := bits (w 0) 0 56, pitch := bits (w 1) 0 24, done := bits (w 2) 3 53 * 8,
    bad := bits (w 0) 56 8 != 0 || bits (w 1) 24 40 != 0 || bits (w 2) 0 3 != 0 || bits (w 2) 56 8 != 0 }

/-- The bytes of a drained row of a type. -/
def rowBytes (t : Ty) : Nat := 8 * t.width

/-- The disabled cluster site of a die (R12). -/
def Dev.siteOff (d : Dev) (die : Nat) : Nat := look 12 d.cfg.repair die
/-- The device core number of a place that names an enabled site (R12, R48). -/
def Dev.placeCore (d : Dev) (p : Nat) : Nat :=
  let die := bits p 7 2
  let col := bits p 0 4
  96 * die + 8 * (if col < d.siteOff die then col else col - 1) + bits p 4 3

/-- The rows that a drain writes. -/
def Drain.rows (c : Drain) (t : Ty) : List (Nat × Nat) := (List.range 64).map (fun i => (c.dst + i * c.pitch, rowBytes t))

/-- The refusal of an `mdrain` of a kind (R383). -/
def Dev.drainRefuse (d : Dev) (x : Group) (c : Drain) (kind place : Nat) (t : Ty) : Option Flt :=
  let shape := match kind with
    | 0 => c.dst ≥ 2 ^ 32 || c.pitch != 0
    | 1 => c.dst % 64 != 0 || c.pitch % 64 != 0 || decide (c.pitch < rowBytes t)
    | _ => c.dst % 64 != 0 || c.pitch % 64 != 0 || decide (c.pitch < 256)
  if c.bad || shape then some ⟨0x0DB, 0, 0⟩
  else if kind = 1 ∧ c.dst + 63 * c.pitch + rowBytes t > x.lr.window then some ⟨0x0DC, 0, c.dst⟩
  else if kind = 0 ∧ bits place 0 4 = d.siteOff (bits place 7 2) then some ⟨0x0DF, 0, place⟩
  else none

/-- `mdrain` (R245). -/
def Dev.mdrain (d : Dev) (o : OpW) : Dev :=
  let t := o.sub
  let kind := o.immBits 11 2
  let rm := o.immBits 0 3
  let place := o.immBits 0 9
  d.scalarAct o [] [(o.a, 3)] (fun d x =>
    let r := x.record o.a 3
    let c := drainOf r
    match d.drainRefuse x.x c kind place o.ty with
    | some f => (d, .fault f)
    | none =>
      let L := lowest (x.guard o)
      let id := d.nextId
      let d := d.meetTile x (x.guard o) t
      let d := if kind = 1 then d.clearLines x.g (linesOf (c.rows o.ty)) else d
      let d := (d.fork (x.origin (x.guard o)) c.done
        (.drain r kind t o.ty.code.toNat rm place x.w.rngkey L (look 0 x.w.rngctr L) none)).holdTile x.g t id
      (if kind = 1 ∧ rm = 5 then
        d.modWarp x.g x.wi (fun w => { w with rngctr := put 0 w.rngctr L (look 0 w.rngctr L + 4096) }) else d, .done)) [t]

/-- The code of element (i, j) of a drained tile (R246): at f32 its own, but for a NaN, which is canonical (R94). -/
def drainCode (t : Ty) (rm : Nat) (key : DWord) (lane : Nat) (ctr : Word) (v : Tile) (i j : Nat) : Nat :=
  let out := if rm = 5 then Sys2Proof.draw key lane (ctr + BitVec.ofNat 32 (64 * i + j)) else 0
  if t == .f32 && f32 (v.at i j) != .nan then (v.at i j).toNat else t.fmt.round (Rm.ofCode rm) out (f32 (v.at i j))

/-- Row i of a drained tile as bytes: nibbles low first at e2m1 (R6). -/
def drainRow (t : Ty) (f : Nat → Nat) : List Byte :=
  if t.width = 4 then (List.range 32).map (fun k => BitVec.ofNat 8 (f (2 * k) + 16 * f (2 * k + 1)))
  else (List.range 64).flatMap (fun j => toBytes (t.width / 8) (f j))

/-- The bytes of a scratchpad drain, row by row. -/
def drainBytes (c : Drain) (t : Ty) (rm : Nat) (key : DWord) (lane : Nat) (ctr : Word) (v : Tile) : List (Nat × List Byte) :=
  (List.range 64).map (fun i => (c.dst + i * c.pitch, drainRow t (drainCode t rm key lane ctr v i)))

/-- Add a tile into 64 rows of f32 words at their homes: every line is translated and readable before anything is added
(R246, R384). -/
def Dev.addStore (d : Dev) (o : Origin) (space : Nat) (c : Drain) (v : Tile) : Er Unit :=
  let who := { d.ewho o 2 with rmw := true, words := true }
  let n := d.past.length
  let sum := fun (old : List Byte) i => (List.range 64).flatMap (fun j =>
    toBytes 4 (fAdd .rne (BitVec.ofNat 32 (ofBytes ((old.drop (4 * j)).take 4))) (v.at i j)).toNat)
  if space = 2 then
    match (List.range 64).find? (fun i => let a := c.dst + i * c.pitch; !(d.hiveOk o.vf a && d.hiveOk o.vf (a + 255))) with
    | some i => (d, .error (.mem 0x086 (c.dst + i * c.pitch)))
    | none => match (List.range 64).find? (fun i => (d.sramBad hiveGran true (c.dst + i * c.pitch) 256).isSome) with
      | some i => (d, .error (.mem 0x172 (c.dst + i * c.pitch)))
      | none => ((List.range 64).foldl (fun d i =>
          let a := c.dst + i * c.pitch
          ((d.ecount o 2 [(a, 256)]).pokeHive who a (sum (Memory.readBytes d.hive a 256) i)).opWrote o n) d, .ok ())
  else
    (Er.each (fun d l i => (Er.each (fun d l s =>
        (d.epage o.vf o.die .rmw .plain (c.dst + i * c.pitch + 64 * s)).andThen (fun d t =>
          if (d.badAt t.2.2 64).isSome then (d, .error (.mem 0x170 (c.dst + i * c.pitch + 64 * s)))
          else (d, .ok (l ++ [t.2.2])))) (List.range 4) d []).andThen (fun d ps => (d, .ok (l ++ [(i, ps)])))) (List.range 64) d []).andThen
      (fun d rows => (rows.foldl (fun d r =>
        let old := r.2.flatMap (fun pa => Memory.readBytes d.mem pa 64)
        let new := sum old r.1
        ((List.range 4).zip r.2).foldl (fun d p =>
          ((d.requests o.vf p.2 64 o.die).poke who p.2 ((new.drop (64 * p.1)).take 64)).opWrote o n) d) d, .ok ()))

/-- Whether an error of a drain stalls it, and its code (R383). -/
def drainStop (e : EFault) : Bool × Cause × Nat × Nat :=
  match e with
  | .mem c a => if e.isV0 then (true, 0x0DE, c, a) else (false, 0x0DD, c, a)
  | .own c a b => (false, c, a, b)

/-- A drain fails: its scratchpad bytes are old or new, and an add is performed whole or not at all (R379). -/
def Dev.failDrain (d : Dev) (op : Op) (c : Cause) (d5 d6 : Nat) (unres : Bool) : Dev :=
  match op.kind with
  | .drain r kind _ su rm _ key lane ctr read =>
    let x := drainOf r
    let t := Ty.ofCode (BitVec.ofNat 4 su)
    let d := match read with
      | some v => if kind = 1 then
          d.maybeBytes op.src 2 1 ((drainBytes x t rm key lane ctr v).flatMap (fun (p : Nat × List Byte) =>
            (List.range p.2.length).map (fun k => (p.1 + k, p.2.getD k 0))))
        else if c = 0x1D4 ∧ kind ≠ 0 then (let p := d.freeBit; if p.2 then (p.1.addStore op.src (if kind = 3 then 2 else 0) x v).1 else p.1)
        else d
      | none => d
    (d.freeTiles op.id).failOp op 2 c d5 d6 unres 1 (if kind = 1 then linesOf (x.rows t) else []) 0x0DE
  | _ => d

/-- The end of a drain that has delivered. -/
def Dev.drainEnd (d : Dev) (op : Op) : Dev :=
  let a := d.arrival op.src 2 op.done 1 false
  match a.2 with
  | .ok _ => a.1.dropOp op.id
  | .error e => match drainStop e with
    | (true, c, d5, d6) => d.stallOp op c d5 d6
    | (false, c, d5, d6) => d.failDrain op c d5 d6 false

/-- What a drain to memory delivers, with its arrival. -/
def Dev.drainOut (d : Dev) (op : Op) (c : Drain) (kind : Nat) (rows : List (Nat × List Byte)) (v : Tile) : Er Unit :=
  let r : Er Unit := if kind = 1 then
      Er.each (fun d _ p => d.eswrite op.src 2 1 p.1 p.2) rows d ()
    else d.addStore op.src (if kind = 3 then 2 else 0) c v
  r.andThen (fun d _ => d.arrival op.src 2 op.done 1 false)

/-- MDRAIN_DELIVERY: the tile is read once, and at a later move it is delivered (R246, R247). -/
def Dev.drainStep (d : Dev) (id : Nat) : Dev :=
  match d.op? id with
  | none => d
  | some op => match op.kind, op.stall with
    | .drain r kind t su rm place key lane ctr none, none =>
      if d.badTile.contains (op.src.g, t) then d.failDrain op 0x0D7 0 0 false
      else (d.freeTiles id).modOp id (fun o => { o with kind := .drain r kind t su rm place key lane ctr (some (d.tile op.src.g t)) })
    | .drain r kind _ su rm _ key lane ctr (some v), none =>
      if kind = 0 then d else
      let c := drainOf r
      let ty := Ty.ofCode (BitVec.ofNat 4 su)
      let p := d.drainOut op c kind (drainBytes c ty rm key lane ctr v) v
      (match p.2 with
      | .ok _ => (p.1.landLines op.src.g (p.1.thrOf op.src) (if kind = 1 then linesOf (c.rows ty) else [])).dropOp id
      | .error e => match drainStop e with
        | (true, k, d5, d6) => d.stallOp op k d5 d6
        | (false, k, d5, d6) => d.failDrain op k d5 d6 false)
    | _, _ => d

/-- The peer group of a drain: of the function, on the named core, of the same kernel, placed first (R246). -/
def Dev.peerGroup (d : Dev) (o : Origin) (place gid : Nat) : Option Group :=
  match d.group? o.g with
  | none => none
  | some x => leastBy (·.id) (d.groups.filter (fun y => y.vf == o.vf && y.core == d.placeCore place && y.gid == gid
      && bits y.lr.d0.toNat 0 56 == bits x.lr.d0.toNat 0 56 && !y.freed && !y.finished))

/-- PEER_ADD: the add applies once no operation holds the peer's tile (R246). -/
def Dev.peerAdd (d : Dev) (id : Nat) : Dev :=
  match d.op? id with
  | none => d
  | some op => match op.kind, op.stall with
    | .drain r 0 _ u _ place _ _ _ (some v), none =>
      match d.peerGroup op.src place (drainOf r).dst with
      | none => d.failDrain op 0x0DF 1 place false
      | some y =>
        if u ≥ y.lr.acc then d.failDrain op 0x0DF 1 place false
        else if y.held u then d
        else if d.badTile.contains (y.id, u) then d.failDrain op 0x0D7 0 0 false
        else
          let old : Tile := look [] y.tiles u
          let e := (d.setTile y.id u (mkTile (fun i j => fAdd .rne (Tile.at old i j) (Tile.at v i j)))).arrival op.src 2 op.done 1 false
          (match e.2 with
          | .ok _ => e.1.dropOp id
          | .error e => match drainStop e with
            | (true, k, d5, d6) => d.stallOp op k d5 d6
            | (false, k, d5, d6) => d.failDrain op k d5 d6 false)
    | _, _ => d

/-! ### The state of an array (R248) -/

/-- `mstat`: the K-groups left are as of some moment: no fewer accumulated than the cycles run account for and an earlier read
has shown, and no more than have been read at the rate of R242. -/
def Dev.mstat (d : Dev) (o : OpW) : Dev :=
  d.scalarAct o [(o.d, 1)] [] (fun d x =>
    match d.onArray x.x.core with
    | none => (d.setS x o.d 0, .done)
    | some op => match op.kind with
      | .mmac r n k z t f ran shown =>
        let role := if op.src.core ≠ x.x.core then 2 else if f.isSome then 1 else 3
        let own := op.src.g == x.g || f.map (·.1) == some x.g
        let kg := (mmOf r).kg
        let least := Nat.max shown op.mmDone
        let most := Nat.min (((d.mmStop op).map (·.1)).getD kg) (ran / mmRate n k)
        let p := d.fresh
        let got := least + p.2 % (most - least + 1)
        let left := kg - got
        let v := 1 + role * 2 + (if own then 8 + t * 2 ^ 4 + (n - 1) * 2 ^ 8 + (k - 1) * 2 ^ 12 + left * 2 ^ 16 else 0)
        ((p.1.modOp op.id (fun o => { o with kind := .mmac r n k z t f ran got })).setS x o.d (BitVec.ofNat 64 v), .done)
      | _ => (d.setS x o.d 0, .done))

/-! ### The meanings -/

def execMmac (f : FWord) (s : State) := s.onDev (·.mmac (fop f))
def execMzero (f : FWord) (s : State) := s.onDev (·.mzero (fop f))
def execMload (f : FWord) (s : State) := s.onDev (·.mload (fop f))
def execMdrain (f : FWord) (s : State) := s.onDev (·.mdrain (fop f))
def execMstat (f : FWord) (s : State) := s.onDev (·.mstat (fop f))
def execMmacCommit (op : Nat) (s : State) := s.onDev (·.mmCommit op)
def execMmacFailure (op : Nat) (s : State) := s.onDev (·.mmFailure op)
def execMdrainDelivery (op : Nat) (s : State) := s.onDev (·.drainStep op)
def execPeerAdd (op : Nat) (s : State) := s.onDev (·.peerAdd op)

end Sys2Proof.Machine
end

