-- ==== Sys2Proof/Machine/Save.lean ====
section
/-!
DEFINITION. The bytes of a group save (R204) and the group that they give back, and pre-emption requests (R403).
-/
namespace Sys2Proof.Machine

/-! ### Accesses of the device through a function's page table -/

/-- The outcome of a piece of work that can take a memory fault. -/
abbrev Vr (α : Type) := Dev × Except Flt α

def Vr.andThen {α β : Type} (r : Vr α) (f : Dev → α → Vr β) : Vr β :=
  match r with
  | (d, .ok a) => f d a
  | (d, .error e) => (d, .error e)

/-- The physical place of `n` bytes that stand within one page. -/
def Dev.vplace (d : Dev) (f die : Nat) (acc : Acc) (va n : Nat) : Vr Nat :=
  let p := d.translate (384 + die) f acc va
  match p.2 with
  | .error e => (p.1, .error e)
  | .ok (pa, _) =>
    let part := (unitsOf 64 pa n).find? (fun g => look false p.1.bad g && !(wholeUnits 64 pa n).contains g)
    (p.1, match p.1.unreached die (p.1.cfg.place pa), acc, p.1.badAt pa n with
      | some c, _, _ => .error ⟨c, va, 0⟩
      | none, .st, _ => match part with
        | some g => .error ⟨0x176, va, g * 64⟩
        | none => .ok pa
      | none, _, some g => .error ⟨0x170, va, g⟩
      | none, _, none => .ok pa)

/-- Bytes read at such a place. -/
def Dev.vread (d : Dev) (f die va n : Nat) : Vr (List Byte) :=
  (d.vplace f die (.ld false) va n).andThen (fun d pa => (d, .ok (Memory.readBytes d.mem pa n)))

/-- The places of the pages of a range, in turn; the pieces of `chunks`. -/
def Dev.vpages (d : Dev) (f die : Nat) (acc : Acc) : List (Nat × Nat) → Vr (List Nat)
  | [] => (d, .ok [])
  | (va, n) :: l => (d.vplace f die acc va n).andThen (fun d pa => (Dev.vpages d f die acc l).andThen (fun d ps => (d, .ok (pa :: ps))))

/-! ### The layout of R204 -/

/-- Zeros up to a multiple of 64 bytes. -/
def pad64 (bs : List Byte) : List Byte := bs ++ List.replicate ((64 - bs.length % 64) % 64) 0

/-- A register by its shape. -/
def VReg.bytes : VReg → List Byte
  | .u w => toBytes 4 w.toNat
  | .a b t => toBytes 4 b.toNat ++ toBytes 4 t.toNat
  | .g ws => (List.range 32).flatMap (fun L => toBytes 4 (ws.getD L 0).toNat)

def VReg.tag : VReg → Nat
  | .u _ => 0
  | .a .. => 1
  | .g _ => 2

/-- The vector registers that an allocation covers. -/
def LaunchRec.vregs (r : LaunchRec) : List Nat := List.range r.vg ++ (if r.compact then (List.range 8).map (· + 56) else [])

/-- The lanes that wait at a yield. -/
def Warp.yielding (w : Warp) : LaneSet := w.waiting (· == .yield)

/-- The wait bytes of a lane; a resting lane is recorded as not waiting (R202). -/
def waitBytes (now : Nat) : Wait → List Byte
  | .mask m => toBytes 8 (1 + m * 2 ^ 8)
  | .bar b => toBytes 8 (2 + b * 2 ^ 8)
  | .sleep t => toBytes 8 (3 + (t - now) % 2 ^ 32 * 2 ^ 32)
  | .yield => toBytes 8 4
  | _ => toBytes 8 0

/-- The serialisation lane byte. -/
def serByte (ser : LaneSet) : Nat := if ser = 0 then 0 else 128 + lowest ser

/-- A warp's record, padded. Its serialisation set is that of the lanes still to execute `sere` (DESIGN CHOICE, log 24). -/
def Warp.saveBytes (w : Warp) (r : LaunchRec) (gen : Nat → Word) (now : Nat) (forced : Bool) : List Byte :=
  let parked := setOf ((List.range 32).filter (fun L => (look none w.park L).isSome))
  let fixed :=
    (List.range 32).flatMap (fun L => toBytes 8 (w.pcOf L).toNat)
    ++ [w.live, parked, w.handler, w.bank, w.yielding, w.ser].flatMap (fun s => toBytes 4 s.toNat)
    ++ toBytes 8 (serByte w.ser)
    ++ (List.range 32).flatMap (fun n => toBytes 8 (w.readS n).toNat)
    ++ (List.range 12).flatMap (fun n => toBytes 4 (look 0 w.m n).toNat)
    ++ (List.range 4).flatMap (fun n => let e := look (0, 0) w.q n; toBytes 8 e.1.toNat ++ toBytes 8 e.2.toNat)
    ++ (List.range 8).flatMap (fun n => toBytes 4 (if n = 7 then 0 else (w.readP n).toNat))
    ++ toBytes 8 w.rngkey.toNat ++ toBytes 4 w.acc.toNat ++ toBytes 4 w.rej.toNat
    ++ (List.range 32).flatMap (fun L => toBytes 4 (look 0 w.rngctr L).toNat)
    ++ (List.range 32).flatMap (fun L => if forced then waitBytes now (look .none w.wait L) else toBytes 8 0)
    ++ (List.range 16).flatMap (fun b =>
        let same := setOf ((List.range 32).filter (fun L => look none w.tok (16 * L + b) == some (gen b)))
        toBytes 4 (look 0 w.arrived b).toNat ++ toBytes 4 same.toNat)
    ++ toBytes 16 ((List.range 64).foldl (fun s n => s + (look (.u 0) w.v n).tag * 4 ^ n) 0)
    ++ (List.range 32).flatMap (fun L => toBytes 8 (look 0 w.epc L).toNat)
    ++ (List.range 32).flatMap (fun L => toBytes 2 (look 0 w.ecause L).toNat)
    ++ toBytes 8 w.drawd.toNat ++ toBytes 8 0
  let regs := r.vregs.flatMap (fun n => (look (.u 0) w.v n).bytes)
  let bank := if w.bank = 0 then [] else
    (List.range 16).flatMap (fun k => (List.range 32).flatMap (fun L => toBytes 4 ((look [] w.prop (40 + k)).getD L 0).toNat))
  pad64 (if w.live = 0 then fixed else fixed ++ regs ++ bank)

/-- The warps whose records a save holds: a cheap save leaves out those without a live lane. -/
def Group.kept (x : Group) (forced : Bool) : List Bool := x.warps.map (fun w => forced || w.live != 0)

/-- A tile, row by row. -/
def accBytes (t : Tile) : List Byte := (List.range 4096).flatMap (fun k => toBytes 4 (look 0 t k).toNat)

/-- The bytes of a group save. -/
def Group.saveBytes (x : Group) (now : Nat) (forced : Bool) : List Byte :=
  let gen := fun b => look 0 x.gens b
  [x.lr.d0, x.lr.d1, x.lr.d2, x.lr.d3, x.lr.d4, x.lr.d5, x.lr.d6, x.lr.d7].flatMap (fun e => toBytes 8 e.toNat)
  ++ (List.range 16).flatMap (fun b => toBytes 4 (gen b).toNat)
  ++ toBytes 8 x.gid ++ toBytes 8 (if forced then 2 else 1) ++ List.replicate 112 0
  ++ ((x.warps.zip (x.kept forced)).filter (·.2)).flatMap (fun e => e.1.saveBytes x.lr gen now forced)
  ++ (List.range x.lr.acc).flatMap (fun t => accBytes (look [] x.tiles t))
  ++ Memory.readBytes x.scratch 0 x.lr.window

/-! ### A group given back -/

/-- The number at an offset of some bytes. -/
def numAt (bs : List Byte) (off n : Nat) : Nat := ofBytes ((bs.drop off).take n)

/-- A sparse map of numbered pieces. -/
def gatherMap {α : Type} [DecidableEq α] (d : α) (n : Nat) (f : Nat → α) : SMap α := (List.range n).foldl (fun m k => put d m k (f k)) []

/-- A lane's wait as its bytes give it; yielding lanes are released (R88). -/
def waitOf (now : Nat) (bs : List Byte) : Wait :=
  match numAt bs 0 1 with
  | 1 => .mask (numAt bs 1 1)
  | 2 => .bar (numAt bs 1 1)
  | 3 => .sleep (now + numAt bs 4 4)
  | _ => .none

/-- Registers read one after another: the registers and the bytes used. -/
def regsOf (bs : List Byte) (tags : Nat) : List Nat → Nat → SMap VReg → SMap VReg × Nat
  | [], at_, m => (m, at_)
  | n :: ns, at_, m =>
    match tags / 4 ^ n % 4 with
    | 0 => regsOf bs tags ns (at_ + 4) (put (.u 0) m n (.u (BitVec.ofNat 32 (numAt bs at_ 4))))
    | 1 => regsOf bs tags ns (at_ + 8) (put (.u 0) m n (.a (BitVec.ofNat 32 (numAt bs at_ 4)) (BitVec.ofNat 32 (numAt bs (at_ + 4) 4))))
    | _ => regsOf bs tags ns (at_ + 128)
        (put (.u 0) m n (.g ((List.range 32).map (fun L => BitVec.ofNat 32 (numAt bs (at_ + 4 * L) 4)))))

/-- What a save area does not hold of a warp: the waits left for a trap (R361), the words of its records (R352), what it has met
(R184) and its draws (R273). -/
def Warp.hidden (w : Warp) : Warp :=
  { Warp.entry 0 0 0 0 0 with left := w.left, word := w.word, view := w.view, met := w.met, drawn := w.drawn }

/-- A warp from its record, over a fresh one, with what the save area does not hold, and the bytes that the record takes. -/
def Warp.load (w : Warp) (bs : List Byte) (r : LaunchRec) (gen : Nat → Word) (now : Nat) (h : Warp) : Warp × Nat :=
  let set := fun off => BitVec.ofNat 32 (numAt bs off 4)
  let live := set 0x100
  let bank := set 0x10C
  let tags := numAt bs 0x4C0 16
  let rs := if live = 0 then ([], 0x620) else regsOf bs tags r.vregs 0x620 []
  let prop := if live = 0 ∨ bank = 0 then [] else (List.range 16).foldl (fun m k =>
    put [] m (40 + k) ((List.range 32).map (fun L => BitVec.ofNat 32 (numAt bs (rs.2 + 128 * k + 4 * L) 4)))) []
  let len := rs.2 + (if live = 0 ∨ bank = 0 then 0 else 2048)
  ({ w with
      live := live, handler := set 0x108, bank := bank, ser := set 0x114
      left := h.left, word := h.word, view := h.view, met := h.met, drawn := h.drawn
      pc := gatherMap 0 32 (fun L => BitVec.ofNat 56 (numAt bs (8 * L) 8))
      s := gatherMap 0 32 (fun n => BitVec.ofNat 64 (numAt bs (0x120 + 8 * n) 8))
      m := gatherMap 0 12 (fun n => set (0x220 + 4 * n))
      q := gatherMap (0, 0) 4 (fun n => (BitVec.ofNat 64 (numAt bs (0x250 + 16 * n) 8), BitVec.ofNat 16 (numAt bs (0x258 + 16 * n) 2)))
      p := gatherMap 0 7 (fun n => set (0x290 + 4 * n))
      rngkey := BitVec.ofNat 64 (numAt bs 0x2B0 8), acc := set 0x2B8, rej := set 0x2BC
      rngctr := gatherMap 0 32 (fun L => set (0x2C0 + 4 * L))
      wait := gatherMap .none 32 (fun L => waitOf now (bs.drop (0x340 + 8 * L)))
      arrived := gatherMap 0 16 (fun b => set (0x440 + 8 * b))
      tok := gatherMap none 512 (fun k => if (set (0x444 + 8 * (k % 16))).getLsbD (k / 16) then some (gen (k % 16)) else none)
      epc := gatherMap 0 32 (fun L => BitVec.ofNat 56 (numAt bs (0x4D0 + 8 * L) 8))
      ecause := gatherMap 0 32 (fun L => BitVec.ofNat 9 (numAt bs (0x5D0 + 2 * L) 2))
      drawd := BitVec.ofNat 56 (numAt bs 0x610 8)
      v := rs.1, prop := prop }, (len + 63) / 64 * 64)

/-- The warps of a save, in turn; those it does not hold have no live lane. -/
def loadWarps (bs : List Byte) (r : LaunchRec) (gen : Nat → Word) (now : Nat) : List (Warp × Bool × Warp) → Nat → List Warp × Nat
  | [], at_ => ([], at_)
  | (w, true, h) :: ws, at_ =>
    let p := w.load (bs.drop at_) r gen now h
    let q := loadWarps bs r gen now ws (at_ + p.2)
    (p.1 :: q.1, q.2)
  | (w, false, _) :: ws, at_ =>
    let q := loadWarps bs r gen now ws at_
    ({ w with live := 0, pc := [], s := [] } :: q.1, q.2)

/-- The draw that a restored warp takes part in (R204, R273). -/
def Dev.redraw (d : Dev) (x : Group) (wi : Nat) (w : Warp) : Option Nat :=
  if w.live = 0 ∨ w.drawd = 0 then none else
  match d.drawAt x.die x.vf w.drawd.toNat with
  | some r => if r.closed.contains (x.gid * x.lr.nwarps + wi) then none else some r.id
  | none => none

/-- A fresh group with the state that its save gives back. -/
def Dev.loadGroup (d : Dev) (x : Group) (s : Saved) (bs : List Byte) : Group :=
  let gen := fun b => BitVec.ofNat 32 (numAt bs (0x40 + 4 * b) 4)
  let ws := loadWarps bs x.lr gen d.now (x.warps.zip (s.kept.zip s.hidden)) 0x100
  let x := { x with pools := s.pools, tileKnow := s.tileKnow
                    lines := mapVals Line.fresh (fun _ l => { Line.fresh with by_ := l.by_ }) s.lines, pixel := s.pixel, started := d.now - s.ran, gens := gatherMap 0 16 gen }
  let tiles := gatherMap [] x.lr.acc (fun t => gatherMap 0 4096 (fun k => BitVec.ofNat 32 (numAt bs (ws.2 + 16384 * t + 4 * k) 4)))
  { x with
    tiles := tiles
    scratch := Memory.writeBytes [] 0 ((bs.drop (ws.2 + 16384 * x.lr.acc)).take x.lr.window)
    warps := ((List.range ws.1.length).zip ws.1).map (fun e => { e.2 with
      draw := d.redraw x e.1 e.2
      frag := gatherMap none 32 (fun L => look none s.frags (32 * e.1 + L)) }) }

/-! ### Pre-emption requests (R403) -/

/-- Whether a wait is a sleep. -/
def Wait.asleep : Wait → Bool
  | .sleep _ => true
  | _ => false

/-- Raise causes of a group's request; sleeping lanes resume (R87). -/
def Group.raise (x : Group) (now : Nat) (f : PreReq → PreReq) : Group :=
  let y := { x with pre := f x.pre }
  if x.requested then y else
  { y with preAt := now, warps := y.warps.map (fun w => w.release (w.waiting Wait.asleep)) }

/-- Withdraw causes; when none is left before the group is saved, it goes on: a save in progress is given up, and yielding lanes are
released (R88, R202). -/
def Group.withdraw (x : Group) (f : PreReq → PreReq) : Group :=
  let y := { x with pre := f x.pre }
  if y.requested then y else { y with saving := none, stall := none, warps := y.warps.map (fun w => w.setWait w.yielding .none) }

/-- Raise causes for the groups that satisfy a test. -/
def Dev.raiseFor (d : Dev) (p : Group → Bool) (f : PreReq → PreReq) : Dev :=
  { d with groups := d.groups.map (fun x => if p x && !x.finished then x.raise d.now f else x) }
/-- Withdraw causes for the groups that satisfy a test. -/
def Dev.withdrawFor (d : Dev) (p : Group → Bool) (f : PreReq → PreReq) : Dev :=
  { d with groups := d.groups.map (fun x => if p x then x.withdraw f else x) }

end Sys2Proof.Machine
end

