-- ==== Sys2Proof/Machine/Sched.lean ====
section
/-!
DEFINITION. Queues and their distributors: `lnch`, `semsig` and `semwt` (R205 to R207), the consumption of launch records
(R195 to R197, R391), the choice of a queue and of a core (R198 to R200, R314 to R317), pre-emption, saves and restores
(R202, R204, R392, R402), the freeing of groups (R90, R91) and the end of a kill (R389).
-/
namespace Sys2Proof.Machine

/-! ### Queue registers (R194) -/

def Queue.lsize (x : Queue) : Nat := bits x.ring.toNat 56 4
def Queue.ringBase (x : Queue) : Nat := bits x.ring.toNat 12 44 * 2 ^ 12
def Queue.idxAddr (x : Queue) : Nat := bits x.idx.toNat 4 52 * 2 ^ 4
def Queue.rst (x : Queue) : Bool := x.ctl.getLsbD 6
def Queue.dl (x : Queue) : Nat := bits x.ctl.toNat 8 20
def Queue.en (x : Queue) : Bool := x.ctl.getLsbD 28
/-- Set a bit of `qctl`. -/
def Queue.setCtl (x : Queue) (k : Nat) (b : Bool) : Queue :=
  { x with ctl := x.ctl &&& ~~~(1#64 <<< k) ||| (if b then 1#64 <<< k else 0) }
/-- The entries of a ring. -/
def Queue.slots (x : Queue) : Nat := 2 ^ (x.lsize + 6)
/-- Whether a queue runs: enabled, its function enabled (R311) and no kill in progress. -/
def Dev.running (d : Dev) (q : Nat) : Bool :=
  let x := d.queue q
  x.en && x.kill.isNone && (look Vf.init d.vfs x.vf).ctl.getLsbD 22

/-! ### `semsig`, `semwt` and `lnch` -/

/-- A semaphore (R207). -/
def Dev.sem (d : Dev) (n : Nat) : DWord := look 0 d.sems n
def Dev.setSem (d : Dev) (n : Nat) (v : DWord) : Dev := { d with sems := put 0 d.sems n v }

/-- `semsig`, a release at `.dev`: what happens before it happens before every later read of the semaphore (R191, R207). -/
def Dev.semsig (d : Dev) (o : OpW) : Dev :=
  d.scalarAct o [] [(o.a, 1), (o.b, 1)] (fun d x =>
    let n := (x.sval o o.a).toNat
    if n > 255 then (d, .fault ⟨0x149, 0, n⟩) else
    let b := x.sval o o.b
    let p := d.releasing x (x.guard o)
    ({ p.1.setSem n (if o.sub % 2 = 1 then b else d.sem n + b) with semKnow := put [] d.semKnow n (uni (look [] d.semKnow n) p.2) }, .done))

def Dev.semwt (d : Dev) (o : OpW) : Dev :=
  d.scalarAct o [(o.d, 1)] [(o.a, 1), (o.b, 1)] (fun d x =>
    let n := (x.sval o o.a).toNat
    if n > 255 then (d, .fault ⟨0x149, 0, n⟩) else
    if (d.sem n).toNat < (x.sval o o.b).toNat then (d, .rest .other) else
    ((d.modWarp x.g x.wi (·.gain (x.guard o) (look [] d.semKnow n))).setS x o.d (d.sem n), .done))

/-- What an engine's fault is to a lane. -/
def EFault.flt : EFault → Flt
  | .own c p q => ⟨c, p, q⟩
  | .mem c p => ⟨BitVec.ofNat 9 c, p, 0⟩

/-- The producer and consumer indexes of a queue. -/
def Dev.indexes (d : Dev) (die : Nat) (x : Queue) : Vr (Nat × Nat) :=
  (d.vread x.vf die x.idxAddr 8).andThen (fun d p => (d.vread x.vf die (x.idxAddr + 8) 8).andThen (fun d c => (d, .ok (ofBytes p, ofBytes c))))

/-- Append a record (R195); false when the ring is full. The last write is a release at `.sys`. -/
def Dev.appendRec (d : Dev) (who : Who) (q : Nat) (bs : List Byte) : Vr Bool :=
  let x := d.queue q
  (d.indexes who.die x).andThen (fun d i =>
    if (i.1 + 2 ^ 64 - i.2) % 2 ^ 64 ≥ x.slots then (d, .ok false) else
    (d.vplace x.vf who.die .rmw x.idxAddr 8).andThen (fun d pi =>
      (d.vplace x.vf who.die .st (x.ringBase + 64 * (i.1 % x.slots)) 64).andThen (fun d pr =>
        let d := d.poke { who with rmw := true, rel := 0 } pi (toBytes 8 (i.1 + 1))
        let d := d.poke { who with rel := 0 } (pr + 8) (bs.drop 8)
        (d.poke who pr (toBytes 8 (ofBytes (bs.take 8) % 2 ^ 63 + 2 ^ 63)), .ok true))))

def Dev.lnch (d : Dev) (o : OpW) : Dev :=
  d.scalarAct o [] [(o.a, 1), (o.b, 1)] (fun d x =>
    let a := (x.sval o o.a).toNat
    let q := (x.sval o o.b).toNat
    if q > 255 ∨ a % 64 ≠ 0 then (d, .fault ⟨0x147, 0, a⟩) else
    if (d.queue q).vf ≠ x.x.vf ∨ !(d.queue q).en then (d, .fault ⟨0x148, 0, q⟩) else
    let ls := x.guard o
    match d.laneLoad x ls [] a 64 with
    | (d, .error e) => (d, .fault e.flt)
    | (d, .ok r) =>
      let n := d.past.length
      let who := { x.x.who with thr := x.x.thr x.wi (lowest ls), rel := 6, before := (d.releasing x ls).2 }
      match d.appendRec who q r.2 with
      | (d, .ok true) => ((d.releasing x ls).1.modWarp x.g x.wi (·.gain ls (newIds n d.past)), .done)
      | (d, .ok false) => (d, .rest .other)
      | (d, .error f) => (d, .fault f))

/-! ### Where a group may be placed (R196, R312 to R318) -/

/-- The group that a grid places next: a saved one, the requeued ones first and then by index (R202, R316), or an unplaced
one (R203); none while a requeued one waits for its cluster's revocation, since it comes before the others. -/
inductive Next where
  | saved (s : Saved) | fresh (gid : Nat)

def Dev.nextOf (d : Dev) (g : Grid) : Option Next :=
  let ss := (d.queue g.queue).saved.filter (·.grid == g.id)
  if ss.any (·.hold.isSome) then none else
  match leastBy (fun (s : Saved) => (if s.head then 0 else 2 ^ 32) + s.gid) ss with
  | some s => some (.saved s)
  | none => match g.again.min? with
    | some i => some (.fresh i)
    | none => if g.next < g.lr.count then some (.fresh g.next) else none

/-- Whether a grid still has groups to place for the first time, or again after a discard. -/
def Grid.more (g : Grid) : Bool := decide (g.next < g.lr.count) || !g.again.isEmpty

/-- Whether the next group of a grid fits on a core of its die now (R199, R316). -/
def Dev.fitsAt (d : Dev) (g : Grid) (nx : Next) (core : Nat) : Bool :=
  let die := g.queue / 64
  let c := 12 * die + core / 8
  let lr := match nx with
    | .saved s => s.lr
    | .fresh _ => g.lr
  let allowed := match nx with
    | .saved s => if s.head then (d.partAt c (d.ptn (d.queue g.queue).vf)).gnt.getLsbD c else true
    | .fresh _ => true
  allowed && d.open? g.queue c && d.fits lr (96 * die + core)

/-- The core on a cluster to which a raster unit's saved group returns. -/
def Next.home (nx : Next) : Option Nat :=
  match nx with
  | .saved s => s.pixel.map (fun _ => s.core % 96 / 8)
  | .fresh _ => none

/-- Whether a group is a requeued one (R316). -/
def Next.requeued (nx : Next) : Bool :=
  match nx with
  | .saved s => s.head
  | .fresh _ => false

/-- The core that the next group of a grid goes to now (R200); a raster unit's group returns to its cluster. Refill goes by the
freeings, and beside them by the cores of which none can come: an empty one, and any for a requeued group (DESIGN CHOICE, log 15). -/
def Dev.spot (d : Dev) (g : Grid) (nx : Next) : Option Nat :=
  let fit := d.fitsAt g nx
  match nx.home, g.deal with
  | some c, _ => ((List.range 8).map (· + c * 8)).find? fit
  | none, some (i, placed) => ((g.cores.drop i).find? fit).or (if placed then g.cores.find? fit else none)
  | none, none => ((leastBy (fun (e : Nat × Nat) => e.2 * 96 + e.1) (g.freeing.filter (fun e => fit e.1))).map (·.1)).or
      (g.cores.find? (fun k => fit k && (nx.requeued || (d.groupsOn (96 * (g.queue / 64) + k)).isEmpty)))

/-- The first of some grids of a queue that can place, none once one still has groups of its own to place. -/
def Dev.firstSpot (d : Dev) : List Grid → Option (Grid × Next × Nat)
  | [] => none
  | g :: gs => match (d.nextOf g).bind (fun nx => (d.spot g nx).map (fun c => (g, nx, c))) with
    | some r => some r
    | none => if g.more then none else Dev.firstSpot d gs

/-- The grids of a queue, in the order of their records. -/
def Dev.gridsOf (d : Dev) (q : Nat) : List Grid := d.grids.filter (·.queue == q)

/-- What a queue would place now; it is ready when there is something (R198). -/
def Dev.candidate (d : Dev) (q : Nat) : Option (Grid × Next × Nat) :=
  if d.running q && !(d.queue q).preq then d.firstSpot (d.gridsOf q) else none

/-- The queues of a die that can be ready. -/
def Dev.queuesOf (d : Dev) (die : Nat) : List Nat := (keysOf d.queues).filter (fun q => q / 64 == die)

/-- The ready queues of a class of a die. -/
def Dev.readyOf (d : Dev) (die cls : Nat) : List Nat :=
  (d.queuesOf die).filter (fun q => (d.queue q).cls == cls && (d.candidate q).isSome)

/-- Whether a raster unit of a die has a group to place under a class (R280). -/
def Dev.rasterReady (d : Dev) (die cls : Nat) : Bool :=
  d.draws.any (fun r => r.die == die && !r.failed && r.stall.isNone && (d.queue r.queue).cls == cls && (match d.targetOf r with
    | some f => (keysOf r.frags).any (fun t => (d.shaderSpot r f.s t).isSome)
    | none => false))

/-- The classes of a die that are ready: raster units place under the classes of their queues (R198, R280). -/
def Dev.readyClasses (d : Dev) (die : Nat) : List Nat := (List.range 4).filter (fun x => !(d.readyOf die x).isEmpty || d.rasterReady die x)

def Dev.dist (d : Dev) (die : Nat) : Dist := look Dist.init d.dists die

/-- The threshold at which a class is due (R198). -/
def dueAt (cls : Nat) : Nat := 60 + cls

/-- The class that a die places from next (R198). -/
def Dev.pickClass (d : Dev) (die : Nat) : Option Nat :=
  let rdy := d.readyClasses die
  let due := rdy.filter (fun x => decide (x ≥ 1 ∧ look 0 (d.dist die).counts x ≥ dueAt x))
  (due.getLast?).or rdy.head?

/-- The queue that a die's distributor places from next (R198). -/
def Dev.pickQueue (d : Dev) (die : Nat) : Option Nat :=
  (d.pickClass die).bind (fun cls =>
    let qs := d.readyOf die cls
    let last := look 0 (d.dist die).last cls
    (qs.find? (fun q => decide (q + 1 > last))).or qs.head?)

/-- A grid whose dealing has ended goes on by refill (R200). -/
def Dev.dealt (d : Dev) (g : Grid) : Grid :=
  if g.deal.isSome && ((d.nextOf g).bind (d.spot g)).isNone then { g with deal := none, freeing := [] } else g

/-- What a distributor sees at every cycle: dealing that has ended, and classes that are no longer ready (R198, R200). -/
def Dev.watchQueues (d : Dev) : Dev :=
  { d with
    grids := d.grids.map d.dealt
    dists := mapVals Dist.init (fun die x =>
      { x with counts := mapVals 0 (fun cls n => if (d.readyClasses die).contains cls then n else 0) x.counts }) d.dists }

/-! ### Placing (R198 to R200, R202) -/

/-- A grid after a placement on a core. -/
def Grid.placedOn (g : Grid) (core : Nat) : Grid :=
  match g.deal with
  | some _ => { g with deal := some ((g.cores.takeWhile (· != core)).length + 1, true) }
  | none =>
    match leastBy (fun (e : Nat × Nat) => e.2) (g.freeing.filter (·.1 == core)) with
    | some e => { g with freeing := g.freeing.erase e }
    | none => g

/-- A record of the distributor or of a save: no lane, and the codes of classes 20, 21 and 29; and one that kills its queue. -/
def Dev.note (d : Dev) (q : Nat) (c : Cause) (r : Rec) : Dev := d.record q { r with cause := c }
def Dev.noteKill (d : Dev) (q : Nat) (c : Cause) (r : Rec) : Dev := d.recordKill q { r with cause := c }

/-- The place of a group in a record that names no lane. -/
def Group.placeRec (x : Group) : Rec := { cause := 0, group := x.gid, die := x.die, cl := x.cl, row := x.row }

/-- A fresh group of a grid is placed. -/
def Dev.placeFresh (d : Dev) (g : Grid) (gid core : Nat) : Dev :=
  let x := d.newGroup d.nextId g.queue g.id gid (d.queue g.queue).vf (96 * (g.queue / 64) + core) g.lr
  (d.addGroup x).modGrid g.id (fun g => { g.placedOn core with
    next := if g.next = gid then gid + 1 else g.next, again := g.again.filter (· != gid) })

/-- The pieces of a range that is read or written page by page. -/
def pagesOf (a n : Nat) : List (Nat × Nat) := chunks a n

/-- A saved group is restored (R202); a save area that cannot be read kills the queue (R392, log 13). -/
def Dev.restore (d : Dev) (g : Grid) (s : Saved) (core : Nat) : Dev :=
  let q := d.queue g.queue
  let die := g.queue / 64
  let bs := Er.each (fun d (bs : List Byte) (c : Nat × Nat) => match d.vread q.vf die c.1 c.2 with
    | (d, .ok b) => (d, .ok (bs ++ b))
    | (d, .error f) => (d, .error (.own f.cause f.d5 f.d6))) (pagesOf (q.saveBase + s.off) s.len) d []
  match bs with
  | (d, .error _) => d.noteKill g.queue 0x153 { cause := 0, group := s.gid, die := die }
  | (d, .ok bs) =>
    let x := d.loadGroup (d.newGroup d.nextId g.queue g.id s.gid q.vf (96 * die + core) s.lr) s bs
    let d := (d.addGroup x).modGrid g.id (·.placedOn core)
    let left := q.saved.filter (fun t => !(t.grid == s.grid && t.gid == s.gid && t.off == s.off))
    d.modQueue g.queue (fun q => { q with saved := left, fill := if left.isEmpty then 0 else q.fill })

/-- The counts of a die's classes after a placement of class `cls`; `rdy` are the classes that were ready. -/
def Dist.after (x : Dist) (cls : Nat) (rdy : List Nat) : Dist :=
  { x with counts := [1, 2, 3].foldl (fun m k => put 0 m k (if k = cls ∨ !rdy.contains k then 0 else look 0 x.counts k + 1)) [] }

/-- Note a placement under a queue's class, after a state in which some classes were ready. -/
def Dev.notePlaced (d : Dev) (die cls : Nat) (rdy : List Nat) (last : SMap Nat) : Dev :=
  { d with dists := put Dist.init d.dists die { (d.dist die).after cls rdy with last := last } }

/-- PIXEL_GROUP_PLACE: a raster unit places a group when its queue's class is the one to place from (R280). -/
def Dev.drawPlace (d : Dev) (id tile : Nat) : Dev :=
  d.drawWork id (fun d r f =>
    if (r.kernel 0).tooBig then (d, .error (.own 0x10C 0 0)) else
    let cls := (d.queue r.queue).cls
    if (d.shaderSpot r f.s tile).isNone || d.pickClass r.die != some cls then (d, .ok ()) else
    ((d.placeShader r f.s tile).notePlaced r.die cls (d.readyClasses r.die) (d.dist r.die).last, .ok ()))

/-- Whether a requeued group fits on none of its guaranteed cores (R317). -/
def Dev.squeezed (d : Dev) (g : Grid) : Bool :=
  (d.queue g.queue).saved.any (fun s => s.grid == g.id && s.head && s.hold.isNone && !g.cores.any (d.fitsAt g (.saved s)))

/-- The requests that requeued groups raise on the guaranteed cores of their records, and their withdrawal once no such
group waits (R317). -/
def Dev.requeueCheck (d : Dev) : Dev :=
  d.grids.foldl (fun d g =>
    let here := fun (x : Group) => x.grid == g.id && (d.partAt (x.core / 8) (d.ptn x.vf)).gnt.getLsbD (x.core / 8)
    let waits := (d.queue g.queue).saved.any (fun s => s.grid == g.id && s.head)
    if d.squeezed g then d.raiseFor (fun x => here x && !x.pre.requeue && x.saving.isNone) (fun p => { p with requeue := true })
    else if waits then d
    else d.withdrawFor (fun x => x.grid == g.id && x.pre.requeue) (fun p => { p with requeue := false })) d

/-- A die's distributor makes its next placement, when it is of the kind asked for (R198). -/
def Dev.placeNext (d : Dev) (die : Nat) (ok : Nat → Next → Bool) : Dev :=
  match d.pickQueue die with
  | none => d
  | some q => match d.candidate q with
    | none => d
    | some (g, nx, core) =>
      if !ok q nx then d else
      let f := (d.queue q).vf
      let cls := (d.queue q).cls
      let d1 := match nx with
        | .fresh gid => d.placeFresh g gid core
        | .saved s => d.restore g s core
      ((d1.notePlaced die cls (d.readyClasses die) (put 0 (d.dist die).last cls (q + 1))).settleOn (12 * die + core / 8) f).requeueCheck

/-- PLACE_GROUP: a placement of an unplaced group. -/
def Dev.placeGroup (d : Dev) (die : Nat) : Dev :=
  d.placeNext die (fun _ nx => match nx with | .fresh _ => true | .saved _ => false)
/-- GROUP_RESTORE: a placement of a saved group of queue q. -/
def Dev.groupRestore (d : Dev) (q : Nat) : Dev :=
  d.placeNext (q / 64) (fun p nx => p == q && (match nx with | .fresh _ => false | .saved _ => true))

/-! ### Consuming records (R195 to R197, R391) -/

/-- The launch record that 64 bytes hold. -/
def recordOf (bs : List Byte) : LaunchRec :=
  let w := fun k => BitVec.ofNat 64 (ofBytes ((bs.drop (8 * k)).take 8))
  ⟨w 0, w 1, w 2, w 3, w 4, w 5, w 6, w 7⟩

/-- Whether a wait dword has a reserved bit set (R196). A wait of the reserved kind 3 is reported as that, 0x142, whatever its other bits are
(DESIGN CHOICE, log 25: R391 orders neither code). -/
def waitReserved (w : Nat) : Bool :=
  match w % 4 with
  | 0 => w != 0
  | 1 => w.testBit 2 || w / 2 ^ 56 != 0
  | 2 => w.testBit 2 || w / 2 ^ 11 != 0
  | _ => false

/-- The first dword of a record that breaks R196 (0x140). -/
def LaunchRec.broken (r : LaunchRec) : Option Nat :=
  let t := r.threads
  (List.range 8).find? (fun k => match k with
    | 0 => bits r.d0.toNat 56 7 != 0
    | 1 => bits r.d1.toNat 56 8 != 0
    | 2 => bits r.d2.toNat 61 3 != 0 || r.count == 0 || t == 0 || decide (t > 1536) || (r.compact && decide (bits r.d2.toNat 43 4 > 13))
      || decide (r.acc > 16)
    | 3 => bits r.d3.toNat 9 23 != 0 || decide (r.granules > 384)
    | 5 => waitReserved r.d5.toNat
    | 6 => waitReserved r.d6.toNat
    | _ => false)

/-- Whether a queue of partition n that is enabled and not pre-empted has a group to place and a cluster of its die among
its record's cores (R315, R316). -/
def Dev.partWants (d : Dev) (n c : Nat) : Bool :=
  (d.queuesOf (c / 12)).any (fun q => d.running q && !(d.queue q).preq && d.ptn (d.queue q).vf == n
    && (d.gridsOf q).any (fun g => (d.nextOf g).isSome && g.cores.any (fun k => k / 8 == c % 12)))

/-- The partition whose margin a revocable queue of partition n may borrow a cluster from now (R315). -/
def Dev.lender (d : Dev) (n c : Nat) : Option Nat :=
  let k := d.clu c
  if k.borrower.isSome || k.target.isSome then none else
  (List.range 16).find? (fun m => m != n && (d.partAt c m).mrg.getLsbD c && (look ⟨0, 0⟩ d.parts m).mrg.getLsbD c
    && (look ⟨0, 0⟩ d.parts m).gnt.getLsbD (48 + n) && !d.partWants m c && !d.groups.any (fun x => x.core / 8 == c && d.ptn x.vf == m))

/-- The clusters of a die that a record of a queue borrows as it begins placement. -/
def Dev.borrows (d : Dev) (q : Nat) : List Nat :=
  if (d.queue q).revocable then
    ((List.range 12).map (· + 12 * (q / 64))).filter (fun c => (d.lender (d.ptn (d.queue q).vf) c).isSome)
  else []

/-- The cores of a record that are eligible (R196, R312, R315). -/
def Dev.eligible (d : Dev) (q : Nat) (r : LaunchRec) : List Nat :=
  let n := d.ptn (d.queue q).vf
  let more := d.borrows q
  (List.range 96).filter (fun k =>
    let c := 12 * (q / 64) + k / 8
    r.coreMask.testBit k && (d.owned c n || (d.clu c).borrower == some n || more.contains c))

/-- Whether a wait of a record holds (R196). -/
def Dev.waitHolds (d : Dev) (f die w tgt : Nat) : Vr Bool :=
  match w % 4 with
  | 1 => (d.vread f die (bits w 3 53 * 8) 8).andThen (fun d bs => (d, .ok (decide (ofBytes bs % 2 ^ 63 ≥ tgt))))
  | 2 => (d, .ok (decide ((d.sem (bits w 3 8)).toNat ≥ tgt)))
  | _ => (d, .ok true)

/-- What the distributor finds at a queue's consumer index. -/
inductive Found where
  | nothing | bad (cons : Nat) (code : Cause) (d5 d6 : Nat) | take (cons : Nat) (r : LaunchRec)

/-- A record that is ready, checked (R391), lowest code first after the ring's size. -/
def Dev.checkRecord (d : Dev) (q cons : Nat) (r : LaunchRec) : Found :=
  if (d.queue q).lsize > 10 then .bad cons 0x145 0 0 else
  match r.broken with
  | some k => .bad cons 0x140 cons k
  | none =>
    if r.entry.toNat % 8 ≠ 0 then .bad cons 0x141 cons r.entry.toNat
    else if r.d5.toNat % 4 = 3 ∨ r.d6.toNat % 4 = 3 then .bad cons 0x142 cons 0
    else if (d.eligible q r).isEmpty || r.tooBig then .bad cons 0x143 cons 0
    else .take cons r

/-- Look at the entry at the consumer index; a fault comes with the record index as far as it is known. -/
def Dev.examine (d : Dev) (q : Nat) : Dev × Nat × Except Flt Found :=
  let x := d.queue q
  let die := q / 64
  match d.vread x.vf die (x.idxAddr + 8) 8 with
  | (d, .error f) => (d, 0, .error f)
  | (d, .ok c) =>
    let cons := ofBytes c
    match d.vread x.vf die (x.ringBase + 64 * (cons % x.slots)) 64 with
    | (d, .error f) => (d, cons, .error f)
    | (d, .ok bs) =>
      let r := recordOf bs
      if !r.d0.getLsbD 63 then (d, cons, .ok .nothing) else
      match d.checkRecord q cons r with
      | .take _ _ =>
        let p := (d.waitHolds x.vf die r.d5.toNat (bits r.d7.toNat 0 32)).andThen (fun d a =>
          (d.waitHolds x.vf die r.d6.toNat (bits r.d7.toNat 32 32)).andThen (fun d b => (d, .ok (a && b))))
        (p.1, cons, match p.2 with
          | .error f => .error f
          | .ok true => .ok (.take cons r)
          | .ok false => .ok .nothing)
      | f => (d, cons, .ok f)

/-- The consumer index moves past a record. -/
def Dev.advance (d : Dev) (q cons : Nat) : Vr Unit :=
  let x := d.queue q
  (d.vplace x.vf (q / 64) .st (x.idxAddr + 8) 8).andThen (fun d pa => (d.poke (queueWho q x.vf) pa (toBytes 8 (cons + 1)), .ok ()))

/-- The distributor kills a queue for the record at its consumer index, past which the index moves once the trap record is written
(R350, R389, R391). Its dword 0 stays as it stands (DESIGN CHOICE, log 25: R195 clears it of a record that is consumed). -/
def Dev.refuseRecord (d : Dev) (q cons : Nat) (code : Cause) (d5 d6 : Nat) (unres : Bool) : Dev :=
  let p := d.recordFor q { cause := code, kill := true, unres := unres, group := 2 ^ 32 - 1, die := q / 64, d5 := d5, d6 := d6 }
    { kill := true, next := some cons }
  if !p.2 then p.1 else
  let d := (p.1.advance q cons).1
  if d.killWaits q then d else d.kill q

/-- A fault of the distributor: a stall for V = 0, a kill for any other (R391). -/
def Dev.distFault (d : Dev) (q cons : Nat) (f : Flt) : Dev :=
  if f.cause = 0x060 ∨ f.cause = 0x070 then
    let id := d.nextId
    let r : Rec := { cause := 0x144, res := true, group := 2 ^ 32 - 1, die := q / 64, d5 := cons, d6 := f.d5 }
    (({ d with nextId := id + 1 }).recordFor q r { op := id }).1.modQueue q (fun x => { x with stall := some (id, f.d5) })
  else d.refuseRecord q cons 0x142 cons f.cause.toNat false

/-- What an acquire read of 8 bytes at a virtual address gains at a scope. -/
def Dev.acquired (d : Dev) (q s va : Nat) : List Nat :=
  match d.walk (q / 64) (d.queue q).vf va with
  | .leaf e l =>
    let pa := d.cfg.norm (leafPa e l va)
    d.gains (distThr q) s (topWrites pa 8 (d.past.filter (·.spans pa 8)))
  | _ => []

/-- What a wait of a record, which holds, gains (R191, R196). -/
def Dev.waitKnow (d : Dev) (q w : Nat) : List Nat :=
  match w % 4 with
  | 1 => d.acquired q 4 (bits w 3 53 * 8)
  | 2 => look [] d.semKnow (bits w 3 8)
  | _ => []

/-- The record at an index begins placement: dword 0 is cleared, the index advances, and its grid deals (R195, R200). What its
append and its waits release happens before the grid (R191, R196). -/
def Dev.take (d : Dev) (q cons : Nat) (r : LaunchRec) : Dev :=
  let x := d.queue q
  let p := (d.vplace x.vf (q / 64) .st (x.ringBase + 64 * (cons % x.slots)) 8).andThen (fun d pa =>
    (d.vplace x.vf (q / 64) .st (x.idxAddr + 8) 8).andThen (fun d pi => (d, .ok (pa, pi))))
  match p with
  | (d, .error f) => d.distFault q cons f
  | (d, .ok (pa, pi)) =>
    let n := d.ptn x.vf
    let cores := d.eligible q r
    let know := uni (d.acquired q 5 (x.ringBase + 64 * (cons % x.slots))) (uni (d.waitKnow q r.d5.toNat) (d.waitKnow q r.d6.toNat))
    let d := (d.borrows q).foldl (fun d c => if cores.any (fun k => 12 * (q / 64) + k / 8 == c) then d.modClu c (fun k => { k with borrower := some n }) else d) d
    let d := (d.poke (queueWho q x.vf) pa (toBytes 8 0)).poke (queueWho q x.vf) pi (toBytes 8 (cons + 1))
    { d with
      grids := d.grids ++ [{ id := d.nextId, queue := q, lr := r, tvec := 0, next := 0, again := [], deal := some (0, false), cores := cores,
                             freeing := [], finished := [], know := know }]
      nextId := d.nextId + 1 }

/-- LAUNCH_RECORD_CONSUME. -/
def Dev.consume (d : Dev) (q : Nat) : Dev :=
  if !(decide (q < 256) && d.running q && (d.queue q).stall.isNone && !d.killWaits q && !(d.gridsOf q).any Grid.more) then d else
  match d.examine q with
  | (d, cons, .error f) => d.distFault q cons f
  | (d, _, .ok .nothing) => d
  | (d, _, .ok (.bad cons c d5 d6)) => d.refuseRecord q cons c d5 d6 false
  | (d, _, .ok (.take cons r)) => d.take q cons r

/-- The service resolves a stall of a queue's distributor: it walks again once (R380, R391). -/
def Dev.distResolved (d : Dev) (q addr : Nat) : Dev :=
  let x := d.queue q
  let d := d.modQueue q (fun x => { x with stall := none })
  match d.walk (q / 64) x.vf addr with
  | .leaf .. => d
  | _ => match d.vread x.vf (q / 64) (x.idxAddr + 8) 8 with
    | (d, .ok c) => d.refuseRecord q (ofBytes c) 0x144 (ofBytes c) addr true
    | (d, .error _) => d.refuseRecord q 0 0x144 0 addr true

/-! ### Freeing (R90, R91, R200) -/

/-- A freeing at a core of a die. -/
def Dev.freed (d : Dev) (core : Nat) : Dev :=
  { d with grids := d.grids.map (fun g =>
      if g.queue / 64 == core / 96 && g.deal.isNone && g.cores.contains (core % 96) then { g with freeing := g.freeing ++ [(core % 96, d.now)] } else g) }

/-- Grids with nothing left go, and the fill points of queues without saved groups return (R204). -/
def Dev.sweep (d : Dev) : Dev :=
  { d with
    grids := d.grids.filter (fun g => g.more || d.groups.any (·.grid == g.id) || d.draws.any (fun r => r.grid == g.id && !r.over)
      || (d.queue g.queue).saved.any (·.grid == g.id))
    queues := mapVals Queue.init (fun _ q => if q.saved.isEmpty then { q with fill := 0 } else q) d.queues }

/-- A group goes, with all its resources. -/
def Dev.removeGroup (d : Dev) (x : Group) : Dev :=
  let d := { d with
    groups := d.groups.filter (·.id != x.id)
    badReg := d.badReg.filter (·.1 != x.id)
    badTile := d.badTile.filter (·.1 != x.id)
    lags := d.lags.filter (·.g != x.id) }
  (d.freed x.core).sweep

/-- A group that finished counts for its grid on its cluster (R203). -/
def Dev.noteFinished (d : Dev) (x : Group) : Dev :=
  if x.pixel.isSome || x.discarded then d else
  d.modGrid x.grid (fun g =>
    let c := x.core / 8
    let e := look (0, 0) g.finished c
    { g with finished := put (0, 0) g.finished c (e.1 + 1, e.2 + (x.ended.getD d.now - x.started)) })

/-- Whether a group that is being saved still waits for operations (R202): its own, a running `mmac` among them, or that of a pair
which holds one of its tiles. -/
def Dev.busy (d : Dev) (x : Group) : Bool := d.ops.any (·.src.g == x.id) || !x.holds.isEmpty

/-- Whether a kill of a group's queue holds its resources: until its record is written and the queue's threads have ended
(R350, R389). -/
def Dev.killHolds (d : Dev) (q : Nat) : Bool :=
  d.killWaits q || (d.queue q).kill.isSome && (d.ops.any (·.src.queue == q) || d.draws.any (fun r => r.queue == q && !r.over))

/-- GROUP_RESOURCE_FREE. A running `mmac` is none of the operations that a finished group waits for (R89): its tile goes, and its
result with it (DESIGN CHOICE, log 24). -/
def Dev.freeGroup (d : Dev) (g : Nat) : Dev :=
  match d.group? g with
  | none => d
  | some x =>
    if d.killHolds x.queue then d
    else if !x.finished then (if x.tracker && !d.outstanding g then d.modGroup g (fun x => { x with tracker := false }) else d)
    else if !d.outstanding g then
      let d := if x.freed then d else d.noteFinished x
      let d := if x.discarded then d.modGrid x.grid (fun g => { g with again := g.again ++ [x.gid] }) else d
      d.removeGroup x
    else if x.tailed && x.tracker && !x.freed then ((d.noteFinished x).modGroup g (fun x => { x with freed := true })).freed x.core
    else d

/-- QUEUE_KILL_COMPLETE (R389): once its threads have ended and its groups are freed, its saved groups and its grids go, and en
reads 0. -/
def Dev.killComplete (d : Dev) (q : Nat) : Dev :=
  if (d.queue q).kill.isNone || d.killHolds q || d.groups.any (·.queue == q) then d
  else
    { d.modQueue q (fun x => { x.setCtl 28 false with kill := none, saved := [], fill := 0 }) with grids := d.grids.filter (·.queue != q) }

/-! ### Pre-emption and saves (R202, R204, R392, R402) -/

/-- Whether a request other than a revocation's is raised. -/
def PreReq.timed (p : PreReq) : Bool := p.preq || p.switch || p.requeue

/-- Whether the deadline of a group's request has come before its save. -/
def Dev.deadlineDue (d : Dev) (x : Group) : Bool :=
  x.pre.timed && x.saving.isNone && !x.finished && decide (d.now ≥ x.preAt + (d.queue x.queue).dl)

/-- PREEMPTION_DEADLINE: a group not yet at a yield point is force-saved. -/
def Dev.deadline (d : Dev) (g : Nat) : Dev :=
  match d.group? g with
  | none => d
  | some x =>
    if d.deadlineDue x then
      (d.note x.queue 0x150 { x.placeRec with imp := true, d5 := x.warps.length, d6 := d.now - x.preAt }).modGroup g
        (fun x => { x with saving := some (d.now, true) })
    else d

/-- A save that cannot be made kills the queue: under a revocation with 0x1D1 (R393). -/
def Dev.saveKill (d : Dev) (x : Group) (c : Cause) (d6 : Nat) : Dev :=
  if x.pre.revoke then (d.noteKill x.queue 0x1D1 x.placeRec).modClu (x.core / 8) (fun k => { k with kills := x.queue :: k.kills }) else d.noteKill x.queue c { x.placeRec with d6 := d6 }

/-- What the queue keeps of a saved group. -/
def Group.savedAt (x : Group) (now off len : Nat) (forced : Bool) : Saved :=
  { grid := x.grid, gid := x.gid, off := off, len := len, kept := x.kept forced, head := x.pre.revoke
    hold := if x.pre.revoke then some (x.core / 8) else none, lr := x.lr, core := x.core, ran := now - x.started
    hidden := x.warps.map (·.hidden), pools := x.pools, tileKnow := x.tileKnow, lines := x.lines, pixel := x.pixel
    frags := (x.numbered).foldl (fun m p => p.2.frag.foldl (fun m e => put none m (32 * p.1 + e.1) e.2) m) [] }

/-- Write pages of bytes at their places, as a copy engine (R202). -/
def Dev.pokePages (d : Dev) (who : Who) : List (Nat × Nat) → List Nat → List Byte → Dev
  | (_, n) :: cs, pa :: ps, bs => Dev.pokePages (d.poke who pa (bs.take n)) who cs ps (bs.drop n)
  | _, _, _ => d

/-- Whether a save of a group reads a register's word, of a warp, a field and a lane: vector registers and proposal copies only of a warp
with a live lane, and with an open bank (R202). -/
def Group.savesReg (x : Group) (forced : Bool) (w field : Nat) : Bool :=
  match x.warps[w]? with
  | some w => if field < 64 then w.live != 0 else if field ≥ 256 then w.live != 0 && w.bank != 0 else forced || w.live != 0
  | none => false

/-- Whether a save of a group reads a word that cannot be corrected: a register, a tile or its scratchpad (R370). -/
def Dev.spoilt (d : Dev) (x : Group) (forced : Bool) : Bool :=
  d.badReg.any (fun e => e.1 == x.id && x.savesReg forced e.2.1 e.2.2.1) || d.badTile.any (·.1 == x.id)
    || d.bad.any (fun e => e.2 && decide (e.1 / 2 ^ 20 = 2 ^ 41 + x.id))

/-- GROUP_SAVE_WRITE. -/
def Dev.saveWrite (d : Dev) (g : Nat) : Dev :=
  let d := ((((d.group? g).filter (·.saving.isSome))).map d.settleGroup).getD d
  match d.group? g with
  | none => d
  | some x => match x.saving with
    | none => d
    | some (_, forced) =>
      let q := d.queue x.queue
      if x.finished then d.modGroup g (fun x => { x with saving := none, stall := none }) else
      if d.busy x || x.warps.any (·.held != 0) || q.kill.isSome || d.killWaits x.queue || x.stall.isSome then d else
      if d.spoilt x forced then d.noteKill x.queue 0x163 x.placeRec else
      let bs := x.saveBytes d.now forced
      if q.fill + bs.length > q.saveSize - 2 ^ 16 then d.saveKill x 0x152 bs.length else
      let cs := pagesOf (q.saveBase + q.fill) bs.length
      match d.vpages x.vf x.die .st cs with
      | (d, .error f) =>
        if f.cause = 0x070 then d.modGroup g (fun x => { x with stall := some f.d5 }) else d.saveKill x 0x152 bs.length
      | (d, .ok ps) =>
        let who : Who := { x.who with kind := 1 }
        let d := d.pokePages who cs ps bs
        let d := d.modQueue x.queue (fun y => { y with
          saved := y.saved ++ [x.savedAt d.now y.fill bs.length forced], fill := y.fill + (bs.length + 4095) / 4096 * 4096 })
        (d.removeGroup x).requeueCheck

/-- The service resolves a stall of a save: it walks again once (R402). -/
def Dev.saveResolved (d : Dev) (g va : Nat) : Dev :=
  match d.group? g with
  | none => d
  | some x =>
    let q := d.queue x.queue
    let len := (x.saveBytes d.now ((x.saving.map (·.2)).getD true)).length
    let n := (((pagesOf (q.saveBase + q.fill) len).find? (·.1 == va)).map (·.2)).getD 1
    match d.vplace x.vf x.die .st va n with
    | (d, .ok _) => d.modGroup g (fun x => { x with stall := none })
    | (d, .error _) => d.saveKill x 0x152 len

/-- The service resolves a stall of a trap record's write: it is written, or lost, and those that waited for it go on (R350, R353,
R402). -/
def Dev.lateResolved (d : Dev) (l : Late) : Dev :=
  let p := ({ d with late := d.late.filter (·.id != l.id) }).vsend { queueWho l.queue l.vf with rel := 6, before := l.know } l.vf l.va l.bytes
  let d := p.1.modWarp l.group l.warp (·.gain l.lanes (newIds d.past.length p.1.past ++ l.know))
  let more := (d.late.filter (fun m => m.group == l.group && m.warp == l.warp)).foldl (fun s m => s ||| m.lanes) (0 : LaneSet)
  let d := d.holdLanes l.group l.warp (l.lanes &&& ~~~more) false
  let d := match l.next with
    | some cons => (d.advance l.queue cons).1
    | none => d
  if l.kill && !d.killWaits l.queue then d.kill l.queue else d

/-- Whether a save has waited for operations for dl cycles (R392). -/
def Dev.saveLate (d : Dev) (x : Group) : Bool :=
  match x.saving with
  | none => false
  | some (t, _) => !x.finished && d.busy x && (d.queue x.queue).kill.isNone && !d.killWaits x.queue && decide (d.now ≥ t + (d.queue x.queue).dl)

/-- SAVE_OPS_TIMEOUT. -/
def Dev.saveTimeout (d : Dev) (g : Nat) : Dev :=
  match d.group? g with
  | none => d
  | some x => if d.saveLate x then d.saveKill x 0x151 0 else d

/-! ### Writes of `qctl` (R194, R202, R389) -/

/-- preq is set: placement stops and requests are raised; or cleared: they are withdrawn. -/
def Dev.setPreq (d : Dev) (q : Nat) (b : Bool) : Dev :=
  let was := (d.queue q).preq
  let d := d.modQueue q (·.setCtl 7 b)
  if b == was then d
  else if b then d.raiseFor (·.queue == q) (fun p => { p with preq := true })
  else d.withdrawFor (·.queue == q) (fun p => { p with preq := false })

/-- Whether a queue holds resident, saved or placing groups. -/
def Dev.holdsGroups (d : Dev) (q : Nat) : Bool :=
  d.groups.any (·.queue == q) || !(d.queue q).saved.isEmpty || (d.gridsOf q).any Grid.more

/-- A kill that software asks for (R389, R390). -/
def Dev.killFor (d : Dev) (q : Nat) (c : Cause) : Dev := d.noteKill q c { cause := 0, die := q / 64 }

/-- en is set: the trap sequence starts at 1 (R351); or cleared: a queue with groups is killed. During a kill, which begins with its record,
en stays 1 (R389). -/
def Dev.setEn (d : Dev) (q : Nat) (b : Bool) : Dev :=
  let x := d.queue q
  if x.kill.isSome || d.killWaits q || b == x.en then d
  else if b then d.modQueue q (fun x => { x.setCtl 28 true with seq := 1 })
  else if d.holdsGroups q then d.killFor q 0x1D3
  else d.modQueue q (·.setCtl 28 false)

/-- The fields of `qctl` that a write replaces without an effect of their own. -/
def putCtl (old v : DWord) (hyper : Bool) : DWord :=
  let dl := Nat.min (Nat.max (bits v.toNat 8 20) 1000) 1000000
  let mask : DWord := if hyper then 0x7F else 0x70
  (old &&& 0x10000080) ||| (old &&& (0x7F &&& ~~~mask)) ||| (v &&& mask) ||| BitVec.ofNat 64 (dl * 2 ^ 8)

/-- A write of `qctl`. -/
def Dev.writeCtl (d : Dev) (q tag : Nat) (v : DWord) : Dev :=
  let d := d.modQueue q (fun x => { x with ctl := putCtl x.ctl v (tag == 16) })
  (d.setPreq q (v.getLsbD 7)).setEn q (v.getLsbD 28)

/-- Whether an access with a tag owns a register of a function (R333). -/
def owns (tag f : Nat) : Bool := tag == 16 || tag == f

/-- A write of one bit of `qctl`, the other fields as they stand. -/
def Dev.writeCtlBit (d : Dev) (tag q k : Nat) (b : Bool) : Dev :=
  if q < 256 && owns tag (d.queue q).vf then
    d.writeCtl q tag (((d.queue q).setCtl k b).ctl)
  else d

/-! ### The meanings -/

def execLnch (f : FWord) (s : State) := s.onDev (·.lnch (fop f))
def execSemsig (f : FWord) (s : State) := s.onDev (·.semsig (fop f))
def execSemwt (f : FWord) (s : State) := s.onDev (·.semwt (fop f))
def execLaunchRecordConsume (q : Nat) (s : State) := s.onDev (·.consume q)
def execPlaceGroup (die : Nat) (s : State) := s.onDev (·.placeGroup die)
def execGroupRestore (q : Nat) (s : State) := s.onDev (·.groupRestore q)
def execPixelGroupPlace (draw tile : Nat) (s : State) := s.onDev (·.drawPlace draw tile)
def execGroupResourceFree (g : Nat) (s : State) := s.onDev (·.freeGroup g)
def execQueueEnable (tag q : Nat) (s : State) := s.onDev (·.writeCtlBit tag q 28 true)
def execQueueDisableKill (tag q : Nat) (s : State) := s.onDev (·.writeCtlBit tag q 28 false)
def execPreemptionRequest (tag q : Nat) (s : State) := s.onDev (·.writeCtlBit tag q 7 true)
def execPreemptionWithdraw (tag q : Nat) (s : State) := s.onDev (·.writeCtlBit tag q 7 false)
def execPreemptionDeadline (g : Nat) (s : State) := s.onDev (·.deadline g)
def execSaveOpsTimeout (g : Nat) (s : State) := s.onDev (·.saveTimeout g)
def execQueueKillComplete (q : Nat) (s : State) := s.onDev (·.killComplete q)

end Sys2Proof.Machine
end

