-- ==== Sys2Proof/Machine/Tenant.lean ====
section
/-!
DEFINITION. Tenancy of clusters: world switches (R203, R314), revocation of borrowed clusters (R316, R393), the layout
commit (R318, R340) and the disabling of a function (R390).
-/
namespace Sys2Proof.Machine

/-- The groups resident on a cluster. -/
def Dev.groupsAt (d : Dev) (c : Nat) : List Group := d.groups.filter (fun x => x.core / 8 == c)

/-- The L1s of a cluster are written back and invalidated, and its TLB and those of its cores are invalidated (R314, R316). -/
def Dev.flush (d : Dev) (c : Nat) : Dev :=
  { d with
    l1 := d.l1.filter (fun e => e.1 / 2 ^ 45 / 8 != c)
    tlb := d.tlb.filter (fun t => t.unit != 384 + c && !(decide (t.unit < 384) && t.unit / 8 == c)) }

/-! ### World switch (R203, R314) -/

/-- Whether a group of an outgoing tenant is still to be decided on. -/
def Group.undecided (x : Group) : Bool := !x.finished && x.saving.isNone && !x.discarded && !x.pre.switch

/-- Whether the groups of a queue on a cluster drain: each is expected to end within the deadline, its mean taken as an exact ratio.
For a raster unit's group nothing is expected (DESIGN CHOICE, log 24). -/
def Dev.drains (d : Dev) (c dl : Nat) (xs : List Group) : Bool :=
  xs.all (fun x => match (d.grid? x.grid).map (fun g => look (0, 0) g.finished c) with
    | some (n + 1, total) => x.pixel.isNone && decide (total ≤ (n + 1) * (d.now - x.started + dl))
    | _ => false)

/-- A group is discarded: it ends with no save, and its index returns once its resources are freed (R203, R392). -/
def Dev.discard (d : Dev) (x : Group) : Dev :=
  let d := d.note x.queue 0x154 { x.placeRec with imp := true, d5 := x.gid }
  ((d.endGroup x).modGroup x.id (fun x => { x with discarded := true, saving := none, pre := PreReq.no }))

/-- R203 for the groups of a queue on a cluster. The bytes to save are those of forced saves at this moment, and a raster unit's
group is always saved (DESIGN CHOICE, log 24). -/
def Dev.slice (d : Dev) (c q : Nat) : Dev :=
  let xs := (d.groupsAt c).filter (fun x => x.queue == q && x.undecided)
  let y := d.queue q
  if d.drains c y.dl xs then d else
  let bytes := (xs.map (fun x => (x.saveBytes d.now true).length)).foldl (· + ·) 0
  let save := decide (bytes / 2048 ≤ y.dl) || !y.rst
  xs.foldl (fun d x =>
    if save || !x.lr.restartable || x.pixel.isSome then d.raiseFor (·.id == x.id) (fun p => { p with switch := true })
    else d.discard x) d

/-- WORLD_SWITCH_REQUEST. A request for the resident function, or while a switch is in progress, has no effect (log 15). -/
def Dev.switchRequest (d : Dev) (c f : Nat) : Dev :=
  let k := d.clu c
  if c ≥ 48 ∨ f ≥ 16 ∨ k.target.isSome then d else
  match k.resident with
  | none => d.modClu c (fun k => { k with resident := some f })
  | some out =>
    if out = f then d else
    let qs := (((d.groupsAt c).filter (fun x => x.vf == out && x.undecided)).map (·.queue)).eraseDups
    (qs.foldl (fun d q => d.slice c q) d).modClu c (fun k => { k with target := some f })

/-- WORLD_SWITCH_COMPLETE. The counters of R322 are kept per function, so nothing is left to fold. -/
def Dev.switchComplete (d : Dev) (c : Nat) : Dev :=
  let k := d.clu c
  match k.target with
  | none => d
  | some f =>
    if (d.groupsAt c).any (fun x => k.resident == some x.vf) then d
    else (d.flush c).modClu c (fun k => { k with resident := some f, target := none })

/-! ### Revocation (R316, R393) -/

/-- The groups of the borrower on a borrowed cluster. -/
def Dev.borrowed (d : Dev) (c : Nat) : List Group :=
  match (d.clu c).borrower with
  | some y => (d.groupsAt c).filter (fun x => d.ptn x.vf == y)
  | none => []

/-- Whether a queue of the partition that owns a borrowed cluster calls for it. -/
def Dev.calledFor (d : Dev) (c : Nat) : Bool :=
  (List.range 16).any (fun n => (d.clu c).borrower != some n && d.owned c n && d.partWants n c)

/-- REVOCATION_START: the owner's queue calls for the cluster, or the hypervisor asks. -/
def Dev.revokeStart (d : Dev) (c : Nat) : Dev :=
  let k := d.clu c
  if k.borrower.isNone || k.revoke.isSome then d else
  let ids := (d.borrowed c).map (·.id)
  (d.modClu c (fun k => { k with revoke := some d.now })).raiseFor (fun x => ids.contains x.id) (fun p => { p with revoke := true })

/-- A running `mmac` is abandoned: its entries clear, the K-groups that it has accumulated count (R320), and its lanes stand at it
again (R316, log 15). -/
def Dev.abandon (d : Dev) (op : Op) : Dev :=
  (((d.freeTiles op.id).count op.src.die op.src.vf 9 op.mmDone).dropOp op.id).modWarp op.src.g op.src.w (fun w =>
    let ls := op.src.lanes &&& w.live
    (w.setPc (lanesOf ls) (fun _ => op.src.pc)).setWait ls .none)

/-- The running `mmac`s of a group are abandoned, the latest first. -/
def Dev.abandonAll (d : Dev) (g : Nat) : Dev := ((d.ops.filter (fun o => o.src.g == g && o.isMmac)).reverse).foldl Dev.abandon d

/-- GROUP_SAVE_WRITE: a save under a revocation waits for no `mmac`. -/
def Dev.groupSave (d : Dev) (g : Nat) : Dev :=
  match d.group? g with
  | some x => (if x.pre.revoke && x.saving.isSome && !x.finished then d.abandonAll g else d).saveWrite g
  | none => d

/-- The groups of the borrower that are not yet being saved. -/
def Dev.unsaved (d : Dev) (c : Nat) : List Group := (d.borrowed c).filter (fun x => x.saving.isNone && !x.finished)

/-- Whether a revocation has waited 85,000 cycles for the saves of some groups (R316). -/
def Dev.revokeDue (d : Dev) (c : Nat) : Bool := ((d.clu c).revoke.map (fun t => decide (d.now ≥ t + 85000))).getD false && !(d.unsaved c).isEmpty

/-- REVOCATION_SAVE_TIMEOUT: the groups not yet being saved are force-saved. -/
def Dev.revokeTimeout (d : Dev) (c : Nat) : Dev :=
  if !d.revokeDue c then d else
  (d.unsaved c).foldl (fun d x =>
    ((d.abandonAll x.id).note x.queue 0x1D0 { x.placeRec with imp := true }).modGroup x.id (fun x => { x with saving := some (d.now, true) })) d

/-- The functions of a partition that are enabled. -/
def Dev.vfsOf (d : Dev) (n : Nat) : List Nat :=
  (List.range 16).filter (fun f => (look Vf.init d.vfs f).ctl.getLsbD 22 && d.ptn f == n)

/-- A grid loses the cores of a logical cluster. -/
def Grid.lose (g : Grid) (c : Nat) : Grid :=
  let keep := fun (ks : List Nat) => ks.filter (fun k => k / 8 != c)
  { g with cores := keep g.cores, deal := g.deal.map (fun e => ((keep (g.cores.take e.1)).length, e.2)) }

/-- REVOCATION_COMPLETE: once no group of the borrower is left there, and the kills of R393 have ended. -/
def Dev.revokeComplete (d : Dev) (c : Nat) : Dev :=
  let k := d.clu c
  match k.revoke, k.borrower with
  | some _, some y =>
    if !(d.borrowed c).isEmpty || k.kills.any (fun q => d.killWaits q || (d.queue q).kill.isSome) then d else
    let d := { d with
      queues := mapVals Queue.init (fun _ (q : Queue) => { q with saved := q.saved.map (fun (s : Saved) => if s.hold = some c then { s with hold := none } else s) }) d.queues
      grids := d.grids.map (fun (g : Grid) =>
        if g.queue / 64 == c / 12 && d.ptn (d.queue g.queue).vf == y then g.lose (c % 12) else g) }
    let d := (d.flush c).modClu c (fun k => { k with borrower := none, revoke := none, kills := [] })
    ((d.vfsOf y).foldl (fun (d : Dev) f => d.post f 3 (c / 12) (2 ^ c) 0) d).requeueCheck
  | _, _ => d

/-! ### Layout (R318, R340) -/

/-- Whether some sets have no cluster in common. -/
def disjointSets : List Nat → Bool
  | [] => true
  | x :: xs => xs.all (fun y => (x &&& y) == 0) && disjointSets xs

/-- The guaranteed sets and margins of a layout. -/
def setsOf (ps : SMap Part) : List Nat :=
  (List.range 16).flatMap (fun n => let p := look ⟨0, 0⟩ ps n; [p.gnt.toNat % 2 ^ 48, p.mrg.toNat % 2 ^ 48])

/-- A write of `lctl`: phase 1. All 48 cluster numbers exist (R12), so the sets have only to be disjoint. A Bieno held in
reset does not see the request (log 15). -/
def prepare (d : Dev) (m : Mgmt) (tag : Nat) (gen : BitVec 32) : Dev × Mgmt :=
  if tag ≠ 16 ∨ gen ≠ m.lgen + 1 ∨ m.prep ≠ m.lgen ∨ d.bienoHeld.contains 0 then (d, m)
  else if disjointSets (setsOf m.staged) then (d, { m with prep := gen, rej := false })
  else (d, { m with rej := true })

/-- The functions that a change of layout affects get an event each (R318). -/
def Dev.resized (d : Dev) (old : SMap Part) : Dev :=
  (List.range 16).foldl (fun d n =>
    let p := look ⟨0, 0⟩ d.parts n
    if p = look ⟨0, 0⟩ old n then d
    else (d.vfsOf n).foldl (fun d f => d.post f 1 0 (p.gnt.toNat % 2 ^ 48) (p.mrg.toNat % 2 ^ 48)) d) d

/-- The hive memory of a device cluster changes to some MiB: the ways that it carves anew, and those that it gives back, are zeroed
(R159). -/
def Dev.resizeHive (d : Dev) (c mib : Nat) : Dev :=
  let keep := Nat.min (look 0 d.cfg.hive c) mib * 2 ^ 20
  let lo := c * 2 ^ 22 + keep
  let n := 2 ^ 22 - keep
  if mib = look 0 d.cfg.hive c then d else
  { d with
    cfg := { d.cfg with hive := put 0 d.cfg.hive c mib }
    hive := d.hive.filter (fun e => !decide (lo ≤ e.1 ∧ e.1 < lo + n))
    past := d.past.map (Write.blank (hivePlace lo) n)
    bad := d.bad.filter (fun e => !decide (hiveGran (lo / 8) ≤ e.1 ∧ e.1 < hiveGran ((lo + n) / 8))) }

/-- A cluster without groups takes the live layout, and with it the size of its hive memory, which no register of the layout gives: one of
R159's, as a free value (DESIGN CHOICE, log 15). -/
def Dev.takeLayout (d : Dev) (c : Nat) : Dev :=
  let p := (d.modClu c (fun k => { k with layout := none })).fresh
  p.1.resizeHive c (2 * (p.2 % 3))

/-- The flip: phase 2 in one step. A cluster with groups runs under the old layout until its boundary. -/
def flip (d : Dev) (m : Mgmt) : Dev × Mgmt :=
  if m.prep ≠ m.lgen + 1 then (d, m) else
  let old := d.parts
  let d := (List.range 48).foldl (fun d c =>
    if (d.groupsAt c).isEmpty then d.takeLayout c else d.modClu c (fun k => { k with layout := some (k.layout.getD old) })) { d with parts := m.staged }
  (d.resized old, { m with lgen := m.prep })

/-- LAYOUT_FLIP, by the Bieno of die 0 while it is in service. -/
def layoutFlip (d : Dev) (m : Mgmt) : Dev × Mgmt := if d.bienoHeld.contains 0 then (d, m) else flip d m

/-- CLUSTER_LAYOUT_APPLY: at its kernel boundary, with no group resident, a cluster takes the live layout. -/
def Dev.applyLayout (d : Dev) (c : Nat) : Dev :=
  if (d.clu c).layout.isSome && (d.groupsAt c).isEmpty then d.takeLayout c else d

/-! ### Disabling a function (R390) -/

/-- Clearing en of `vfctl`: the function's enabled queues are killed with 0x1D2, its drone cores stop. -/
def Dev.disableVf (d : Dev) (f : Nat) : Dev :=
  let v := look Vf.init d.vfs f
  if !v.ctl.getLsbD 22 then d else
  let d := { d with vfs := put Vf.init d.vfs f { v with ctl := v.ctl &&& ~~~0x400000 } }
  let qs := (keysOf d.queues).filter (fun q => (d.queue q).vf == f && (d.queue q).en && (d.queue q).kill.isNone)
  let ds := (keysOf d.drones).filter (fun i => (d.drone i).evf == f)
  ds.foldl Dev.stopEpisode (qs.foldl (fun d q => d.killFor q 0x1D2) d)

/-- A write of run of drone core i that carries a tag (R287, R333). -/
def Dev.writeRun (d : Dev) (tag i : Nat) (b : Bool) : Dev :=
  if owns tag (d.drone i).evf then (if b then d.startEpisode i else d.stopEpisode i) else d

/-! ### The meanings -/

def execWorldSwitchRequest (c f : Nat) (s : State) := s.onDev (·.switchRequest c f)
def execWorldSwitchComplete (c : Nat) (s : State) := s.onDev (·.switchComplete c)
def execGroupSaveWrite (g : Nat) (s : State) := s.onDev (·.groupSave g)
def execRevocationStart (c : Nat) (s : State) := s.onDev (·.revokeStart c)
def execRevocationSaveTimeout (c : Nat) (s : State) := s.onDev (·.revokeTimeout c)
def execRevocationComplete (c : Nat) (s : State) := s.onDev (·.revokeComplete c)
def execLayoutPrepare (tag : Nat) (gen : BitVec 32) (s : State) := s.onAll (fun d m => prepare d m tag gen)
def execLayoutFlip (s : State) := s.onAll layoutFlip
def execClusterLayoutApply (c : Nat) (s : State) := s.onDev (·.applyLayout c)
def execVfDisable (tag f : Nat) (s : State) := s.onDev (fun d => if tag = 16 ∧ f < 16 then d.disableVf f else d)
def execEpisodeStart (tag die k : Nat) (s : State) := onCore s die k (fun d i => d.writeRun tag i true)
def execEpisodeStop (tag die k : Nat) (s : State) := onCore s die k (fun d i => d.writeRun tag i false)

end Sys2Proof.Machine
end

