-- ==== Sys2Proof/Machine/Service.lean ====
section
/-!
DEFINITION. The Bieno fault service (R345, R364, R377, R380, R402), engine threads that outlive a kill (R389), and the
lanes that resume: from sleep (R87) and from a rest (R60).
-/
namespace Sys2Proof.Machine

/-! ### Parked lanes (R345, R364, R377) -/

/-- What the second walk says of a parked lane: nothing when its access can go on, or the fault it takes. -/
def Dev.rewalk (d : Dev) (die f : Nat) (p : Park) : Option Flt :=
  match d.walk die f p.va with
  | .leaf .. => none
  | .stop k l =>
    if k = 0 ∨ p.cause = 0x0F5 then some ⟨p.cause, p.d5, p.d6⟩
    else some ⟨BitVec.ofNat 9 ((if p.write then 0x070 else 0x060) + k), p.d5, l⟩
  | _ => some ⟨p.cause, p.d5, p.d6⟩

/-- The lanes of a warp that are parked as one sub-warp. -/
def Warp.parkedIn (w : Warp) (arr : Nat) : List (Nat × Park) :=
  (List.range 32).filterMap (fun L => ((look none w.park L).filter (·.arr == arr)).map (fun p => (L, p)))

/-- Some lanes are parked no longer. -/
def Warp.unpark (w : Warp) (ls : List Nat) : Warp := { w with park := ls.foldl (fun m L => put none m L none) w.park }

/-- Some lanes of one sub-warp take faults that the service could not resolve. -/
def Dev.unresolved (d : Dev) (g wi : Nat) (w : Warp) (fs : List (Nat × Flt)) : Dev :=
  let L := (fs.map (·.1)).headD 0
  d.deliver g wi (w.pcOf L).toNat (look 0 w.word L) true fs

/-- The service walks again once for a parked sub-warp, once its record is written (R353): all its lanes reissue, or all take
their codes with unres. -/
def Dev.serve (d : Dev) (g wi arr : Nat) : Dev :=
  match d.group? g, d.warp? g wi with
  | some x, some w =>
    let ps := w.parkedIn arr
    if ps = [] || (w.held &&& setOf (ps.map (·.1))) != 0 then d else
    let rs := ps.map (fun p => (p.1, d.rewalk x.die x.vf p.2, p.2))
    let d := d.modWarp g wi (·.unpark (ps.map (·.1)))
    if rs.all (·.2.1.isNone) then d
    else d.unresolved g wi w (rs.map (fun r => (r.1, r.2.1.getD ⟨r.2.2.cause, r.2.2.d5, r.2.2.d6⟩)))
  | _, _ => d

/-- The lanes of an arrival that rest for a segment, with the fault they would take. -/
def Warp.shortOf (w : Warp) (arr : Nat) : List (Nat × Flt) :=
  (lanesOf w.live).filterMap (fun L => match look .none w.wait L with
    | .rest a (.segment _ d5 d6) => if a = arr then some (L, ⟨0x0FC, d5, d6⟩) else none
    | _ => none)

/-- The service frees a segment for an arrival that rests for one, or its lanes take 0x0FC with unres (R380, R385). -/
def Dev.serveSegment (d : Dev) (g wi arr : Nat) : Dev :=
  match d.group? g, d.warp? g wi with
  | some x, some w =>
    let rs := w.shortOf arr
    if rs = [] || (w.held &&& setOf (rs.map (·.1))) != 0 then d else
    let d := d.collectAll x.die (d.collectFuel x.die)
    if (d.freeSeg x.die).isSome then d else
    (d.modWarp g wi (fun w => w.setWait (setOf (rs.map (·.1))) .none)).unresolved g wi w rs
  | _, _ => d

/-- FAULT_SERVICE_REWALK: the service handles one sub-warp, parked or resting. -/
def Dev.faultService (d : Dev) (g wi arr : Nat) : Dev :=
  match d.group? g with
  | none => d
  | some x => if d.serviceUp x.die then (d.serve g wi arr).serveSegment g wi arr else d

/-! ### Engine threads (R378, R380, R389) -/

/-- The count of a card that fails at an address (R382). -/
def Card.failedLength (c : Card) (ts : List Tok) (code addr : Nat) : Nat :=
  let n := (tokBytes ts).length
  if code = 0x070 ∧ c.dst ≤ addr ∧ addr < c.dst + n then tokBefore ts (addr - c.dst) else n

/-- An engine thread fails with a code; a failed delivery leaves no message (R389), and one that has only its final arrival left
makes it if it can (log 16). -/
def Dev.failThread (d : Dev) (op : Op) (c : Cause) (d5 d6 : Nat) (unres : Bool) : Dev :=
  match op.kind with
  | .copy r key lane ctr crc landed => d.failCopy op ⟨cpOf r, key, lane, ctr, crc, landed⟩ c d5 d6 unres
  | .card r landed =>
    let p := d.cardOut op.src (cardOf r)
    p.1.cardFail op (cardOf r) landed p.2.1 (some ((cardOf r).failedLength p.2.1 d5 d6)) c d5 d6 unres
  | .coll r _ _ _ got => d.failColl op r got c d5 d6 unres
  | .mmac .. => d.failMmac op c d5 d6 unres
  | .drain .. => d.failDrain op c d5 d6 unres
  | .resolve .. => d.failOp op 2 c d5 d6 unres 1 [] 0x0F5
  | .deliver die n msg =>
    ((d.record op.src.queue { op.src.record c d5 d6 with imp := true, unres := unres }).modBox die n
      (fun b => { b with act := b.act.filter (·.id != msg) })).dropOp op.id
  | .arrive _ kind n ls _ _ =>
    let d := ((d.record op.src.queue { op.src.record c d5 d6 with imp := true, unres := unres }).arrival op.src kind op.done n true).1
    (d.landLines op.src.g (d.thrOf op.src) ls).dropOp op.id

/-- The die whose comb store a copy's next piece is appended to. -/
def Dev.pieceDie (d : Dev) (op : Op) : Nat :=
  match op.kind with
  | .copy r _ _ _ _ landed =>
    let va := (cpOf r).frames.getD landed 0 * 4096
    match d.walk op.src.die op.src.vf va with
    | .leaf e l => d.dieOf (d.leafAt .c e l va)
    | _ => op.src.die
  | _ => op.src.die

/-- Whether a stall with a code and D6 is resolved, and what resolving it has changed: a segment of die `home` by the collector, a
translation by walking again once. -/
def Dev.resolves (d : Dev) (f die home : Nat) (c : Cause) (addr : Nat) : Dev × Bool :=
  if c = 0x0EC ∨ c = 0x0FC then
    let d := d.collectAll home (d.collectFuel home)
    (d, (d.freeSeg home).isSome)
  else (d, match d.walk die f addr with
    | .leaf .. => true
    | _ => false)

/-- A stalled thread goes on: with its final arrival at once, if that is all it has left. -/
def Dev.goOn (d : Dev) (op : Op) : Dev :=
  match op.kind with
  | .arrive _ kind n ls len stop => d.lastArrival { op with stall := none } kind n ls stop len
  | _ => d.modOp op.id (fun o => { o with stall := none })

/-- Whether the record of a stall of an identity is still to be written (R353). -/
def Dev.unwritten (d : Dev) (id : Nat) : Bool := d.late.any (·.op == id)

/-- The service resolves an engine thread's stall, or the thread fails with unres. -/
def Dev.opResolved (d : Dev) (op : Op) : Dev :=
  match op.stall with
  | none => d
  | some (c, d5, d6) =>
    if d.unwritten op.id then d else
    let r := d.resolves op.src.vf op.src.die (if c = 0x0EC then d.pieceDie op else op.src.die) c d6
    if r.2 then r.1.goOn op else r.1.failThread { op with stall := none } c d5 d6 true

/-- A draw fails with a code, or has failed and loses its final arrival to it (log 16). -/
def Dev.failDrawWith (d : Dev) (r : Draw) (c : Cause) (d5 d6 : Nat) (unres : Bool) : Dev :=
  if r.failed then
    (d.record r.queue { r.src.record c d5 d6 with imp := true, unres := unres }).modDraw r.id (fun r => { r with stall := none })
  else d.failDraw r c d5 d6 unres

/-- The service resolves a draw's stall. -/
def Dev.drawResolved (d : Dev) (r : Draw) : Dev :=
  match r.stall with
  | none => d
  | some (c, d5, d6) =>
    if d.unwritten r.id then d else
    let p := d.resolves r.vf r.die r.die c d6
    if !p.2 then p.1.failDrawWith r c d5 d6 true
    else if r.failed then p.1.failedArrival r else p.1.modDraw r.id (fun r => { r with stall := none })

/-- The queue whose distributor holds a stall of an identity. -/
def Dev.stalledQueue (d : Dev) (id : Nat) : Option (Nat × Nat) :=
  d.queues.findSome? (fun e => match e.2.stall with
    | some (k, a) => if k = id then some (e.1, a) else none
    | none => none)

/-- ENGINE_STALL_RESOLVED: the stall of an engine thread, a draw, a distributor, a save or a trap record's write. -/
def Dev.stallResolved (d : Dev) (id : Nat) : Dev :=
  match d.op? id, d.draw? id, d.stalledQueue id, d.group? id, d.late.find? (·.id == id) with
  | some op, _, _, _, _ => if d.serviceUp op.src.die then d.opResolved op else d
  | none, some r, _, _, _ => if d.serviceUp r.die then d.drawResolved r else d
  | none, none, some (q, a), _, _ => if d.serviceUp (q / 64) && !d.unwritten id then d.distResolved q a else d
  | none, none, none, some x, _ => match x.stall with
    | some va => if d.serviceUp x.die then d.saveResolved id va else d
    | none => d
  | none, none, none, none, some l => if d.serviceUp (l.queue / 64) then d.lateResolved l else d
  | _, _, _, _, _ => d

/-- Whether a kill of a queue has lasted 1.7 × 10^6 cycles (R389). -/
def Dev.killLong (d : Dev) (q : Nat) : Bool := ((d.queue q).kill.map (fun t => decide (d.now ≥ t + 1700000))).getD false

/-- KILL_ENGINE_TIMEOUT: a thread or a draw that outlives its queue's kill, stalled or not, fails with 0x1D4. -/
def Dev.killTimeout (d : Dev) (id : Nat) : Dev :=
  match d.op? id, d.draw? id with
  | some op, _ => if d.killLong op.src.queue then d.failThread { op with stall := none } 0x1D4 0 0 false else d
  | none, some r => if d.killLong r.queue && !r.over then d.failDrawWith r 0x1D4 0 0 false else d
  | none, none => d

/-! ### Lanes that resume -/

/-- SLEEP_EXPIRY: the lanes whose count has passed (R87). -/
def Dev.wakeUp (d : Dev) (g wi : Nat) : Dev :=
  d.modWarp g wi (fun w => w.release (w.waiting (fun k => match k with
    | .sleep t => decide (t ≤ d.now)
    | _ => false)))

/-- Whether the condition that a lane rests for may hold (R60). -/
def Dev.restOver (d : Dev) (x : Group) (w : Warp) : Wait → Bool
  | .rest a (.presence _ ls) => ls.all (fun l => (look Line.fresh x.lines l).present && !w.restsOn l a)
  | .rest _ (.qget q e) => seqMet (look (0, 0) w.q q).2 e
  | .rest _ (.segment h _ _) => (d.freeSeg (h / 12)).isSome
  | .rest _ (.send _) => true
  | .rest _ .other => true
  | _ => false

/-- Whether an arrival that rests may go on: its condition holds, its record is written, and its group is not being saved. -/
def Dev.mayResume (d : Dev) (x : Group) (w : Warp) (arr : Nat) : Bool :=
  let ls := w.restingIn arr
  ls != 0 && x.saving.isNone && (w.held &&& ls) == 0 && (lanesOf ls).all (fun L => d.restOver x w (look .none w.wait L))

/-- LANE_REST_RELEASE: the arrival that rests goes on with its instruction, next (R57, R60). -/
def State.restRelease (s : State) (g wi arr : Nat) : State :=
  match s.dev.group? g, s.dev.warp? g wi with
  | some x, some w => if s.dev.mayResume x w arr then { s with agenda := .resume arr :: s.agenda } else s
  | _, _ => s

/-! ### The meanings -/

def execFaultServiceRewalk (g w arrival : Nat) (s : State) := s.onDev (·.faultService g w arrival)
def execSleepExpiry (g w : Nat) (s : State) := s.onDev (·.wakeUp g w)
def execLaneRestRelease (g w arr : Nat) (s : State) : Host.Outcome State Fault Refusal := .next (s.restRelease g w arr)
def execEngineStallResolved (op : Nat) (s : State) := s.onDev (·.stallResolved op)
def execKillEngineTimeout (op : Nat) (s : State) := s.onDev (·.killTimeout op)

end Sys2Proof.Machine
end

