-- ==== Sys2Proof/Machine/Window.lean ====
section
/-!
DEFINITION. The device register window (R333): who owns a register, what it reads and what a write of it does; the
identity record (R338) and `tlbinv` (R334).
-/
namespace Sys2Proof.Machine

/-! ### What stands at a window offset -/

/-- A register of the window. -/
inductive Reg where
  | queue (q k : Nat) | qrev (q : Nat) | drone (i k : Nat) | box (die n : Nat) | sem (n : Nat) | page (die off : Nat)
  | ident (off : Nat) | tlbinv | vf (f k : Nat) | staged (n k : Nat) | live (n k : Nat) | lctl | lgen | lprep | flits (p k : Nat)
  | none
  deriving DecidableEq, Repr

/-- The register at an offset that is a multiple of 8. -/
def regAt (off : Nat) : Reg :=
  let die := off / 2 ^ 28
  let o := off % 2 ^ 28
  if o < 0x800 then .queue (64 * die + o / 32) (o % 32 / 8)
  else if o < 0xA00 then .qrev (64 * die + (o - 0x800) / 8)
  else if 0x10000 ≤ o ∧ o < 0x10400 then .drone (droneKey die ((o - 0x10000) / 32)) (o % 32 / 8)
  else if 0x20000 ≤ o ∧ o < 0x22000 then .box die ((o - 0x20000) / 8)
  else if 0x30000 ≤ o ∧ o < 0x30200 then .sem (64 * die + (o - 0x30000) / 8)
  else if 0x50000 ≤ o ∧ o < 0x51000 then .page die (o - 0x50000)
  else if 0x60000 ≤ o ∧ o < 0x61000 then .ident (o - 0x60000)
  else if die ≠ 0 then .none
  else if o = 0x40000 then .tlbinv
  else if 0x80000 ≤ o ∧ o < 0x80200 then .vf ((o - 0x80000) / 32) (o % 32 / 8)
  else if 0x90000 ≤ o ∧ o < 0x90100 then .staged ((o - 0x90000) / 16) (o % 16 / 8)
  else if 0x90100 ≤ o ∧ o < 0x90200 then .live ((o - 0x90100) / 16) (o % 16 / 8)
  else if o = 0x90200 then .lctl
  else if o = 0x90208 then .lgen
  else if o = 0x90210 then .lprep
  else if 0xA0000 ≤ o ∧ o < 0xA0180 then .flits ((o - 0xA0000) / 16) (o % 16 / 8)
  else .none

/-- Whether an access with a tag may reach a register (R333): queues, drone cores and mailboxes belong to their function,
a function's own registers to it, semaphores, the mailbox page and the identity record to everyone, the rest to the
hypervisor (log 14). -/
def Dev.mayReach (d : Dev) (tag : Nat) : Reg → Bool
  | .queue q _ => owns tag (d.queue q).vf
  | .qrev q => owns tag (d.queue q).vf
  | .drone i _ => owns tag (d.drone i).evf
  | .box die n => owns tag (d.box die n).mvf
  | .sem _ => decide (tag ≤ 16)
  | .page .. => decide (tag ≤ 16)
  | .ident _ => decide (tag ≤ 16)
  | .vf f _ => owns tag f
  | .none => false
  | _ => tag == 16

/-! ### The identity record (R338) -/

/-- Where a flash slot begins (R337). -/
def slotBase (slot : Nat) : Nat := if slot = 0 then 0x1000 else 0x1801000
/-- The slot that the flash directory calls active; a directory without its magic names slot A (R337; DESIGN CHOICE, log 14). -/
def Mgmt.active (m : Mgmt) : Nat := if Memory.read m.flash 0 4 = 0x4C455631 then Memory.read m.flash 4 4 else 0

/-- `n` bytes from an offset of a flash slot: those that are not 0, by their offsets in the piece. -/
def Mgmt.slotPiece (m : Mgmt) (slot off n : Nat) : List (Nat × Byte) :=
  (m.flash.filter (fun e => decide (slotBase slot + off ≤ e.1 ∧ e.1 < slotBase slot + off + n))).map (fun e => (e.1 - slotBase slot - off, e.2))

/-- The lengths of firmware and configuration, that a slot's header gives after its versions, as n32 each (R337, log 14). -/
def Mgmt.firmwareLen (m : Mgmt) (slot : Nat) : Nat := Memory.read m.flash (slotBase slot + 4) 4
def Mgmt.configLen (m : Mgmt) (slot : Nat) : Nat := Memory.read m.flash (slotBase slot + 8) 4
/-- The bytes of a slot that are signed: the header, the firmware and the configuration image (R338). -/
def Mgmt.signedLen (m : Mgmt) (slot : Nat) : Nat := 0x1000 + m.firmwareLen slot + m.configLen slot
/-- Where the signature stands in a slot: its last 1,280 bytes (R337). -/
def sigOff : Nat := 24 * 2 ^ 20 - 1280

/-- The digest of a slot (R338). -/
def Mgmt.digest (m : Mgmt) (slot : Nat) : Nat := Config.slotDigest (m.signedLen slot) (m.slotPiece slot 0 (m.signedLen slot))
/-- Whether a slot verifies: its parts fit before the signature, which verifies over its digest (R336, R338). -/
def Mgmt.verifies (m : Mgmt) (slot : Nat) : Bool :=
  decide (m.signedLen slot ≤ sigOff) && Config.verifies (m.digest slot) (Memory.read m.flash (slotBase slot + sigOff) 1280)
/-- The configuration image of a slot, which stands after the firmware (R337). -/
def Mgmt.image (m : Mgmt) (slot : Nat) : SlotImage :=
  Config.slotImage (m.configLen slot) (m.slotPiece slot (0x1000 + m.firmwareLen slot) (m.configLen slot))

/-- The identity record, of the slot in use; the versions stand at the start of the slot's header as two n16 (log 14). -/
def identity (d : Dev) (m : Mgmt) : List Byte :=
  let sites := (List.range 4).foldl (fun s die => s + look 12 d.cfg.repair die * 2 ^ (4 * die)) 0
  toBytes 8 0x4200 ++ toBytes 2 0xB0 ++ toBytes 2 (Memory.read m.flash (slotBase m.slot) 2) ++ toBytes 2 (Memory.read m.flash (slotBase m.slot + 2) 2)
    ++ toBytes 2 d.cfg.node ++ toBytes 4 m.status ++ toBytes 2 sites ++ List.replicate 10 0
    ++ toBytes 64 (Config.digest (toBytes 1793 Config.identityKey)) ++ toBytes 64 (m.digest m.slot)
    ++ List.replicate 96 0 ++ toBytes 1793 Config.identityKey

/-! ### Reads -/

def Queue.reg (x : Queue) (k : Nat) : DWord := [x.ring, x.idx, x.ctl, x.save].getD k 0
/-- `ectl` and the rest of a drone core's block. -/
def Drone.reg (c : Drone) (k : Nat) : DWord :=
  match k with
  | 0 => c.base
  | 1 => c.size
  | 2 => BitVec.ofNat 64 (c.evf + (if c.run then 16 else 0) + c.state * 2 ^ 5 + c.budget * 2 ^ 8)
  | _ => BitVec.ofNat 64 (c.why + c.off * 2 ^ 16)
/-- A mailbox's configuration register. -/
def Box.reg (b : Box) : DWord := BitVec.ofNat 64 (b.mvf + b.core * 2 ^ 4 + (if b.isOpen then 2 ^ 9 else 0) + b.status * 2 ^ 16)
def Vf.reg (v : Vf) (k : Nat) : DWord := [v.ctl, v.pt, v.ev, v.irq].getD k 0
def Part.reg (p : Part) (k : Nat) : DWord := if k = 0 then p.gnt else p.mrg

/-- The value of a register. The flits that a port has counted are a free number, never less than before (log 14). -/
def readReg (d : Dev) (m : Mgmt) : Reg → Dev × DWord
  | .queue q k => (d, (d.queue q).reg k)
  | .qrev q => (d, (d.queue q).rev)
  | .drone i k => (d, (d.drone i).reg k)
  | .box die n => (d, (d.box die n).reg)
  | .sem n => (d, d.sem n)
  | .page die off => (d, BitVec.ofNat 64 (Memory.read (look [] m.pages die) off 8))
  | .ident off => (d, BitVec.ofNat 64 (numAt (identity d m) off 8))
  | .tlbinv => (d, d.tlbinv)
  | .vf f k => (d, (look Vf.init d.vfs f).reg k)
  | .staged n k => (d, (look ⟨0, 0⟩ m.staged n).reg k)
  | .live n k => (d, (look ⟨0, 0⟩ d.parts n).reg k)
  | .lctl => (d, 0)
  | .lgen => (d, m.lgen.setWidth 64)
  | .lprep => (d, BitVec.ofNat 64 (m.prep.toNat + (if m.rej then 2 ^ 32 else 0)))
  | .flits p k =>
    let r := d.fresh
    let old := look (0, 0) d.flits p
    let new := if k = 0 then (old.1 + r.2, old.2) else (old.1, old.2 + r.2)
    ({ r.1 with flits := put (0, 0) r.1.flits p new }, BitVec.ofNat 64 (if k = 0 then new.1 else new.2))
  | .none => (d, 0)

/-- Whether a register still answers: after a halt only the identity record and the Bieno mailbox, without power nothing
(R336, R400). -/
def Dev.answers (d : Dev) (r : Reg) : Bool :=
  d.power && (!d.halted || (match r with
    | .page .. => true
    | .ident _ => true
    | _ => false))

/-- An aligned 8-byte read of the window. -/
def windowRead (d : Dev) (m : Mgmt) (tag off : Nat) : Dev × DWord :=
  let r := regAt off
  if off % 8 = 0 ∧ d.mayReach tag r ∧ d.answers r then readReg d m r else (d, 0)

/-! ### `tlbinv` (R334) -/

/-- A write of `tlbinv` while no invalidation is in progress: the named entries leave every TLB. -/
def Dev.invalidate (d : Dev) (v : DWord) : Dev :=
  if d.tlbinv.getLsbD 5 then d else
  let f := bits v.toNat 0 4
  let va := bits v.toNat 12 44 * 2 ^ 12
  { d with
    tlbinv := v &&& 0x00FFFFFFFFFFF01F ||| 0x20
    tlb := d.tlb.filter (fun t => !(t.vf == f && (v.getLsbD 4 || t.covers f va))) }

/-- TLB_INVALIDATE_DONE: an access here walks and is performed in one step, so none is left that began with an old
entry. -/
def Dev.invalidated (d : Dev) : Dev := { d with tlbinv := d.tlbinv &&& ~~~0x20 }

/-! ### Writes -/

/-- A node outside the package as a thread (R180, R332). -/
def nodeThr (node : Nat) : Thr := ⟨4, 0, 0, 0, node, 0, 0⟩

/-- The writes of a node to this package so far, which each later one of it releases (R332). -/
def Dev.nodeWrites (d : Dev) (node : Nat) : List Nat := (d.past.filter (·.by_ == nodeThr node)).map (·.id)

/-- A write of a queue's register. -/
def Dev.writeQueue (d : Dev) (q k tag : Nat) (v : DWord) : Dev :=
  match k with
  | 0 => d.modQueue q (fun x => { x with ring := v &&& 0x0FFFFFFFFFFFF000 })
  | 1 => d.modQueue q (fun x => { x with idx := v &&& 0x00FFFFFFFFFFFFF0 })
  | 2 => d.writeCtl q tag v
  | _ => d.modQueue q (fun x => { x with save := v &&& 0xFFFFFFFFFFFFF000 })

/-- A write of a drone core's register (R287, R288). -/
def Dev.writeDrone (d : Dev) (i k tag : Nat) (v : DWord) : Dev :=
  match k with
  | 0 => d.modDrone i (fun c => if c.state = 1 then c else { c with base := v &&& 0x000FFFFFFFFFF000 })
  | 1 => d.modDrone i (fun c => if c.state = 1 then c else { c with size := v &&& 0xFFFFFF })
  | 2 =>
    let d := d.modDrone i (fun c => { c with evf := if tag = 16 then bits v.toNat 0 4 else c.evf, budget := bits v.toNat 8 32 })
    if v.getLsbD 4 then d.startEpisode i else d.stopEpisode i
  | _ => d

/-- A write of a mailbox's configuration (R290): open empties the FIFOs, a 0 closes with status 5. -/
def Dev.writeBox (d : Dev) (die n tag : Nat) (v : DWord) : Dev :=
  d.modBox die n (fun b =>
    let b := { b with mvf := if tag = 16 then bits v.toNat 0 4 else b.mvf, core := bits v.toNat 4 5 }
    if v.getLsbD 9 then { b with isOpen := true, status := 0, act := [], obs := [] } else b.close 5)

/-- A write of a function's register by the hypervisor (R311, R390). -/
def Dev.writeVf (d : Dev) (f k : Nat) (v : DWord) : Dev :=
  let set := fun (d : Dev) (g : Vf → Vf) => { d with vfs := put Vf.init d.vfs f (g (look Vf.init d.vfs f)) }
  match k with
  | 0 =>
    let d := if v.getLsbD 22 then d else d.disableVf f
    set d (fun x => { x with ctl := v &&& 0x7FFFFF })
  | 1 => set d (fun x => { x with pt := v &&& 0x000FFFFFFFFFF000 })
  | 2 => set d (fun x => { x with ev := v &&& 0x00FFFFFFFFFFF000 ||| BitVec.ofNat 64 (Nat.min (bits v.toNat 56 4) 5 * 2 ^ 56) })
  | _ => set d (fun x => { x with irq := v &&& 0x000FFFFFFFFFFFFC })

/-- A write of a staged partition register, while no commit is in progress (R340). -/
def writeStaged (m : Mgmt) (n k : Nat) (v : DWord) : Mgmt :=
  if m.prep ≠ m.lgen then m else
  let p := look ⟨0, 0⟩ m.staged n
  let p : Part := if k = 0 then { p with gnt := v } else { p with mrg := v &&& 0xFFFFFFFFFFFF }
  { m with staged := put ⟨0, 0⟩ m.staged n p }

/-- A write of a Bieno mailbox page (R339): a command at offset 0 is the doorbell; one written while the previous is
unanswered is ignored. A number that names no command rings nothing (log 14). -/
def writePage (m : Mgmt) (die off tag : Nat) (v : DWord) : Mgmt :=
  let page := Memory.write (look [] m.pages die) off 8 v.toNat
  if off = 0 then
    if (look none m.asked die).isSome then m
    else { m with pages := put [] m.pages die page, asked := if 1 ≤ bits v.toNat 0 32 ∧ bits v.toNat 0 32 ≤ 6 then put none m.asked die (some tag) else m.asked }
  else { m with pages := put [] m.pages die page }

/-- A write that reaches its register. A semaphore is set, at `.sys`; every `semwt` and wait of a record is at `.dev`, and gains nothing from
that (R207, R332). -/
def writeReg (d : Dev) (m : Mgmt) (tag : Nat) (v : DWord) : Reg → Dev × Mgmt
  | .queue q k => (d.writeQueue q k tag v, m)
  | .qrev q => (d.modQueue q (fun x => { x with rev := v &&& 1 }), m)
  | .drone i k => (d.writeDrone i k tag v, m)
  | .box die n => (d.writeBox die n tag v, m)
  | .sem n => (d.setSem n v, m)
  | .page die off => (d, writePage m die off tag v)
  | .tlbinv => (d.invalidate v, m)
  | .vf f k => if tag = 16 then (d.writeVf f k v, m) else (d, m)
  | .staged n k => (d, writeStaged m n k v)
  | .lctl => prepare d m tag (v.setWidth 32)
  | _ => (d, m)

/-- An aligned 8-byte write of the window; any other is ignored (R333). -/
def windowWrite (d : Dev) (m : Mgmt) (tag off : Nat) (v : DWord) : Dev × Mgmt :=
  let r := regAt off
  if off % 8 = 0 ∧ d.mayReach tag r ∧ d.answers r then writeReg d m tag v r else (d, m)

/-! ### The meanings -/

def execTlbInvalidate (tag : Nat) (v : DWord) (s : State) := s.onDev (fun d => if tag = 16 then d.invalidate v else d)
def execTlbInvalidateDone (s : State) := s.onDev Dev.invalidated
def execSemaphoreWindowWrite (tag n : Nat) (v : DWord) (s : State) :=
  s.onDev (fun d => if n < 256 ∧ d.mayReach tag (.sem n) then d.setSem n v else d)
def execMailboxOpen (tag die n : Nat) (s : State) :=
  s.onDev (fun d => if die < 4 ∧ n < 1024 ∧ d.mayReach tag (.box die n) then d.writeBox die n tag ((d.box die n).reg ||| 0x200) else d)
def execMailboxClose (tag die n : Nat) (s : State) :=
  s.onDev (fun d => if die < 4 ∧ n < 1024 ∧ d.mayReach tag (.box die n) then d.writeBox die n tag ((d.box die n).reg &&& ~~~0x200) else d)
def execRegisterWindowWrite (tag : Nat) (off : BitVec 30) (v : DWord) (s : State) := 
  s.onAll (fun d m => windowWrite d m tag off.toNat v)

end Sys2Proof.Machine
end

