-- ==== Sys2Proof/Machine/System.lean ====
section
/-!
DEFINITION. Host, remote and RDMA accesses (R152, R332, R335), lost lines and bad registers (R370 to R373), the Bieno
mailbox (R339, R374, R399), watchpoint hits (R375), start-up and resets (R336, R400), clock and power (R341, R400) and the
links (R398).
-/
namespace Sys2Proof.Machine

/-! ### Accesses from outside (R152, R332, R335) -/

/-- A node outside the package as a writer: each of its writes is a release at `.sys` that covers its earlier ones (R332). -/
def outsideWho (d : Dev) (node : Nat) : Who := { kind := 6, node := node, thr := nodeThr node, rel := 6, before := d.nodeWrites node }
/-- A host node as a writer (R375). -/
def hostWho (d : Dev) (node tag : Nat) : Who := { outsideWho d node with kind := 5, tag := tag }

/-- Whether the memory of the part answers the outside (R400). -/
def Dev.serves (d : Dev) : Bool := d.power && !d.halted

/-- Whether bytes at a normalised address are memory of this package. -/
def Dev.local? (d : Dev) (pa : Nat) : Bool :=
  d.serves && (match d.cfg.place pa with | .ram _ => true | _ => false)

/-- A write at its home; one that covers part of a bad granule is not performed (R371). -/
def Dev.homeWrite (d : Dev) (who : Who) (pa : Nat) (bs : List Byte) : Dev :=
  if !d.local? pa || (unitsOf 64 pa bs.length).any (fun g => look false d.bad g && !(wholeUnits 64 pa bs.length).contains g) then d
  else d.poke who pa bs

/-- Bytes read at their home: none where a granule cannot be corrected or the address is no memory of this package. The read
recalls the L1 copies of its lines (R155). -/
def Dev.homeRead (d : Dev) (pa n : Nat) : Dev × List Byte :=
  if !d.local? pa then (d, [])
  else (d.recallAll pa n, if (d.badAt pa n).isSome then [] else Memory.readBytes d.mem pa n)

/-- A write from outside, one 4 KiB page at a time; each piece covers the ones before it (R332). -/
def outsideWrite (who : Dev → Who) (a : Nat) (bs : List Byte) (d : Dev) : Dev :=
  (chunks a bs.length).foldl (fun d c => d.homeWrite (who d) (d.cfg.norm c.1) ((bs.drop (c.1 - a)).take c.2)) d

/-- A read from outside. -/
def outsideRead (a n : Nat) (d : Dev) : Dev × List Byte :=
  (chunks a n).foldl (fun r c => let p := r.1.homeRead (r.1.cfg.norm c.1) c.2; (p.1, r.2 ++ p.2)) (d, [])

/-- A read from outside whose reader is given the bytes. -/
def readOut (a n : Nat) (d : Dev) (m : Mgmt) : Dev × Mgmt := let r := outsideRead a n d; (r.1, { m with host := r.2 })

/-- The window offset of a normalised address of this package. -/
def windowOff (d : Dev) (pa : Nat) : Option Nat :=
  if pa / 2 ^ 44 = 0 ∧ d.cfg.place pa = .window then some (pa - 2 ^ 42) else none

/-- A write by a host node: memory, or one aligned 8-byte register of the window. -/
def hostWrite (node tag a : Nat) (bs : List Byte) (d : Dev) (m : Mgmt) : Dev × Mgmt :=
  if tag > 16 then (d, m) else
  match windowOff d (d.cfg.norm a) with
  | some off => if bs.length = 8 then windowWrite d m tag off (BitVec.ofNat 64 (ofBytes bs)) else (d, m)
  | none => (outsideWrite (hostWho · node tag) a bs d, m)

/-- A read by a host node; `host` is what it is given. -/
def hostRead (tag a n : Nat) (d : Dev) (m : Mgmt) : Dev × Mgmt :=
  if tag > 16 then (d, m) else
  match windowOff d (d.cfg.norm a) with
  | some off =>
    if n = 8 then (let r := windowRead d m tag off; (r.1, { m with host := toBytes 8 r.2.toNat }))
    else (d, { m with host := List.replicate n 0 })
  | none => readOut a n d m

/-- A read-modify-write from outside, performed at its home (R152) with every L1 copy recalled (R155); `host` is the old value. -/
def outsideRmw (node a n : Nat) (f : DWord → Option DWord) (d : Dev) (m : Mgmt) : Dev × Mgmt :=
  let pa := d.cfg.norm a
  if a % n ≠ 0 ∨ !d.local? pa ∨ (d.badAt pa n).isSome then (d, { m with host := [] }) else
  let old := BitVec.ofNat 64 (Memory.read d.mem pa n)
  let d' := match f old with
    | some v => d.poke { outsideWho d node with rmw := true } pa (toBytes n v.toNat)
    | none => d.recallAll pa n
  (d', { m with host := toBytes n old.toNat })

/-- An access from another package. -/
def remote (node a : Nat) (rq : RemoteReq) (d : Dev) (m : Mgmt) : Dev × Mgmt :=
  match rq with
  | .read n => readOut a n d m
  | .write bs => (outsideWrite (outsideWho · node) a bs d, m)
  | .atomic op ty x => outsideRmw node a (tyBytes ty) (fun old => some (atomNew op.toNat ty old x)) d m
  | .cas ty e x => outsideRmw node a (tyBytes ty) (fun old => if old = tyTrunc ty e then some x else none) d m

/-- An RDMA send to a queue pair of this package. -/
def rdmaReceive (qp : Nat) (bs : List Byte) (d : Dev) (m : Mgmt) : Dev × Mgmt :=
  if qp < 4096 ∧ d.serves then (d, { m with rdma := put [] m.rdma qp (look [] m.rdma qp ++ [bs]) }) else (d, m)

/-- A node that does not answer within 1 ms (R373). -/
def Dev.nodeLost (d : Dev) (node : Nat) : Dev :=
  if node = 0 ∨ node > 255 ∨ node = d.cfg.node ∨ d.downNode.contains node then d else { d with downNode := node :: d.downNode }

/-! ### Lost lines and bad registers (R370, R372) -/

/-- A dirty line is lost: the queue of its owner tag is killed with 0x175, and every later read of the line returns zeros (R372). -/
def Dev.loseLine (d : Dev) (line : Nat) : Dev :=
  let o := look 0 d.owner line
  let d := if o ≥ 2 ∧ (d.queue (o - 2)).en then d.noteKill (o - 2) 0x175 { cause := 0, die := (o - 2) / 64, d6 := line * 128 } else d
  let d' := { d with watch := [] }.poke { kind := 4 } (line * 128) (List.replicate 128 0)
  { d' with watch := d.watch, owner := put 0 d'.owner line 0, past := d'.past.map (Write.blank (line * 128) 128) }

/-- L1_EVICTION: the line leaves the L1 of a core; with a core of 384 to 431 its bank of L2, which writes it back and leaves it
clean; with any above, its directory entry, which is rebuilt with the line recalled (R372, R373; log 12). The bytes of a dirty line
are at their home already, unless they are lost. An L1 evicts no line while its set has another as next victim (R170). -/
def Dev.l1Evict (d : Dev) (core line : Nat) (lost : Bool) : Dev :=
  if core < 384 && !lost && !d.mayEvict core line then d else
  let dirty := if core < 384 then decide (l1State (d.l1At core line) ≥ 3) else decide (look 0 d.owner line ≠ 0)
  let d := if core < 384 then { d with l1 := put 0 d.l1 (core * 2 ^ 45 + line) 0 } else d.recall line
  if core ≥ 432 then d
  else if lost && dirty then d.loseLine line
  else if core ≥ 384 then { d with owner := put 0 d.owner line 0 } else d

/-- Whether a register's word is allocated to a group; a field of 256 + n is the proposal copy of vn (R300). -/
def LaunchRec.holdsField (r : LaunchRec) (f : Nat) : Bool :=
  if f ≥ 256 then banked (f - 256) && decide (f - 256 < r.vg)
  else if f < 64 then decide (f < r.vg) || (r.compact && decide (f ≥ 56)) else decide (f < 64 + r.sregs) || (decide (96 ≤ f ∧ f < 120 ∧ f ≠ 103))

/-- REGISTER_SCRUB: a word that cannot be corrected is recorded, and no lane stops; a good word stays as it is. -/
def Dev.scrub (d : Dev) (g w f L : Nat) (bad : Bool) : Dev :=
  let d := if bad then d.settleLoads g w else d
  match d.group? g, d.warp? g w with
  | some x, some _ =>
    if !bad || !x.lr.holdsField f || decide (L ≥ 32) then d else
    let key := (g, w, f, if f < 64 ∨ f ≥ 256 then L else 0)
    let d := if d.badReg.contains key then d else { d with badReg := key :: d.badReg }
    d.note x.queue 0x162 { x.placeRec with imp := true, warp := w, d6 := f % 256 + 256 * key.2.2.2 }
  | _, _ => d

/-! ### The Bieno mailbox (R339, R374, R399) -/

/-- A command's outcome: the status and the answer, or nothing yet. -/
abbrev Reply := Option (Dev × Mgmt × Nat × List Byte)

/-- A Bieno as a thread of the memory model, at its die (R180), and as the writer of a host word: a release at `.sys` that covers its earlier
ones (R339). -/
def bienoThr (die : Nat) : Thr := ⟨3, die, 0, 0, 2 ^ 50 + die, 0, 0⟩
def bienoWho (d : Dev) (die tag : Nat) : Who :=
  { kind := 4, tag := tag, die := die, thr := bienoThr die, rel := 6, before := (d.past.filter (·.by_ == bienoThr die)).map (·.id) }

/-- Answer command `num` of a die's Bieno mailbox, if it is asked: the answer stands at offset 64, the status at 4, and then
1 goes to the host word (log 14). -/
def answer (die num : Nat) (act : Dev → Mgmt → Nat → Memory → Reply) (d : Dev) (m : Mgmt) : Dev × Mgmt :=
  match look none m.asked die with
  | none => (d, m)
  | some tag =>
    let page := look [] m.pages die
    if !d.power || d.bienoHeld.contains die || Memory.read page 0 4 ≠ num then (d, m) else
    match act d m tag page with
    | none => (d, m)
    | some (d, m, st, bs) =>
      let page := Memory.write (Memory.writeBytes page 64 bs) 4 4 st
      (d.send (bienoWho d die tag) (Memory.read page 8 8 % 2 ^ 52) (toBytes 4 1),
        { m with pages := put [] m.pages die page, asked := put none m.asked die none })

/-- A refusal. -/
def refused (d : Dev) (m : Mgmt) : Reply := some (d, m, 1, [])

/-- Command 1: the report and its signature, by the Bieno of die 0. -/
def attestAct (die : Nat) (d : Dev) (m : Mgmt) (_ : Nat) (page : Memory) : Reply :=
  if die ≠ 0 then refused d m else
  let report := (identity d m).take 256 ++ Memory.readBytes page 64 32 ++ toBytes 4 m.lgen.toNat
  some (d, m, 0, report ++ toBytes 1280 (Config.sign report))

/-- Command 2: data written into the inactive slot, the one that is not in use (log 14). -/
def stageAct (d : Dev) (m : Mgmt) (_ : Nat) (page : Memory) : Reply :=
  let off := Memory.read page 64 4
  let n := Memory.read page 68 4
  let base := slotBase (if m.slot = 0 then 1 else 0)
  if n > 4024 ∨ off < base ∨ off + n > base + 24 * 2 ^ 20 then refused d m
  else some (d, { m with flash := Memory.writeBytes m.flash off (Memory.readBytes page 72 n) }, 0, [])

/-- Command 3: the directory names a slot. -/
def selectAct (d : Dev) (m : Mgmt) (_ : Nat) (page : Memory) : Reply :=
  let slot := Memory.read page 64 4
  if slot > 1 then refused d m else some (d, { m with flash := Memory.write m.flash 4 4 slot }, 0, [])

/-- The fields of an arm command, in range. -/
def armFields (page : Memory) : Option (Nat × Watch) :=
  let n := fun off k => Memory.read page (64 + off) k
  let len := n 16 4
  if n 0 4 > 15 ∨ n 4 4 > 1 ∨ !(List.range 14).any (fun k => len == 2 ^ (k + 3)) ∨ n 8 8 % len ≠ 0 ∨ n 20 4 > 255
      ∨ n 8 8 + len > (if n 4 4 = 1 then 48 * 2 ^ 22 else 2 ^ 52) then none
  else some (n 0 4, ⟨n 4 4 == 1, n 8 8, len, n 20 4⟩)

/-- Command 4: a watchpoint is armed, and the L1 copies of its lines are recalled. -/
def armAct (die : Nat) (d : Dev) (m : Mgmt) (tag : Nat) (page : Memory) : Reply :=
  if die ≠ 0 ∨ tag ≠ 16 then refused d m else
  match armFields page with
  | none => refused d m
  | some (n, x) =>
    let x := if x.hiveSpace then x else { x with addr := d.cfg.norm x.addr }
    let d := if x.hiveSpace then d else (unitsOf 128 x.addr x.len).foldl Dev.recall d
    some ({ d with watch := put none d.watch n (some x) }, m, 0, [])

/-- Command 5: a watchpoint is disarmed, answered once no hit waits. -/
def disarmAct (die : Nat) (d : Dev) (m : Mgmt) (tag : Nat) (page : Memory) : Reply :=
  let n := Memory.read page 64 4
  if die ≠ 0 ∨ tag ≠ 16 ∨ n > 15 then refused d m
  else if !d.hits.isEmpty then none
  else some ({ d with watch := put none d.watch n none }, m, 0, [])

/-- Command 6: the log of a link. -/
def linkAct (die : Nat) (d : Dev) (m : Mgmt) (_ : Nat) (page : Memory) : Reply :=
  let p := Memory.read page 64 4
  if die ≠ 0 ∨ p > 27 then refused d m else
  let l := look Link.init m.links p
  some (d, m, 0, toBytes 8 l.n190 ++ toBytes 8 l.n191 ++ toBytes 4 (if l.down then 1 else 0))

/-! ### Watchpoint hits (R375) -/

/-- The warp that a hit is delivered to: group, warp and lanes. -/
def Dev.hitTarget (d : Dev) (q : Nat) : Option (Group × Nat × LaneSet) :=
  let ready := fun (w : Warp) =>
    setOf ((lanesOf (w.live &&& ~~~w.handler)).filter (fun L => (look none w.park L).isNone))
  (d.grids.filter (fun r => r.queue == q && r.tvec != 0)).findSome? (fun r =>
    let able := d.groups.filter (fun x => x.grid == r.id && x.pixel.isNone && x.warps.any (fun w => ready w != 0))
    let raster := d.groups.filter (fun x => x.grid == r.id && x.pixel.isSome && x.warps.any (fun w => ready w != 0))
    ((leastBy (fun (x : Group) => x.gid) able).or raster.head?).bind (fun x =>
      (x.numbered.find? (fun p => ready p.2 != 0)).map (fun p => (x, p.1, ready p.2))))

/-- The word at which lanes of a warp stand: the one that a lane waits at, else what memory holds there (log 12). -/
def Dev.standingWord (d : Dev) (x : Group) (w : Warp) (L : Nat) : DWord :=
  if look .none w.wait L = .none then d.wordAt x.die x.vf (w.pcOf L).toNat else look 0 w.word L

/-- WATCHPOINT_HIT: the oldest hit writes its record and is delivered; its write happens before the handler, whose reads do not go behind
it (R376). -/
def Dev.hitNext (d : Dev) : Dev :=
  match d.hits with
  | [] => d
  | h :: rest =>
    let d := { d with hits := rest }
    let know := (d.writesOf h.ids).foldl (fun m w => uni (uni m [w.id]) w.before) []
    let c : Cause := BitVec.ofNat 9 (0x1A0 + h.kind)
    match d.hitTarget h.queue with
    | none => d.note h.queue c { cause := 0, imp := true, die := h.queue / 64, d5 := h.d5, d6 := h.d6, know := know }
    | some (x, wi, ls) =>
      let w := (d.warp? x.id wi).getD (Warp.entry 0 0 0 0 0)
      let L := (leastBy (fun L => (w.pcOf L).toNat) (lanesOf ls)).getD 0
      let f : Flt := ⟨c, h.d5, h.d6⟩
      let r := { warpRec x wi (w.pcOf L).toNat (d.standingWord x w L) ls f with imp := true, know := know }
      (d.recordFor x.queue r { group := x.id, warp := wi, lanes := ls }).1.modWarp x.id wi (fun w =>
        (w.modView ls (fun v => { v with seen := uni v.seen h.ids })).enter (d.tvecOf x) ((lanesOf ls).map (fun L => (L, f))))

/-! ### Start-up and resets (R336, R340, R400) -/

/-- A list as a sparse map. -/
def ofList (d : Nat) (xs : List Nat) : SMap Nat := gatherMap d xs.length (fun k => xs.getD k d)

/-- A cluster's hive memory: 2 or 4 MiB, or none (R159). -/
def hiveSize (mib : Nat) : Nat := if mib = 2 ∨ mib = 4 then mib else 0

/-- The disabled site of a die, 0 to 12 (R12), a package's node number, 1 to 255 (R332), and the power cap, 1,600 to 3,200 W (R341): a number
that an image gives outside of its range is taken as the nearest in it (log 7). -/
def siteOf (n : Nat) : Nat := Nat.min n 12
def nodeOf (n : Nat) : Nat := Nat.max 1 (Nat.min n 255)
def capOf (n : Option Nat) : Nat := (n.map (fun w => Nat.max 1600 (Nat.min w 3200))).getD 3200

/-- The configuration that an image gives (R337), with the memory found behind the CXL ports. -/
def cfgOf (b : SlotImage) (cxl : List Nat) : Cfg :=
  { node := nodeOf b.node, repair := ofList 12 (b.repair.map siteOf), combBase := ofList 0 b.combBase, combSize := ofList 0 b.combSize
    hive := ofList 0 (b.hive.map hiveSize), routes := b.routes.map (·.1), hosts := b.hosts, cxl := ofList 0 cxl
    ports := b.routes.foldl (fun m r => put (0, none) m r.1 r.2) [] }

/-- The compute side from its start, with what goes on: the model's counters. The comb store's segments are forgotten, also where
memory stays (R20; DESIGN CHOICE, log 24). -/
def Dev.restart (d : Dev) : Dev := { Dev.init with cfg := d.cfg, free := d.free, nextId := d.nextId }

/-- Start-up from a slot of the flash that verifies, with a status. -/
def startFrom (slot status : Nat) (cxl : List Nat) (d : Dev) (m : Mgmt) : Dev × Mgmt :=
  let b := m.image slot
  ({ d.restart with cfg := cfgOf b cxl }, { Mgmt.init with flash := m.flash, host := m.host, status := status, slot := slot, capW := capOf b.capW })

/-- POWER_GOOD: the slot that the directory names, the other one if it does not verify, or none (R336). Memory holds what nothing has
written (log 3). -/
def powerGood (cxl : List Nat) (d : Dev) (m : Mgmt) : Dev × Mgmt :=
  let ok := fun s => m.verifies s
  let first := if m.active = 0 then 0 else 1
  let m0 := { Mgmt.init with flash := m.flash, host := m.host }
  if ok first then startFrom first 0 cxl d m
  else if ok (1 - first) then startFrom (1 - first) 1 cxl d m
  else ({ d.restart with halted := true }, { m0 with status := 2, slot := first })

/-- DEVICE_RESET: every tenant's work ends (R327), and the compute side starts again over memory as it stands; the layout registers
clear. -/
def deviceReset (d : Dev) (m : Mgmt) : Dev × Mgmt :=
  if d.halted then (d, m) else
  ({ d.restart with mem := d.mem, hive := d.hive, bad := d.bad.filter (fun e => decide (e.1 < 2 ^ 61)), owner := d.owner, downDie := d.downDie,
                    downNode := d.downNode, bienoHeld := d.bienoHeld, power := d.power, flits := d.flits },
   { m with staged := [], lgen := 0, prep := 0, rej := false, asked := [], pages := [] })

/-- POWER_LOSS: every tenant's work ends (R327), and nothing of the part answers until the next power-good; the flash keeps its
bytes. -/
def powerLoss (d : Dev) (m : Mgmt) : Dev × Mgmt :=
  ({ d.restart with power := false, bienoHeld := [0, 1, 2, 3] }, { Mgmt.init with flash := m.flash, host := m.host })

/-- The enabled queues of a device or of a die. -/
def Dev.enabledOf (d : Dev) (p : Nat → Bool) : List Nat := (keysOf d.queues).filter (fun q => p q && (d.queue q).en)

/-- BIENO_WATCHDOG_RESET. -/
def Dev.bienoReset (d : Dev) (die : Nat) : Dev :=
  if die > 3 then d else
  (d.enabledOf (fun q => q / 64 == die)).foldl (fun d q => d.note q 0x1E0 { cause := 0, imp := true, die := die })
    { d with bienoHeld := if d.bienoHeld.contains die then d.bienoHeld else die :: d.bienoHeld }

/-- BIENO_RESTART: a layout commit between its phases rolls forward. -/
def bienoBack (die : Nat) (d : Dev) (m : Mgmt) : Dev × Mgmt :=
  if !d.bienoHeld.contains die then (d, m) else layoutFlip { d with bienoHeld := d.bienoHeld.filter (· != die) } m

/-- THERMAL_HALT: every queue is killed with 0x1E2, and the device halts with status 3, from which each tenant learns that its work
has ended (R327, R400). -/
def thermalHalt (die : Nat) (d : Dev) (m : Mgmt) : Dev × Mgmt :=
  if die > 3 ∨ !d.serves then (d, m) else
  ({ (d.enabledOf (fun _ => true)).foldl (fun d q => d.killFor q 0x1E2) d with halted := true }, { m with status := 3 })

/-! ### Clock and power (R341, R400) -/

/-- The main clock that the cap and the temperatures allow. -/
def Mgmt.reclock (m : Mgmt) : Mgmt := { m with clock := if m.hot.isEmpty then m.cap else 1000 }

def throttle (die : Nat) (d : Dev) (m : Mgmt) : Dev × Mgmt :=
  if die > 3 ∨ m.hot.contains die ∨ d.bienoHeld.contains 0 then (d, m) else (d, Mgmt.reclock { m with hot := die :: m.hot })
def holdEnd (d : Dev) (m : Mgmt) : Dev × Mgmt :=
  if d.bienoHeld.contains 0 then (d, m) else (d, Mgmt.reclock { m with hot := [] })
/-- A step of 100 MHz between 1.0 GHz and 1.7 GHz. -/
def clockStep (up : Bool) (d : Dev) (m : Mgmt) : Dev × Mgmt :=
  if d.bienoHeld.contains 0 then (d, m)
  else (d, Mgmt.reclock { m with cap := if up then Nat.min (m.cap + 100) 1700 else Nat.max (m.cap - 100) 1000 })

/-! ### Links (R398) -/

/-- The route of a node whose Akvar port went down: it moves to its alternate port, or the node answers no more (R398). -/
def Dev.reroute (d : Dev) (isDown : Nat → Bool) (node : Nat) : Dev :=
  match (look (0, none) d.cfg.ports node).2 with
  | some alt => if isDown alt then d.nodeLost node else { d with cfg := { d.cfg with ports := put (0, none) d.cfg.ports node (alt, none) } }
  | none => d.nodeLost node

/-- A link of a port goes down: a die boundary, or the Akvar port of some routes. -/
def Dev.linkDown (d : Dev) (isDown : Nat → Bool) (port : Nat) : Dev :=
  if port ≥ 24 then { d with downDie := (port - 24) :: d.downDie }
  else (d.cfg.routes.filter (fun n => (look (0, none) d.cfg.ports n).1 == port)).foldl (fun d n => d.reroute isDown n) d

/-- LINK_PERMIT_MISMATCH. The replay loses no access, so only the log changes until the third failed retrain of an audit period;
whether a new period has begun is free (R398, log 12). -/
def permitMismatch (port : Nat) (retrained : Bool) (d : Dev) (m : Mgmt) : Dev × Mgmt :=
  let l := look Link.init m.links port
  if port > 27 ∨ l.down then (d, m) else
  let p := d.freeBit
  let l := { l with n190 := l.n190 + 1, retries := (if p.2 then 0 else l.retries) + (if retrained then 0 else 1) }
  if l.retries < 3 then (p.1, { m with links := put Link.init m.links port l })
  else (p.1.linkDown (fun k => k == port || (look Link.init m.links k).down) port,
    { m with links := put Link.init m.links port { l with n191 := l.n191 + 1, down := true } })

/-! ### The meanings -/

def execHostMemoryWrite (tag : HostTag) (addr : BitVec 52) (bytes : List Byte) (s : State) := s.onAll (hostWrite tag.node tag.tag addr.toNat bytes)
/-- What a node reads does not depend on which node it is: a read has no order of its own (R332). -/
def execHostMemoryRead (tag : HostTag) (addr : BitVec 52) (n : Nat) (s : State) := s.onAll (hostRead tag.tag addr.toNat n)
def execRemoteAccess (node : Nat) (addr : BitVec 52) (rq : RemoteReq) (s : State) := s.onAll (remote node addr.toNat rq)
def execRdmaWrite (node : Nat) (addr : BitVec 52) (bytes : List Byte) (s : State) :=
  s.onDev (fun d => outsideWrite (outsideWho · node) addr.toNat bytes d)
def execRdmaRead (_node : Nat) (addr : BitVec 52) (n : Nat) (s : State) := s.onAll (readOut addr.toNat n)
def execRdmaSend (_node qp : Nat) (bytes : List Byte) (s : State) := s.onAll (rdmaReceive qp bytes)
def execRdmaFetchAdd (node : Nat) (addr : BitVec 52) (x : DWord) (s : State) := s.onAll (outsideRmw node addr.toNat 8 (fun old => some (old + x)))
def execRdmaCompareSwap (node : Nat) (addr : BitVec 52) (expected new : DWord) (s : State) :=
  s.onAll (outsideRmw node addr.toNat 8 (fun old => if old = expected then some new else none))
def execRemoteAccessTimeout (node : Nat) (s : State) := s.onDev (·.nodeLost node)
def execL1Eviction (core line : Nat) (lost : Bool) (s : State) := s.onDev (·.l1Evict core line lost)
def execRegisterScrub (g w : Nat) (field : BitVec 9) (lane : Nat) (bad : Bool) (s : State) := s.onDev (·.scrub g w field.toNat lane bad)
def execAttest (die : Nat) (s : State) := s.onAll (answer die 1 (attestAct die))
def execStageImage (die : Nat) (s : State) := s.onAll (answer die 2 stageAct)
def execSelectSlot (die : Nat) (s : State) := s.onAll (answer die 3 selectAct)
/-- `tag` is the tag that the command carries, which the mailbox keeps. -/
def execWatchpointArm (tag die : Nat) (s : State) :=
  s.onAll (answer die 4 (fun d m t page => if t = tag then armAct die d m t page else none))
def execWatchpointDisarm (tag die : Nat) (s : State) :=
  s.onAll (answer die 5 (fun d m t page => if t = tag then disarmAct die d m t page else none))
def execLinkLogRead (die : Nat) (s : State) := s.onAll (answer die 6 (linkAct die))
def execWatchpointHit (s : State) := s.onDev Dev.hitNext
def execPowerGood (cxl : List Nat) (s : State) := s.onAll (powerGood cxl)
def execDeviceReset (s : State) := s.onAll deviceReset
def execBienoWatchdogReset (die : Nat) (s : State) := s.onDev (·.bienoReset die)
def execBienoRestart (die : Nat) (s : State) := s.onAll (bienoBack die)
def execThermalHalt (die : Nat) (s : State) := s.onAll (thermalHalt die)
def execThermalThrottle (die : Nat) (s : State) := s.onAll (throttle die)
def execThermalHoldEnd (s : State) := s.onAll holdEnd
def execPowerCapClockStep (up : Bool) (s : State) := s.onAll (clockStep up)
def execLinkPermitMismatch (port : Nat) (retrained : Bool) (s : State) := s.onAll (permitMismatch port retrained)
def execPowerLoss (s : State) := s.onAll powerLoss

end Sys2Proof.Machine
end

