-- ==== Sys2Proof/Machine/Dispatch.lean ====
section
/-!
DEFINITION. One arm for each constructor of Instr: one direct call of its meaning, or a rejection by name.
-/
namespace Sys2Proof.Machine

def exec (i : Instr) (s : State) : Host.Outcome State Fault Refusal :=
  match i with
  | .nop f => Sys2Proof.Machine.execNop f s
  | .bra f => Sys2Proof.Machine.execBra f s
  | .braL f => Sys2Proof.Machine.execBraL f s
  | .brc f => Sys2Proof.Machine.execBrc f s
  | .brcL f => Sys2Proof.Machine.execBrcL f s
  | .brx f => Sys2Proof.Machine.execBrx f s
  | .call f => Sys2Proof.Machine.execCall f s
  | .callL f => Sys2Proof.Machine.execCallL f s
  | .ret f => Sys2Proof.Machine.execRet f s
  | .exit f => Sys2Proof.Machine.execExit f s
  | .tail f => Sys2Proof.Machine.execTail f s
  | .ypt f => Sys2Proof.Machine.execYpt f s
  | .mjoin f => Sys2Proof.Machine.execMjoin f s
  | .mleave f => Sys2Proof.Machine.execMleave f s
  | .mwait f => Sys2Proof.Machine.execMwait f s
  | .mset f => Sys2Proof.Machine.execMset f s
  | .mget f => Sys2Proof.Machine.execMget f s
  | .serb f => Sys2Proof.Machine.execSerb f s
  | .sere f => Sys2Proof.Machine.execSere f s
  | .rgn f => Sys2Proof.Machine.execRgn f s
  | .bar f => Sys2Proof.Machine.execBar f s
  | .bara f => Sys2Proof.Machine.execBara f s
  | .barw f => Sys2Proof.Machine.execBarw f s
  | .sleep f => Sys2Proof.Machine.execSleep f s
  | .lnch f => Sys2Proof.Machine.execLnch f s
  | .semsig f => Sys2Proof.Machine.execSemsig f s
  | .semwt f => Sys2Proof.Machine.execSemwt f s
  | .add f => Sys2Proof.Machine.execAdd f s
  | .addL f => Sys2Proof.Machine.execAddL f s
  | .sub f => Sys2Proof.Machine.execSub f s
  | .subL f => Sys2Proof.Machine.execSubL f s
  | .mul f => Sys2Proof.Machine.execMul f s
  | .mulL f => Sys2Proof.Machine.execMulL f s
  | .mulh f => Sys2Proof.Machine.execMulh f s
  | .mad f => Sys2Proof.Machine.execMad f s
  | .div f => Sys2Proof.Machine.execDiv f s
  | .rem f => Sys2Proof.Machine.execRem f s
  | .min f => Sys2Proof.Machine.execMin f s
  | .minL f => Sys2Proof.Machine.execMinL f s
  | .max f => Sys2Proof.Machine.execMax f s
  | .maxL f => Sys2Proof.Machine.execMaxL f s
  | .abs f => Sys2Proof.Machine.execAbs f s
  | .neg f => Sys2Proof.Machine.execNeg f s
  | .and f => Sys2Proof.Machine.execAnd f s
  | .andL f => Sys2Proof.Machine.execAndL f s
  | .or f => Sys2Proof.Machine.execOr f s
  | .orL f => Sys2Proof.Machine.execOrL f s
  | .xor f => Sys2Proof.Machine.execXor f s
  | .xorL f => Sys2Proof.Machine.execXorL f s
  | .not f => Sys2Proof.Machine.execNot f s
  | .andn f => Sys2Proof.Machine.execAndn f s
  | .andnL f => Sys2Proof.Machine.execAndnL f s
  | .shl f => Sys2Proof.Machine.execShl f s
  | .shr f => Sys2Proof.Machine.execShr f s
  | .sar f => Sys2Proof.Machine.execSar f s
  | .rot f => Sys2Proof.Machine.execRot f s
  | .clz f => Sys2Proof.Machine.execClz f s
  | .popc f => Sys2Proof.Machine.execPopc f s
  | .brev f => Sys2Proof.Machine.execBrev f s
  | .bfe f => Sys2Proof.Machine.execBfe f s
  | .bfi f => Sys2Proof.Machine.execBfi f s
  | .sel f => Sys2Proof.Machine.execSel f s
  | .cmp f => Sys2Proof.Machine.execCmp f s
  | .cmpL f => Sys2Proof.Machine.execCmpL f s
  | .lea f => Sys2Proof.Machine.execLea f s
  | .leaL f => Sys2Proof.Machine.execLeaL f s
  | .sext f => Sys2Proof.Machine.execSext f s
  | .zext f => Sys2Proof.Machine.execZext f s
  | .mov f => Sys2Proof.Machine.execMov f s
  | .li f => Sys2Proof.Machine.execLi f s
  | .liL f => Sys2Proof.Machine.execLiL f s
  | .shfl f => Sys2Proof.Machine.execShfl f s
  | .vote f => Sys2Proof.Machine.execVote f s
  | .bcst f => Sys2Proof.Machine.execBcst f s
  | .scan f => Sys2Proof.Machine.execScan f s
  | .vred f => Sys2Proof.Machine.execVred f s
  | .qget f => Sys2Proof.Machine.execQget f s
  | .elect f => Sys2Proof.Machine.execElect f s
  | .vshp f => Sys2Proof.Machine.execVshp f s
  | .fadd f => Sys2Proof.Machine.execFadd f s
  | .faddL f => Sys2Proof.Machine.execFaddL f s
  | .fsub f => Sys2Proof.Machine.execFsub f s
  | .fsubL f => Sys2Proof.Machine.execFsubL f s
  | .fmul f => Sys2Proof.Machine.execFmul f s
  | .fmulL f => Sys2Proof.Machine.execFmulL f s
  | .ffma f => Sys2Proof.Machine.execFfma f s
  | .fdiv f => Sys2Proof.Machine.execFdiv f s
  | .fsqrt f => Sys2Proof.Machine.execFsqrt f s
  | .frcp f => Sys2Proof.Machine.execFrcp f s
  | .frsq f => Sys2Proof.Machine.execFrsq f s
  | .fexp2 f => Sys2Proof.Machine.execFexp2 f s
  | .flog2 f => Sys2Proof.Machine.execFlog2 f s
  | .fsinpi f => Sys2Proof.Machine.execFsinpi f s
  | .fcospi f => Sys2Proof.Machine.execFcospi f s
  | .fmin f => Sys2Proof.Machine.execFmin f s
  | .fminL f => Sys2Proof.Machine.execFminL f s
  | .fmax f => Sys2Proof.Machine.execFmax f s
  | .fmaxL f => Sys2Proof.Machine.execFmaxL f s
  | .fcmp f => Sys2Proof.Machine.execFcmp f s
  | .fcmpL f => Sys2Proof.Machine.execFcmpL f s
  | .frnd f => Sys2Proof.Machine.execFrnd f s
  | .fcvt f => Sys2Proof.Machine.execFcvt f s
  | .f2i f => Sys2Proof.Machine.execF2i f s
  | .i2f f => Sys2Proof.Machine.execI2f f s
  | .fclass f => Sys2Proof.Machine.execFclass f s
  | .bexp f => Sys2Proof.Machine.execBexp f s
  | .bpack f => Sys2Proof.Machine.execBpack f s
  | .bscl f => Sys2Proof.Machine.execBscl f s
  | .bhdr f => Sys2Proof.Machine.execBhdr f s
  | .ndot f => Sys2Proof.Machine.execNdot f s
  | .rnd f => Sys2Proof.Machine.execRnd f s
  | .ld f => Sys2Proof.Machine.execLd f s
  | .st f => Sys2Proof.Machine.execSt f s
  | .lsp f => Sys2Proof.Machine.execLsp f s
  | .ssp f => Sys2Proof.Machine.execSsp f s
  | .lhv f => Sys2Proof.Machine.execLhv f s
  | .shv f => Sys2Proof.Machine.execShv f s
  | .atom f => Sys2Proof.Machine.execAtom f s
  | .cas f => Sys2Proof.Machine.execCas f s
  | .red f => Sys2Proof.Machine.execRed f s
  | .fence f => Sys2Proof.Machine.execFence f s
  | .pchk f => Sys2Proof.Machine.execPchk f s
  | .pclr f => Sys2Proof.Machine.execPclr f s
  | .pfch f => Sys2Proof.Machine.execPfch f s
  | .cpy f => Sys2Proof.Machine.execCpy f s
  | .cjob f => Sys2Proof.Machine.execCjob f s
  | .cwait f => Sys2Proof.Machine.execCwait f s
  | .cpoll f => Sys2Proof.Machine.execCpoll f s
  | .coll f => Sys2Proof.Machine.execColl f s
  | .mmac f => Sys2Proof.Machine.execMmac f s
  | .mzero f => Sys2Proof.Machine.execMzero f s
  | .mload f => Sys2Proof.Machine.execMload f s
  | .mdrain f => Sys2Proof.Machine.execMdrain f s
  | .mstat f => Sys2Proof.Machine.execMstat f s
  | .sbind f => Sys2Proof.Machine.execSbind f s
  | .sld f => Sys2Proof.Machine.execSld f s
  | .sst f => Sys2Proof.Machine.execSst f s
  | .sstc f => Sys2Proof.Machine.execSstc f s
  | .sres f => Sys2Proof.Machine.execSres f s
  | .cullbf f => Sys2Proof.Machine.execCullbf f s
  | .cullfr f => Sys2Proof.Machine.execCullfr f s
  | .cullsm f => Sys2Proof.Machine.execCullsm f s
  | .cullhz f => Sys2Proof.Machine.execCullhz f s
  | .pexp f => Sys2Proof.Machine.execPexp f s
  | .isectb f => Sys2Proof.Machine.execIsectb f s
  | .isectt f => Sys2Proof.Machine.execIsectt f s
  | .pix f => Sys2Proof.Machine.execPix f s
  | .fdisc f => Sys2Proof.Machine.execFdisc f s
  | .fdep f => Sys2Proof.Machine.execFdep f s
  | .mbsend f => Sys2Proof.Machine.execMbsend f s
  | .mbrecv f => Sys2Proof.Machine.execMbrecv f s
  | .mbpoll f => Sys2Proof.Machine.execMbpoll f s
  | .mbver f => Sys2Proof.Machine.execMbver f s
  | .pbopen f => Sys2Proof.Machine.execPbopen f s
  | .pbx f => Sys2Proof.Machine.execPbx f s
  | .pacc f => Sys2Proof.Machine.execPacc f s
  | .pbstat f => Sys2Proof.Machine.execPbstat f s
  | .csrr f => Sys2Proof.Machine.execCsrr f s
  | .csrw f => Sys2Proof.Machine.execCsrw f s
  | .csrs f => Sys2Proof.Machine.execCsrs f s
  | .csrc f => Sys2Proof.Machine.execCsrc f s
  | .trap f => Sys2Proof.Machine.execTrap f s
  | .eret f => Sys2Proof.Machine.execEret f s
  | .brk f => Sys2Proof.Machine.execBrk f s
  | .pFormPair h1 h2 => Sys2Proof.Machine.execPFormPair h1 h2 s
  | .illegalWordIssue e => Sys2Proof.Machine.execIllegalWordIssue e s
  | .faultServiceRewalk g w arrival => Sys2Proof.Machine.execFaultServiceRewalk g w arrival s
  | .sleepExpiry g w => Sys2Proof.Machine.execSleepExpiry g w s
  | .laneRestRelease g w arrival => Sys2Proof.Machine.execLaneRestRelease g w arrival s
  | .hostMemoryWrite tag addr bytes => Sys2Proof.Machine.execHostMemoryWrite tag addr bytes s
  | .hostMemoryRead tag addr n => Sys2Proof.Machine.execHostMemoryRead tag addr n s
  | .remoteAccess node addr rq => Sys2Proof.Machine.execRemoteAccess node addr rq s
  | .rdmaWrite node addr bytes => Sys2Proof.Machine.execRdmaWrite node addr bytes s
  | .rdmaRead node addr n => Sys2Proof.Machine.execRdmaRead node addr n s
  | .rdmaSend node qp bytes => Sys2Proof.Machine.execRdmaSend node qp bytes s
  | .rdmaFetchAdd node addr x => Sys2Proof.Machine.execRdmaFetchAdd node addr x s
  | .rdmaCompareSwap node addr expected new => Sys2Proof.Machine.execRdmaCompareSwap node addr expected new s
  | .remoteAccessTimeout node => Sys2Proof.Machine.execRemoteAccessTimeout node s
  | .l1Eviction core line lost => Sys2Proof.Machine.execL1Eviction core line lost s
  | .registerScrub g w field lane bad => Sys2Proof.Machine.execRegisterScrub g w field lane bad s
  | .launchRecordConsume q => Sys2Proof.Machine.execLaunchRecordConsume q s
  | .placeGroup die => Sys2Proof.Machine.execPlaceGroup die s
  | .groupRestore q => Sys2Proof.Machine.execGroupRestore q s
  | .groupResourceFree g => Sys2Proof.Machine.execGroupResourceFree g s
  | .queueEnable tag q => Sys2Proof.Machine.execQueueEnable tag q s
  | .queueDisableKill tag q => Sys2Proof.Machine.execQueueDisableKill tag q s
  | .preemptionRequest tag q => Sys2Proof.Machine.execPreemptionRequest tag q s
  | .preemptionWithdraw tag q => Sys2Proof.Machine.execPreemptionWithdraw tag q s
  | .preemptionDeadline g => Sys2Proof.Machine.execPreemptionDeadline g s
  | .groupSaveWrite g => Sys2Proof.Machine.execGroupSaveWrite g s
  | .saveOpsTimeout g => Sys2Proof.Machine.execSaveOpsTimeout g s
  | .queueKillComplete q => Sys2Proof.Machine.execQueueKillComplete q s
  | .killEngineTimeout op => Sys2Proof.Machine.execKillEngineTimeout op s
  | .worldSwitchRequest c f => Sys2Proof.Machine.execWorldSwitchRequest c f s
  | .worldSwitchComplete c => Sys2Proof.Machine.execWorldSwitchComplete c s
  | .revocationStart c => Sys2Proof.Machine.execRevocationStart c s
  | .revocationSaveTimeout c => Sys2Proof.Machine.execRevocationSaveTimeout c s
  | .revocationComplete c => Sys2Proof.Machine.execRevocationComplete c s
  | .layoutPrepare tag gen => Sys2Proof.Machine.execLayoutPrepare tag gen s
  | .layoutFlip => Sys2Proof.Machine.execLayoutFlip s
  | .clusterLayoutApply c => Sys2Proof.Machine.execClusterLayoutApply c s
  | .tlbInvalidate tag value => Sys2Proof.Machine.execTlbInvalidate tag value s
  | .tlbInvalidateDone => Sys2Proof.Machine.execTlbInvalidateDone s
  | .semaphoreWindowWrite tag n value => Sys2Proof.Machine.execSemaphoreWindowWrite tag n value s
  | .mailboxOpen tag die n => Sys2Proof.Machine.execMailboxOpen tag die n s
  | .mailboxClose tag die n => Sys2Proof.Machine.execMailboxClose tag die n s
  | .episodeStart tag die k => Sys2Proof.Machine.execEpisodeStart tag die k s
  | .episodeStop tag die k => Sys2Proof.Machine.execEpisodeStop tag die k s
  | .vfDisable tag f => Sys2Proof.Machine.execVfDisable tag f s
  | .registerWindowWrite tag off value => Sys2Proof.Machine.execRegisterWindowWrite tag off value s
  | .attest die => Sys2Proof.Machine.execAttest die s
  | .stageImage die => Sys2Proof.Machine.execStageImage die s
  | .selectSlot die => Sys2Proof.Machine.execSelectSlot die s
  | .watchpointArm tag die => Sys2Proof.Machine.execWatchpointArm tag die s
  | .watchpointDisarm tag die => Sys2Proof.Machine.execWatchpointDisarm tag die s
  | .linkLogRead die => Sys2Proof.Machine.execLinkLogRead die s
  | .watchpointHit => Sys2Proof.Machine.execWatchpointHit s
  | .copyPieceLanded op => Sys2Proof.Machine.execCopyPieceLanded op s
  | .engineStallResolved op => Sys2Proof.Machine.execEngineStallResolved op s
  | .combCollectorMove die => Sys2Proof.Machine.execCombCollectorMove die s
  | .jobCardDone op => Sys2Proof.Machine.execJobCardDone op s
  | .collectiveDone op => Sys2Proof.Machine.execCollectiveDone op s
  | .collectiveRankTimeout op rank => Sys2Proof.Machine.execCollectiveRankTimeout op rank s
  | .mmacCommit op => Sys2Proof.Machine.execMmacCommit op s
  | .mmacFailure op => Sys2Proof.Machine.execMmacFailure op s
  | .mdrainDelivery op => Sys2Proof.Machine.execMdrainDelivery op s
  | .peerAdd op => Sys2Proof.Machine.execPeerAdd op s
  | .resolveTileCoding op => Sys2Proof.Machine.execResolveTileCoding op s
  | .mailboxDelivery op => Sys2Proof.Machine.execMailboxDelivery op s
  | .drawReprojection draw tile => Sys2Proof.Machine.execDrawReprojection draw tile s
  | .drawRasterise draw tile => Sys2Proof.Machine.execDrawRasterise draw tile s
  | .pixelGroupPlace draw tile => Sys2Proof.Machine.execPixelGroupPlace draw tile s
  | .blendApply draw tile => Sys2Proof.Machine.execBlendApply draw tile s
  | .drawDone draw => Sys2Proof.Machine.execDrawDone draw s
  | .dmbsel die k value => Sys2Proof.Machine.execDmbsel die k value s
  | .dmbrx die k rd => Sys2Proof.Machine.execDmbrx die k rd s
  | .dmbtx die k rd value => Sys2Proof.Machine.execDmbtx die k rd value s
  | .dmbclose die k => Sys2Proof.Machine.execDmbclose die k s
  | .dmbcnt die k rd => Sys2Proof.Machine.execDmbcnt die k rd s
  | .droneMailboxWaitRelease die k => Sys2Proof.Machine.execDroneMailboxWaitRelease die k s
  | .episodeRunaway die k => Sys2Proof.Machine.execEpisodeRunaway die k s
  | .episodeFaultStop die k why off => Sys2Proof.Machine.execEpisodeFaultStop die k why off s
  | .powerGood cxl => Sys2Proof.Machine.execPowerGood cxl s
  | .deviceReset => Sys2Proof.Machine.execDeviceReset s
  | .bienoWatchdogReset die => Sys2Proof.Machine.execBienoWatchdogReset die s
  | .thermalHalt die => Sys2Proof.Machine.execThermalHalt die s
  | .thermalThrottle die => Sys2Proof.Machine.execThermalThrottle die s
  | .powerCapClockStep up => Sys2Proof.Machine.execPowerCapClockStep up s
  | .linkPermitMismatch port retrained => Sys2Proof.Machine.execLinkPermitMismatch port retrained s
  | .droneInstruction die k => Sys2Proof.Machine.execDroneInstruction die k s
  | .jobCardOutputLanded op => Sys2Proof.Machine.execJobCardOutputLanded op s
  | .bienoRestart die => Sys2Proof.Machine.execBienoRestart die s
  | .thermalHoldEnd => Sys2Proof.Machine.execThermalHoldEnd s
  | .powerLoss => Sys2Proof.Machine.execPowerLoss s

end Sys2Proof.Machine
end

