-- ==== Sys2Proof/Machine/Moves.lean ====
section
/-!
DEFINITION. The moves the machine itself can make when nothing is queued (log 1), and what a step does before its move.
-/
namespace Sys2Proof.Machine

/-- The issues of R201: for each quadrant of a core that holds a group, the warp it picks. -/
def Dev.issueMoves (d : Dev) : List Move :=
  ((d.groups.map Group.core).eraseDups.flatMap (fun c =>
    (List.range 4).filterMap (fun q => (d.pickWarp c q).map (fun p => Move.issue p.1 p.2))))

/-- The arrivals of a warp that rest and may go on. -/
def Dev.restMoves (d : Dev) (x : Group) (wi : Nat) (w : Warp) : List Instr :=
  let arrs := (w.wait.filterMap (fun e => match e.2 with
    | .rest a _ => some a
    | _ => none)).eraseDups
  (arrs.filter (fun a => d.mayResume x w a)).map (fun a => .laneRestRelease x.id wi a)

/-- The sub-warps of a warp that the fault service has to serve: those that are parked, and those that rest for a segment. -/
def Warp.served (w : Warp) : List Nat :=
  (w.park.filterMap (fun e => e.2.map (·.arr)) ++ w.wait.filterMap (fun e => match e.2 with
    | .rest a (.segment ..) => some a
    | _ => none)).eraseDups

/-- The moves of warps and groups. -/
def Dev.groupMoves (d : Dev) : List Instr :=
  d.groups.flatMap (fun x =>
    [.groupResourceFree x.id, .preemptionDeadline x.id, .groupSaveWrite x.id, .saveOpsTimeout x.id]
      ++ (if x.stall.isSome then [.engineStallResolved x.id] else [])
      ++ x.numbered.flatMap (fun p =>
        [.sleepExpiry x.id p.1] ++ d.restMoves x p.1 p.2 ++ p.2.served.map (fun a => .faultServiceRewalk x.id p.1 a)))

/-- The moves of engine threads. -/
def Dev.opMoves (d : Dev) : List Instr :=
  d.ops.flatMap (fun o =>
    (match o.kind with
      | .copy .. => [.copyPieceLanded o.id]
      | .card .. => [.jobCardOutputLanded o.id, .jobCardDone o.id]
      | .coll .. => .collectiveDone o.id :: (List.range 48).map (fun r => .collectiveRankTimeout o.id r)
      | .mmac .. => [.mmacCommit o.id, .mmacFailure o.id]
      | .drain .. => [.mdrainDelivery o.id, .peerAdd o.id]
      | .resolve .. => [.resolveTileCoding o.id]
      | .deliver .. => [.mailboxDelivery o.id]
      | .arrive .. => [])
    ++ .killEngineTimeout o.id :: (if o.stall.isSome then [.engineStallResolved o.id] else []))

/-- The moves of draws that are not over. -/
def Dev.drawMoves (d : Dev) : List Instr :=
  (d.draws.filter (!·.over)).flatMap (fun r =>
    (List.range (screenTiles (d.slotOfDraw r))).flatMap (fun t =>
        [.drawReprojection r.id t, .drawRasterise r.id t, .pixelGroupPlace r.id t, .blendApply r.id t])
      ++ .drawDone r.id :: .killEngineTimeout r.id :: (if r.stall.isSome then [.engineStallResolved r.id] else []))

/-- The moves of queues, their distributors and the records that wait to be written. -/
def Dev.queueMoves (d : Dev) : List Instr :=
  (List.range 4).map (fun die => .placeGroup die)
    ++ d.queues.flatMap (fun e => [.launchRecordConsume e.1, .groupRestore e.1, .queueKillComplete e.1]
      ++ (match e.2.stall with | some (id, _) => [.engineStallResolved id] | none => []))
    ++ d.late.map (fun l => .engineStallResolved l.id)

/-- The moves of clusters. -/
def Dev.cluMoves (d : Dev) : List Instr :=
  (keysOf d.clus).flatMap (fun c =>
    [.worldSwitchComplete c, .revocationSaveTimeout c, .revocationComplete c, .clusterLayoutApply c]
      ++ (if d.calledFor c then [.revocationStart c] else []))

/-- The moves of drone cores. -/
def Dev.droneMoves (d : Dev) : List Instr :=
  (keysOf d.drones).flatMap (fun i => [.droneInstruction (i / 32) (i % 32), .droneMailboxWaitRelease (i / 32) (i % 32), .episodeRunaway (i / 32) (i % 32)])

/-- The moves of caches, of the collector, of watchpoints and of the Bienos. -/
def systemMoves (d : Dev) (m : Mgmt) : List Instr :=
  ((d.l1.filter (fun e => d.mayEvict (e.1 / 2 ^ 45) (e.1 % 2 ^ 45))).map (fun e => .l1Eviction (e.1 / 2 ^ 45) (e.1 % 2 ^ 45) false))
    ++ (d.owner.flatMap (fun e => [.l1Eviction 384 e.1 false, .l1Eviction 432 e.1 false]))
    ++ (List.range 4).map (fun die => .combCollectorMove die)
    ++ (if d.hits.isEmpty then [] else [.watchpointHit])
    ++ (if d.tlbinv.getLsbD 5 then [.tlbInvalidateDone] else [])
    ++ (if m.prep ≠ m.lgen then [.layoutFlip] else [])
    ++ (m.asked.flatMap (fun e => match e.2 with
      | some t => [.attest e.1, .stageImage e.1, .selectSlot e.1, .watchpointArm t e.1, .watchpointDisarm t e.1, .linkLogRead e.1]
      | none => []))

/-- The moves the machine can make by itself. -/
def State.moves (s : State) : List Move :=
  let d := s.dev
  d.issueMoves ++ (d.groupMoves ++ d.opMoves ++ d.drawMoves ++ d.queueMoves ++ d.cluMoves ++ d.droneMoves ++ systemMoves d s.mg).map Move.event

/-- The warps of a group that have a lane waiting on presence. -/
def Group.presenceWarps (x : Group) : Nat := (x.warps.filter (fun w => w.waiting (fun k => k.presence?.isSome) != 0)).length

/-- The cycles of sources 1 and 14 (R320) that pass in `n` cycles. -/
def Dev.countCycles (d : Dev) (n : Nat) : Dev :=
  let pairs := (d.groups.map (fun x => (x.die, x.vf))).eraseDups
  pairs.foldl (fun d p =>
    let xs := d.groups.filter (fun x => x.die == p.1 && x.vf == p.2)
    (d.count p.1 p.2 1 (n * (xs.map Group.core).eraseDups.length)).count p.1 p.2 14 (n * (xs.map Group.presenceWarps).foldl (· + ·) 0)) d

/-- Lanes that slept 16 cycles beyond their count resume (R87). -/
def Dev.wakeLate (d : Dev) : Dev :=
  { d with groups := d.groups.map (fun x => { x with warps := x.warps.map (fun w =>
      w.release (w.waiting (fun k => match k with
        | .sleep t => decide (t + 16 ≤ d.now)
        | _ => false))) }) }

/-- What is settled when a cycle ends: the overflows of its counters (R323), arrivals that rest no more, draws that are over. -/
def Dev.endCycle (d : Dev) : Dev := d.postOverflows.dropRested.dropDraws

/-- Some cycles pass: they are counted, and matrix operations run (R242, R320). -/
def Dev.elapse (d : Dev) (n : Nat) : Dev :=
  let d := d.countCycles n
  { d with now := d.now + n, cur := none, ops := d.ops.map (d.mmPass n) }

/-- A step's time passes (log 2): what is left of the last cycle is settled, lanes that have slept too long wake, the distributors
look at their queues, and each warp's readiness is noted. -/
def State.advance (s : State) : State :=
  { s with dev := (s.dev.endCycle.elapse (Config.elapsed s.tick)).wakeLate.watchQueues.noteReady, tick := s.tick + 1 }

/-- The moves whose time has come, and which the machine makes before any free one (log 1): a matrix operation that has run its
cycles commits (R242), and the deadlines of R202, R296, R316, R389 and R392. -/
def Dev.due (d : Dev) : List Instr :=
  if d.halted || !d.power then [] else
  (d.ops.filter Op.mmOver).map (fun o => .mmacCommit o.id)
    ++ (d.groups.filter d.deadlineDue).map (fun x => .preemptionDeadline x.id)
    ++ (d.groups.filter d.saveLate).map (fun x => .saveOpsTimeout x.id)
    ++ ((keysOf d.clus).filter d.revokeDue).map (fun c => .revocationSaveTimeout c)
    ++ (d.ops.filter (fun o => d.killLong o.src.queue)).map (fun o => .killEngineTimeout o.id)
    ++ (d.draws.filter (fun r => d.killLong r.queue && !r.over)).map (fun r => .killEngineTimeout r.id)
    ++ ((keysOf d.drones).filter d.runsAway).map (fun i => .episodeRunaway (i / 32) (i % 32))

/-- The move of a step: the head of the agenda, one that is due, or a free choice among the machine's own (log 1). -/
def State.nextMove (s : State) : Option Move × State :=
  match s.agenda, s.dev.due with
  | m :: rest, _ => (some m, { s with agenda := rest })
  | [], i :: _ => (some (.event i), s)
  | [], [] =>
    let ms := s.moves
    (ms[Config.pick s.tick % ms.length]?, s)

/-- What still answers a part without power or a halted one (R336, R400). -/
def Dev.admits (d : Dev) (i : Instr) : Bool :=
  match i with
  | .powerGood _ => true
  | .powerLoss | .attest _ | .stageImage _ | .selectSlot _ | .watchpointArm _ _ | .watchpointDisarm _ _ | .linkLogRead _
  | .hostMemoryRead .. | .hostMemoryWrite .. | .registerWindowWrite _ _ _ | .bienoRestart _ | .bienoWatchdogReset _ => d.power
  | _ => d.power && !d.halted

end Sys2Proof.Machine
end

