-- ==== Sys2Proof/Machine/Step.lean ====
section
/-!
DEFINITION. One step of the machine: its time passes, one move is taken, and the instruction of that move is run.
-/
namespace Sys2Proof.Machine

/-- Run the instruction that a warp has begun, if there is one and the part still answers. -/
def runFetched (s : State) : Dev × Option Instr → Host.Outcome State Fault Refusal
  | (d, some i) => if d.admits i then exec i { s with dev := d } else .next s
  | (d, none) => .next { s with dev := d }

/-- Make a move: an event runs as it is, an issue the word that it fetches, a rest that ends the word that was issued. -/
def runMove (m : Move) (s : State) : Host.Outcome State Fault Refusal :=
  match m with
  | .event i => if s.dev.admits i then exec i s else .next s
  | .issue g w => runFetched s (s.dev.issue g w)
  | .resume arr => runFetched s (s.dev.resume arr)

/-- One step. -/
def step (s : State) : Host.Outcome State Fault Refusal :=
  match s.advance.nextMove with
  | (some m, s) => runMove m s
  | (none, s) => .next s

/-- The word of an opcode-table row stored where the next step fetches (log 9): the bits above `nbits` are 0. -/
def State.withFetchWord (s : State) (nbits w : Nat) : State := loadFixture s (BitVec.ofNat 64 (w % 2 ^ nbits))

end Sys2Proof.Machine
end

