-- ==== Sys2Proof/Safety.lean ====
section
/-!
DEFINITION. The terms in which the statements speak: what a safe run is, when an issue is clear to run, and what an
instruction on registers writes and leaves alone. No trap, kill or halt of the spec stops the machine.
-/
namespace Sys2Proof
open Machine

/-- A step that answers a next state. -/
def Safe (s : State) : Prop := ∃ t, step s = .next t

/-- The states reached from a state by `n` steps, each of which answers. -/
def Reaches (s : State) : Nat → State → Prop
  | 0, t => t = s
  | n + 1, t => ∃ u, Reaches s n u ∧ step u = .next t

/-! ### Integers of a type (R10, R111) -/

/-- The value of the low bits of an integer as the integer type reads them. -/
def wrapInt (t : Ty) (r : Int) : Int :=
  if t.signed then (r + 2 ^ (t.width - 1)) % 2 ^ t.width - 2 ^ (t.width - 1) else r % 2 ^ t.width

/-- The least and the greatest value of an integer type. -/
def leastInt (t : Ty) : Int := if t.signed then -(2 ^ (t.width - 1)) else 0
def greatestInt (t : Ty) : Int := if t.signed then 2 ^ (t.width - 1) - 1 else 2 ^ t.width - 1

/-- An exact result as an integer type holds it: clamped under `.sat`, wrapped otherwise (R111). -/
def fitInt (t : Ty) (sat : Bool) (r : Int) : Int :=
  if sat then (if r < leastInt t then leastInt t else if r > greatestInt t then greatestInt t else r) else wrapInt t r

/-! ### An issue that is clear to run -/

/-- The issue at hand is `x`, the first of its word and no end of a rest (R60), no register word is uncorrectable, and every register
that the instruction uses is allocated (R344 step 1, R370). -/
structure Clear (s : State) (x : Ix) (us : List Use) : Prop where
  ix : s.dev.ix = some x
  first : x.arr = 0
  good : s.dev.badReg = []
  alloc : allocFault x.x.lr us [] = none

/-! ### What an instruction on registers writes -/

/-- A destination of a type holds a 64-bit image in a lane (R62, R63): the pair, the low word, the scalar register, or
bit 0 in a predicate. -/
def Holds (w : Warp) (t : Ty) (o : Opnd) (L : Nat) (img : DWord) : Prop :=
  match o with
  | .v n => if t.is64 then w.readPair n.toNat L = img else w.readV n.toNat L = img.setWidth 32
  | .s n => w.readS n.toNat = img
  | .p n => (look 0 w.p n.toNat).getLsbD L = img.getLsbD 0
  | _ => True

/-- Whether a use names vector register n. -/
def useHasV (u : Use) (n : Nat) : Bool :=
  match u.1 with
  | .v k => decide (k.toNat ≤ n ∧ n < k.toNat + u.2)
  | _ => false

/-- Whether a use names scalar register n. -/
def useHasS (u : Use) (n : Nat) : Bool :=
  match u.1 with
  | .s k => k.toNat == n
  | _ => false

/-- Whether a use names predicate n. -/
def useHasP (u : Use) (n : Nat) : Bool :=
  match u.1 with
  | .p k => k.toNat == n
  | _ => false

/-- The registers of a warp but the destination in the lanes `e` are as before: every vector register in the live
lanes, every scalar register, every predicate; and masks, result registers, handler state, saved counters and causes,
the generator's key, barrier tokens, waits, parks, fragments and what its lanes have met (R28). The generator's counters have advanced by one in
the lanes `drew` (R100). -/
structure KeptRegs (w w' : Warp) (d : Use) (e drew : LaneSet) : Prop where
  vec : ∀ n L, w.live.getLsbD L = true → (useHasV d n = false ∨ e.getLsbD L = false) → w'.readV n L = w.readV n L
  sca : ∀ n, useHasS d n = false → w'.readS n = w.readS n
  pred : ∀ n L, L < 32 → (useHasP d n = false ∨ e.getLsbD L = false) → (look 0 w'.p n).getLsbD L = (look 0 w.p n).getLsbD L
  rng : ∀ L, L < 32 → look 0 w'.rngctr L = look 0 w.rngctr L + (if drew.getLsbD L then 1 else 0)
  rest : { w' with pc := w.pc, v := w.v, prop := w.prop, s := w.s, p := w.p, rngctr := w.rngctr } = w

/-- The issuing lanes stand at the next word and every other lane where it stood (R70). -/
def Stepped (x : Ix) (w' : Warp) : Prop :=
  ∀ L, L < 32 → w'.pcOf L = if x.iss.getLsbD L then x.w.pcOf L + 8 else x.w.pcOf L

/-- A warp but for what its lanes have met (R184): as another has met it. -/
def MetAs (w w' : Warp) : Warp := { w' with view := w.view, met := w.met }

/-- Nothing but the issuing warp and the event counters has changed: every byte of memory, hive memory and scratchpad,
every other warp and group, every queue, engine and register of the device, and the management side. -/
structure KeptElse (s t : State) (x : Ix) : Prop where
  state : { t with dev := s.dev } = s
  dev : { t.dev with groups := s.dev.groups, evcnt := s.dev.evcnt, evovf := s.dev.evovf, ovfs := s.dev.ovfs } = s.dev
  groups : ∀ g, g ≠ x.g → t.dev.group? g = s.dev.group? g
  group : (t.dev.group? x.g).map (fun y => { y with warps := x.x.warps }) = some x.x
  warps : ∀ wi, wi ≠ x.wi → t.dev.warp? x.g wi = s.dev.warp? x.g wi

/-- An instruction that acts on its own warp alone completes, and the warp is then as `P` says. -/
def OnWarp (s : State) (i : Instr) (x : Ix) (P : Warp → Prop) : Prop :=
  ∃ u w', exec i s = .next u ∧ u.dev.warp? x.g x.wi = some w' ∧ KeptElse s u x ∧ P w'

/-- An instruction on registers completes: it answers a next state in which the destination holds the image of each lane
that executes, and the issuing lanes have stepped. -/
def Writes (s : State) (i : Instr) (x : Ix) (o : OpW) (t : Ty) (img : Nat → DWord) : Prop :=
  ∃ u w', exec i s = .next u ∧ u.dev.warp? x.g x.wi = some w' ∧ Stepped x w' ∧
    ∀ L, (x.guard o).getLsbD L = true → Holds w' t o.d L (img L)

/-- An instruction on registers changes its destination in the lanes that execute and the counters, and nothing else. -/
def WritesOnly (s : State) (i : Instr) (x : Ix) (o : OpW) (t : Ty) (drew : LaneSet) : Prop :=
  ∃ u w', exec i s = .next u ∧ u.dev.warp? x.g x.wi = some w' ∧ KeptRegs x.w w' (useAt t o.d) (x.guard o) drew ∧ KeptElse s u x

end Sys2Proof
end

