-- ==== Sys2Proof/Certificates/Slice0/Obligations.lean ====
section
/-!
DEFINITION. The statements for the provers, with the tables in which the rules of the spec stand beside the instructions.
-/
namespace Sys2Proof
open Machine

/-! ### Instructions on registers -/

/-- What the rules say of an instruction on registers: its word, the type of its destination, the sources it reads, when
the rules give it a shape U or A (R65), whether a lane raises no fault of the instruction's own, the 64-bit image of the
result in each lane for the lanes that execute, whether each of these draws from the generator, and whether it may meet the writes of
other threads (R190). -/
structure RegSem where
  i : Instr
  o : OpW
  t : Ty
  srcs : List Use
  plain : Ix → Bool
  fine : Ix → Nat → Bool := fun _ _ => true
  img : Ix → LaneSet → Nat → DWord
  draws : Bool := false
  joins : Bool := false

/-- The state and operands under which an instruction on registers completes: it is well formed, its registers are
allocated and sound, no executing lane meets a fault of its own, and a compact destination is written whole and in shape
U or A (R66, R68, R344). -/
structure RegSem.Ready (r : RegSem) (s : State) (x : Ix) : Prop where
  wf : r.i.wellFormed = true
  clear : Clear s x (useAt r.t r.o.d :: r.srcs)
  fine : ∀ L, (x.guard r.o).getLsbD L = true → r.fine x L = true
  roomy : x.x.lr.isCompact (useAt r.t r.o.d) = true → x.guard r.o = 0 ∨ x.guard r.o = x.w.live ∧ r.plain x = true

/-- The instruction completes, and each lane that executes holds its image. -/
def RegSem.Completes (r : RegSem) : Prop :=
  ∀ s x, r.Ready s x → Writes s r.i x r.o r.t (r.img x (x.guard r.o))

/-- The instruction changes nothing but its destination in the lanes that execute, the program counters, the event
counters, the draws it makes, and, if it joins other threads, what its lanes have met. -/
def RegSem.Frame (r : RegSem) : Prop :=
  ∀ s x, r.Ready s x →
    if r.joins then ∃ u w', exec r.i s = .next u ∧ u.dev.warp? x.g x.wi = some w' ∧ KeptElse s u x
      ∧ KeptRegs x.w (MetAs x.w w') (useAt r.t r.o.d) (x.guard r.o) 0
    else WritesOnly s r.i x r.o r.t (if r.draws then x.guard r.o else 0)

/-- An operand at the type of its word, in a lane. -/
def opVal (o : OpW) (f : Opnd) (x : Ix) (L : Nat) : DWord := x.val o o.ty f L
/-- The integer an operand reads as at the type of its word. -/
def opInt (o : OpW) (f : Opnd) (x : Ix) (L : Nat) : Int := tyInt o.ty (opVal o f x L)
/-- An f32 operand. -/
def opF32 (o : OpW) (f : Opnd) (x : Ix) (L : Nat) : Word := (x.val o .f32 f L).setWidth 32
/-- A source at the type of its word. -/
def opUse (o : OpW) (f : Opnd) : Use := useAt o.ty f

/-- The last row of R65: U when every source is U. -/
def plainAll (srcs : List Use) (x : Ix) : Bool := x.shapeAll srcs == .u

/-- A result that is a function of some sources. -/
def semOf (i : Instr) (o : OpW) (t : Ty) (srcs : List Use) (img : Ix → Nat → DWord) : RegSem :=
  { i := i, o := o, t := t, srcs := srcs, plain := plainAll srcs, img := fun x _ L => img x L }

/-- A result that is an exact integer, as its type holds it, of two sources (R111, R113). -/
def semInt2 (i : Instr) (o : OpW) (sat : Bool) (f : Int → Int → Int) : RegSem :=
  semOf i o o.ty [opUse o o.a, opUse o o.b] (fun x L => BitVec.ofInt 64 (fitInt o.ty sat (f (opInt o o.a x L) (opInt o o.b x L))))
/-- The same of one source. -/
def semInt1 (i : Instr) (o : OpW) (sat : Bool) (f : Int → Int) : RegSem :=
  semOf i o o.ty [opUse o o.a] (fun x L => BitVec.ofInt 64 (fitInt o.ty sat (f (opInt o o.a x L))))
/-- `add`, `sub` and `mul`, whose results keep the affine shapes of R65. -/
def semAff (i : Instr) (o : OpW) (sh : Ix → Shape → Shape) (f : Int → Int → Int) : RegSem :=
  { semInt2 i o o.sat f with plain := fun x => sh x (x.shapeAll [opUse o o.a, opUse o o.b]) != .g }
/-- Bits of two sources, one source, or a source and counts. -/
def semBits2 (i : Instr) (o : OpW) (f : DWord → DWord → DWord) : RegSem :=
  semOf i o o.ty [opUse o o.a, opUse o o.b] (fun x L => tyImage o.ty (f (opVal o o.a x L) (opVal o o.b x L)))
def semBits1 (i : Instr) (o : OpW) (f : DWord → DWord) : RegSem :=
  semOf i o o.ty [opUse o o.a] (fun x L => tyImage o.ty (f (opVal o o.a x L)))
def semShift (i : Instr) (o : OpW) (f : DWord → Nat → DWord) : RegSem :=
  semOf i o o.ty [opUse o o.a, (o.b, 1)] (fun x L => tyImage o.ty (f (opVal o o.a x L) (x.cnt o o.b L)))

/-- The signed value of the low bits of a source, whatever the signedness of the type (R116). -/
def signedBits (t : Ty) (a : DWord) : Int := if a.getLsbD (t.width - 1) then (a.toNat : Int) - 2 ^ t.width else a.toNat

/-- Row 1's arithmetic (R113). -/
def semsArith (f : FWord) (l : LWord) : List RegSem :=
  let o := fop f
  let p := lop l
  [ semAff (.add f) o (sumShape false o) (· + ·), semAff (.addL l) p (sumShape false p) (· + ·),
    semAff (.sub f) o (sumShape true o) (· - ·), semAff (.subL l) p (sumShape true p) (· - ·),
    semAff (.mul f) o (mulShape o) (· * ·), semAff (.mulL l) p (mulShape p) (· * ·),
    semInt2 (.mulh f) o false (fun a b => a * b / 2 ^ f.ty.width),
    semInt2 (.min f) o false min, semInt2 (.minL l) p false min, semInt2 (.max f) o false max, semInt2 (.maxL l) p false max,
    semInt1 (.abs f) o o.sat (fun a => if a < 0 then -a else a), semInt1 (.neg f) o o.sat (fun a => -a),
    semOf (.mad f) o f.ty [opUse o o.a, opUse o o.b, opUse o o.c]
      (fun x L => BitVec.ofInt 64 (fitInt f.ty o.sat (opInt o o.a x L * opInt o o.b x L + opInt o o.c x L))) ]

/-- Division toward zero where the divisor is not zero (R114). -/
def semsDiv (f : FWord) : List RegSem :=
  let o := fop f
  [ { semInt2 (.div f) o o.sat Int.tdiv with fine := fun x L => opInt o o.b x L != 0 },
    { semInt2 (.rem f) o false Int.tmod with fine := fun x L => opInt o o.b x L != 0 } ]

/-- The logic instructions, on registers and on predicates (R115). -/
def semsLogic (f : FWord) (l : LWord) : List RegSem :=
  let o := fop f
  let p := lop l
  [ semBits2 (.and f) o (· &&& ·), semBits2 (.andL l) p (· &&& ·), semBits2 (.or f) o (· ||| ·), semBits2 (.orL l) p (· ||| ·),
    semBits2 (.xor f) o (· ^^^ ·), semBits2 (.xorL l) p (· ^^^ ·), semBits1 (.not f) o (~~~ ·),
    semBits2 (.andn f) o (fun a b => a &&& ~~~b), semBits2 (.andnL l) p (fun a b => a &&& ~~~b) ]

/-- Shifts, counts and bit fields (R116 to R118). -/
def semsShift (f : FWord) : List RegSem :=
  let o := fop f
  let w := f.ty.width
  [ semShift (.shl f) o (fun a n => if n < w then a <<< n else 0), semShift (.shr f) o (fun a n => if n < w then a >>> n else 0),
    semShift (.sar f) o (fun a n => BitVec.ofInt 64 (signedBits f.ty a / 2 ^ min n w)),
    semShift (.rot f) o (fun a n => a <<< (n % w) ||| a >>> (w - n % w)),
    semBits1 (.clz f) o (fun a => BitVec.ofNat 64 (if a = 0 then w else w - 1 - Nat.log2 a.toNat)),
    semBits1 (.popc f) o popcBits, semBits1 (.brev f) o (brevBits f.ty),
    semOf (.bfe f) o f.ty [opUse o o.a, (o.b, 1), (o.c, 1)]
      (fun x L => tyImage f.ty (bfeBits f.ty (opVal o o.a x L) (x.cnt o o.b L) (x.cnt o o.c L))),
    semOf (.bfi f) o f.ty [opUse o o.d, opUse o o.a, (o.b, 1), (o.c, 1)]
      (fun x L => tyImage f.ty (bfiBits f.ty (opVal o o.d x L) (opVal o o.a x L) (x.cnt o o.b L) (x.cnt o o.c L))) ]

/-- A comparison code on two integers (R119). -/
def ccHolds (cc : Nat) (a b : Int) : Bool :=
  match cc with
  | 0 => a == b
  | 1 => a != b
  | 2 => decide (a < b)
  | 3 => decide (a ≥ b)
  | 4 => decide (a > b)
  | _ => decide (a ≤ b)

/-- A comparison into a predicate. -/
def semCmp (i : Instr) (o : OpW) : RegSem :=
  { semOf i o .n32 [opUse o o.a, opUse o o.b] (fun x L => ofBool (ccHolds o.sub (opInt o o.a x L) (opInt o o.b x L))) with plain := fun _ => false }

/-- The index of `lea` (R120). -/
def leaIndex (o : OpW) (x : Ix) (L : Nat) : DWord :=
  let b := (x.val o .n32 o.b L).setWidth 32
  if o.sub / 4 % 2 = 1 then b.signExtend 64 else b.setWidth 64

/-- The type of the result of `sext` and `zext` (R121). -/
def extTy (f : FWord) : Ty := if f.ty.width = 32 || f.d.kind == .s then (if f.ty.signed then .i64 else .n64) else f.ty

/-- Comparison, selection, addresses and extension (R119 to R121). -/
def semsSelect (f : FWord) (l : LWord) : List RegSem :=
  let o := fop f
  let p := lop l
  [ semCmp (.cmp f) o, semCmp (.cmpL l) p,
    semOf (.sel f) o f.ty [opUse o o.a, opUse o o.b, (o.c, 1)]
      (fun x L => tyImage f.ty (if x.val o .n32 o.c L = 1 then opVal o o.a x L else opVal o o.b x L)),
    semOf (.lea f) o f.ty [opUse o o.a, (o.b, 1), opUse o o.c]
      (fun x L => tyImage f.ty (opVal o o.a x L + (leaIndex o x L <<< (o.sub % 4)) + opVal o o.c x L)),
    semOf (.leaL l) p l.ty [opUse p p.a, (p.b, 1)] (fun x L => tyImage l.ty (opVal p p.a x L + (leaIndex p x L <<< (p.sub % 4)))),
    semOf (.sext f) o (extTy f) [opUse o o.a] (fun x L => BitVec.ofInt 64 (opInt o o.a x L)),
    semOf (.zext f) o (extTy f) [opUse o o.a] (fun x L => BitVec.ofInt 64 (opInt o o.a x L)) ]

/-- The lanes of a set whose predicate operand holds. -/
def trueLanes (o : OpW) (x : Ix) (e : LaneSet) : List Nat := (lanesOf e).filter (fun L => x.val o .n32 o.a L == 1)

/-- Moves, votes, broadcasts, shuffles and scans (R122 to R126, R129), and `mget` (R80). -/
def semsLane (f : FWord) (l : LWord) : List RegSem :=
  let o := fop f
  let p := lop l
  [ { semBits1 (.mov f) o id with plain := fun x => movShape x o != .g },
    { semOf (.li f) o f.ty [] (fun x L => tyImage f.ty (opVal o f.a x L)) with plain := fun _ => true },
    { semOf (.liL l) p l.ty [] (fun x L => tyImage l.ty (opVal p .imm x L)) with plain := fun _ => true },
    { semOf (.shfl f) o f.ty [(o.b, 1), opUse o o.a] (fun x L => tyImage f.ty (opVal o o.a x (shflSrc (o.sub % 4) (x.cnt o o.b L) L)))
      with plain := plainAll [opUse o o.a, (o.b, 1)] },
    { i := .vote f, o := o, t := .n32, srcs := [(o.a, 1)], plain := fun _ => true
      img := fun x e _ => match o.sub % 4 with
        | 0 => ofBool (trueLanes o x e == lanesOf e)
        | 1 => ofBool (trueLanes o x e != [])
        | 2 => (setOf (trueLanes o x e)).setWidth 64
        | _ => ofBool (trueLanes o x e == [] || trueLanes o x e == lanesOf e) },
    { semOf (.bcst f) o f.ty [(o.b, 1), opUse o o.a] (fun x _ => tyImage f.ty (opVal o o.a x (x.cnt o o.b 0 % 32))) with plain := fun _ => true },
    { i := .scan f, o := o, t := f.ty, srcs := [opUse o o.a], plain := fun _ => false
      img := fun x e L => tyImage f.ty (foldFirst (combine (o.sub % 8) f.ty) (startValue (o.sub % 8) f.ty)
        (((lanesOf e).filter (fun j => if o.sub / 8 = 1 then decide (j < L) else decide (j ≤ L))).map (opVal o o.a x))) },
    { i := .elect f, o := o, t := .n32, srcs := [], plain := fun _ => false, img := fun _ e L => ofBool (L == lowest e) },
    { i := .vshp f, o := o, t := .n32, srcs := [(o.a, 1)], plain := fun _ => true
      img := fun x _ _ => match o.a with
        | .v n => (match x.w.shapeV n.toNat with
          | .u => 0
          | .a _ _ => 1
          | .g => 2)
        | _ => 0 },
    { i := .mget f, o := o, t := .n32, srcs := [(o.a, 1)], plain := fun _ => true
      img := fun x _ L =>
        let m := look 0 x.w.m (Opnd.maskNo o.a)
        if o.d.kind == .p then ofBool (m.getLsbD L) else m.setWidth 64 } ]

/-- An f32 result of one, two or three f32 sources. -/
def semF1 (i : Instr) (o : OpW) (f : Word → Word) : RegSem := semOf i o .f32 [(o.a, 1)] (fun x L => (f (opF32 o o.a x L)).setWidth 64)
def semF2 (i : Instr) (o : OpW) (f : Word → Word → Word) : RegSem :=
  semOf i o .f32 [(o.a, 1), (o.b, 1)] (fun x L => (f (opF32 o o.a x L) (opF32 o o.b x L)).setWidth 64)
/-- A float comparison into a predicate (R137). -/
def semFcmp (i : Instr) (o : OpW) : RegSem :=
  { semOf i o .n32 [(o.a, 1), (o.b, 1)] (fun x L => ofBool (cmpF32 (o.sub % 8) (opF32 o o.a x L) (opF32 o o.b x L))) with plain := fun _ => false }

/-- Row 3's arithmetic and comparison (R134 to R138). -/
def semsFloat (f : FWord) (l : LWord) : List RegSem :=
  let o := fop f
  let p := lop l
  [ semF2 (.fadd f) o (fAdd o.rm), semF2 (.faddL l) p (fAdd p.rm), semF2 (.fsub f) o (fSub o.rm), semF2 (.fsubL l) p (fSub p.rm),
    semF2 (.fmul f) o (fMul o.rm), semF2 (.fmulL l) p (fMul p.rm),
    semOf (.ffma f) o .f32 [(o.a, 1), (o.b, 1), (o.c, 1)] (fun x L => (fFma o.rm (opF32 o o.a x L) (opF32 o o.b x L) (opF32 o o.c x L)).setWidth 64),
    semF2 (.fdiv f) o (fDiv o.rm), semF1 (.fsqrt f) o (fSqrt o.rm), semF1 (.frcp f) o fRcp, semF1 (.frsq f) o fRsq,
    semF1 (.fexp2 f) o fExp2, semF1 (.flog2 f) o fLog2, semF1 (.fsinpi f) o fSinpi, semF1 (.fcospi f) o fCospi,
    semF2 (.fmin f) o fMin, semF2 (.fminL l) p fMin, semF2 (.fmax f) o fMax, semF2 (.fmaxL l) p fMax,
    semFcmp (.fcmp f) o, semFcmp (.fcmpL l) p, semF1 (.frnd f) o (fRnd o.rm),
    semOf (.fclass f) o .n32 [(o.a, 1)] (fun x L => BitVec.ofNat 64 (2 ^ fClass f.ty.fmt (x.val o f.ty o.a L).toNat)) ]

/-- A conversion, which draws under `.sr` (R99, R100). -/
def semConv (i : Instr) (o : OpW) (t : Ty) (srcs : List Use) (rm : Rm) (img : Ix → Nat → Nat → DWord) : RegSem :=
  { i := i, o := o, t := t, srcs := srcs, plain := fun x => rm != .sr && plainAll srcs x, img := fun x _ L => img x L (x.w.rng L),
    draws := rm == .sr }

/-- Conversions, blocks, dot products and the generator (R139 to R148). -/
def semsConv (f : FWord) : List RegSem :=
  let o := fop f
  let src := Ty.ofCode (BitVec.ofNat 4 o.sub)
  [ semConv (.fcvt f) o f.ty [(o.a, 1)] (Rm.ofCode (o.immBits 0 3)) (fun x L r =>
      tyImage f.ty (BitVec.ofNat 64 (fCvt f.ty src (Rm.ofCode (o.immBits 0 3)) r (x.val o src o.a L).toNat))),
    semConv (.f2i f) o f.ty [(o.a, 1)] o.rm (fun x L r =>
      tyImage f.ty (BitVec.ofInt 64 (roundInt o.rm r (leastInt f.ty) (greatestInt f.ty) (f32 (opF32 o o.a x L))))),
    semConv (.i2f f) o .f32 [opUse o o.a] o.rm (fun x L r => (i2f o.rm r (opInt o o.a x L)).setWidth 64),
    { semOf (.bexp f) o .f32 [(o.a, 1), (o.b, 1)] (fun x L => (toF32 .rne
        ((x.hdr o o.a L).value ((x.val o .n32 o.b L).toNat % 2 ^ blkWidth (x.hdr o o.a L).fmt))).setWidth 64)
      with fine := fun x L => !(x.hdr o o.a L).malformed },
    { semConv (.bpack f) o .n32 [(o.a, 1), (o.b, 1)] o.rm (fun x L r =>
        let h := x.hdr o o.b L
        tyImage .n32 (if h.fmt = 0 ∨ h.scale = 255 then 0
          else BitVec.ofNat 64 (blkRound h.fmt h.aux o.rm r ((f32 (opF32 o o.a x L)).scale (127 - (h.scale : Int))))))
      with fine := fun x L => !(x.hdr o o.b L).malformed },
    { i := .bscl f, o := o, t := .n32, srcs := [(o.a, 1)], plain := fun _ => true
      img := fun x e _ => match maxLog ((lanesOf e).map (fun L => f32 (opF32 o o.a x L))) with
        | none => 127
        | some k => BitVec.ofInt 64 (max 0 (min 254 (k - blkEmax o.sub + 127))) },
    semOf (.bhdr f) o .n32 [(o.a, 1), (o.b, 1)] (fun x L => BitVec.ofNat 64
      ((if o.sub = 0 then 0 else (x.val o .n32 o.a L).toNat % 256) * 256 + o.sub * 16 + (if o.sub = 6 then (x.val o .n32 o.b L).toNat % 16 else 0))),
    semOf (.ndot f) o (if f.ty.isInt then .i32 else .f32) [(o.a, 1), (o.b, 1), (o.c, 1)] (fun x L =>
      let a := (x.val o .n32 o.a L).toNat
      let b := (x.val o .n32 o.b L).toNat
      let c := x.val o .i32 o.c L
      if f.ty.isInt then
        BitVec.ofInt 64 (wrapInt .i32 (((List.range (32 / f.ty.width)).map (fun i =>
          tyInt f.ty (packed f.ty a i) * tyInt f.ty (packed f.ty b i))).foldl (· + ·) (tyInt .i32 c)))
      else (toF32 .rne (dotVal f.ty a b (f32 (c.setWidth 32)))).setWidth 64),
    { i := .rnd f, o := o, t := .n32, srcs := [], plain := fun _ => false, draws := true
      img := fun x _ L => if f.ty == .f32 then (uniform (x.w.rng L)).setWidth 64 else tyImage .n32 (BitVec.ofNat 64 (x.w.rng L)) },
    { semOf (.pchk f) o .n32 [(o.a, 1), (o.b, 1)]
        (fun x L => ofBool (look Line.fresh x.x.lines (x.sum o (o.sub % 4) o.imm L / 128)).present)
      with fine := fun x L => decide (x.sum o (o.sub % 4) o.imm L < 2 ^ 21 ∧ x.sum o (o.sub % 4) o.imm L < x.x.lr.window)
           plain := fun _ => false, joins := true } ]

/-- Every instruction on registers of the tables above. -/
def regSems (f : FWord) (l : LWord) : List RegSem :=
  semsArith f l ++ semsDiv f ++ semsLogic f l ++ semsShift f ++ semsSelect f l ++ semsLane f l ++ semsFloat f l ++ semsConv f

/-! ### Row 0 -/

/-- An address `n` instruction words from an issue's own (R76). -/
def offsetTo (n : Int) (x : Ix) : Addr := BitVec.ofInt 56 (x.pc.toNat + 8 * n)

/-- The counters after a branch: the lanes of a set stand at their targets, the other issuing lanes at the next word. -/
def Jumped (x : Ix) (w' : Warp) (go : Nat → Bool) (goal : Nat → Addr) : Prop :=
  ∀ L, L < 32 → w'.pcOf L = if go L then goal L else if x.iss.getLsbD L then x.w.pcOf L + 8 else x.w.pcOf L

/-- What the rules say of a branch (R77): when an executing lane is taken, to where, and whether the target must be a
multiple of 8 (R79). -/
structure BranchSem where
  i : Instr
  o : OpW
  srcs : List Use
  taken : Ix → Nat → Bool := fun _ _ => true
  target : Ix → Nat → Addr
  indirect : Bool := false

/-- The branches (R77, R78, R79). -/
def semsBranch (f : FWord) (l : LWord) : List BranchSem :=
  let o := fop f
  let p := lop l
  let cond := fun (o : OpW) (x : Ix) (L : Nat) =>
    if o.ty == .f32 then cmpF32 o.sub (opF32 o o.a x L) 0 else ccHolds o.sub (opInt o o.a x L) 0
  [ { i := .bra f, o := o, srcs := [], target := fun x _ => offsetTo f.imm.toInt x },
    { i := .braL l, o := p, srcs := [], target := fun x _ => offsetTo l.imm.toInt x },
    { i := .brc f, o := o, srcs := [opUse o o.a], taken := cond o, target := fun x _ => offsetTo f.imm.toInt x },
    { i := .brcL l, o := p, srcs := [opUse p p.a], taken := cond p, target := fun x _ => offsetTo l.imm.toInt x },
    { i := .brx f, o := o, srcs := [useAt .n64 o.a], target := fun x L => (x.val o .n64 o.a L).setWidth 56, indirect := true },
    { i := .ret f, o := o, srcs := [useAt .n64 o.a], target := fun x L => (x.val o .n64 o.a L).setWidth 56, indirect := true } ]

/-- `bra`, `brc`, `brx` and `ret` complete: taken lanes stand at their targets, and nothing but counters changes. -/
def BranchesTaken : Prop :=
  ∀ f l, ∀ r ∈ semsBranch f l, ∀ s x, r.i.wellFormed = true → Clear s x r.srcs →
    (r.indirect = true → ∀ L, (x.guard r.o).getLsbD L = true → (r.target x L).toNat % 8 = 0) →
    OnWarp s r.i x (fun w' => Jumped x w' (fun L => (x.guard r.o).getLsbD L && r.taken x L) (r.target x) ∧ { w' with pc := x.w.pc } = x.w)

/-- `call` completes: every executing lane stands at the target and holds the address of the next word in the pair d (R77, R79). -/
def CallsTaken : Prop :=
  ∀ (f : FWord) (l : LWord), ∀ r ∈ [(Instr.call f, fop f, f.imm.toInt), (.callL l, lop l, l.imm.toInt)], ∀ s x,
    r.1.wellFormed = true → Clear s x [useAt .n64 r.2.1.d] →
    (x.x.lr.isCompact (useAt .n64 r.2.1.d) = true → x.guard r.2.1 = 0 ∨ x.guard r.2.1 = x.w.live) →
    OnWarp s r.1 x (fun w' => Jumped x w' (x.guard r.2.1).getLsbD (fun _ => offsetTo r.2.2 x)
      ∧ (∀ L, (x.guard r.2.1).getLsbD L = true → Holds w' .n64 r.2.1.d L ((x.pc + 8).setWidth 64))
      ∧ KeptRegs x.w w' (useAt .n64 r.2.1.d) (x.guard r.2.1) 0)

/-- Whether no lane of the warp rests at a `qget` (R360). -/
def NoQget (w : Warp) : Prop := ∀ L a q e, look Wait.none w.wait L ≠ .rest a (.qget q e)

/-- The executing lanes of a warp have ended (R89): they are not live, stand at 0 and lie in no mask; the registers are as before. -/
def Ended (x : Ix) (w' : Warp) (e : LaneSet) : Prop :=
  w'.live = x.w.live &&& ~~~e
  ∧ (∀ L, e.getLsbD L = true → w'.pcOf L = 0 ∧ w'.handler.getLsbD L = false ∧ w'.bank.getLsbD L = false
      ∧ ∀ m, (look 0 w'.m m).getLsbD L = false)
  ∧ w'.v = x.w.v ∧ w'.s = x.w.s ∧ w'.p = x.w.p ∧ w'.q = x.w.q

/-- `exit` completes: the executing lanes end, and no byte of memory changes (R89). -/
def ExitEnds : Prop :=
  ∀ f s x, (Instr.exit f).wellFormed = true → Clear s x [] → NoQget x.w →
    ∃ u w', exec (.exit f) s = .next u ∧ u.dev.warp? x.g x.wi = some w' ∧ Ended x w' (x.guard (fop f))
      ∧ u.dev.mem = s.dev.mem ∧ u.mg = s.mg

/-- `tail` completes where it need not wait for a tracker entry: the executing lanes end, and the group is tailed and
holds an entry if it held one or had operations outstanding (R91). -/
def TailEnds : Prop :=
  ∀ f s x, (Instr.tail f).wellFormed = true → Clear s x [] → NoQget x.w → x.guard (fop f) ≠ 0 →
    (s.dev.outstanding x.g = true → x.x.tracker = false → (s.dev.groups.filter (fun y => y.core == x.x.core && y.tracker)).length < 16) →
    ∃ u w' y', exec (.tail f) s = .next u ∧ u.dev.warp? x.g x.wi = some w' ∧ u.dev.group? x.g = some y' ∧ Ended x w' (x.guard (fop f))
      ∧ y'.tailed = true ∧ y'.tracker = (x.x.tracker || s.dev.outstanding x.g) ∧ u.dev.mem = s.dev.mem

/-- `ypt` is a `nop` unless the group's request is raised; then the executing lanes wait at a yield after it (R88). -/
def YieldPoints : Prop :=
  ∀ f s x, (Instr.ypt f).wellFormed = true → Clear s x [] →
    (x.x.requested = false → OnWarp s (.ypt f) x (fun w' => Stepped x w' ∧ { w' with pc := x.w.pc } = x.w))
    ∧ (x.x.requested = true → ∃ u w', exec (.ypt f) s = .next u ∧ u.dev.warp? x.g x.wi = some w'
        ∧ ∀ L, (x.guard (fop f)).getLsbD L = true → w'.pcOf L = x.w.pcOf L + 8 ∧ look .none w'.wait L = .yield)

/-- The count of `sleep` (R87): bits [11:0] of imm13, or the register, at most 4,095. -/
def sleepCount (f : FWord) (x : Ix) : Nat :=
  if f.a = .imm then f.imm.toNat % 4096 else min (x.val (fop f) .n64 f.a 0).toNat 4095

/-- `sleep` completes: with a count and no request, the executing lanes wait at it until the count has passed; otherwise it is a `nop` (R87). -/
def Sleeps : Prop :=
  ∀ f s x, (Instr.sleep f).wellFormed = true → Clear s x [(f.a, 1)] →
    if sleepCount f x = 0 ∨ x.x.requested = true then OnWarp s (.sleep f) x (fun w' => Stepped x w' ∧ { w' with pc := x.w.pc } = x.w)
    else OnWarp s (.sleep f) x (fun w' => Jumped x w' (x.guard (fop f)).getLsbD x.w.pcOf
      ∧ (∀ L, L < 32 → look .none w'.wait L = if (x.guard (fop f)).getLsbD L then .sleep (s.dev.now + sleepCount f x) else look .none x.w.wait L)
      ∧ { w' with pc := x.w.pc, wait := x.w.wait } = x.w)

/-! ### Masks, regions and barriers -/

/-- The lanes that wait on a mask (R81). -/
def onMask (w : Warp) (m L : Nat) : Bool := w.live.getLsbD L && look Wait.none w.wait L == .mask m

/-- A change of a warp's masks (R80, R81): mask `m` is changed by `f`, the others stay; a lane that waits on a mask whose
every lane waits on it steps on, and any other lane that waits on a mask still waits. What the lanes have met may grow (R82). -/
def MaskChange (x : Ix) (w' : Warp) (m : Nat) (f : LaneSet → LaneSet) : Prop :=
  (∀ k, look 0 w'.m k = if k = m then f (look 0 x.w.m k) else look 0 x.w.m k)
  ∧ (∀ k L, k < 12 → onMask x.w k L = true → x.iss.getLsbD L = false →
      if (lanesOf (look 0 w'.m k)).all (onMask x.w k) = true then look .none w'.wait L = .none ∧ w'.pcOf L = x.w.pcOf L + 8
      else look .none w'.wait L = .mask k ∧ w'.pcOf L = x.w.pcOf L)
  ∧ (∀ L, x.iss.getLsbD L = true → look .none x.w.wait L = .none → w'.pcOf L = x.w.pcOf L + 8)
  ∧ { MetAs x.w w' with pc := x.w.pc, wait := x.w.wait, m := x.w.m } = x.w

/-- `mjoin`, `mleave` and `mset` complete with the masks of R80 and the releases of R81. -/
def MaskUpdates : Prop :=
  ∀ f s x,
    ((Instr.mjoin f).wellFormed = true → Clear s x [(f.d, 1)] →
      OnWarp s (.mjoin f) x (fun w' => MaskChange x w' (Machine.Opnd.maskNo f.d) (fun m => m ||| x.guard (fop f))))
    ∧ ((Instr.mleave f).wellFormed = true → Clear s x [(f.d, 1)] →
      OnWarp s (.mleave f) x (fun w' => MaskChange x w' (Machine.Opnd.maskNo f.d) (fun m => m &&& ~~~(x.guard (fop f)))))
    ∧ ((Instr.mset f).wellFormed = true → Clear s x [(f.d, 1), (f.a, 1)] → x.guard (fop f) ≠ 0 →
      OnWarp s (.mset f) x (fun w' => MaskChange x w' (Machine.Opnd.maskNo f.d) (fun _ => (x.val (fop f) .n64 f.a 0).setWidth 32 &&& x.w.live)))

/-- Whether some live lane of the group that does not execute waits for nothing: while there is one, no check finds the group stuck
(R361, R367). -/
def Spare (x : Ix) (e : LaneSet) : Prop :=
  ∃ k w L, x.x.warps[k]? = some w ∧ w.live.getLsbD L = true ∧ ¬(k = x.wi ∧ e.getLsbD L = true) ∧ look Wait.none w.wait L = .none

/-- Whether every live lane of the group executes or waits at a mask or a barrier, and none is in handler mode (R361). -/
def AllStuck (x : Ix) (e : LaneSet) : Prop :=
  x.iss = e ∧ ∀ k w, x.x.warps[k]? = some w → w.handler &&& w.live = 0 ∧
    ∀ L, w.live.getLsbD L = true → (k = x.wi ∧ e.getLsbD L = true) ∨ (look Wait.none w.wait L).blocked = true

/-- A deadlock (R361): every live lane of the group takes 0x133 at its instruction and enters the handler. -/
def Deadlocks (s : State) (i : Instr) (x : Ix) : Prop :=
  ∃ u, exec i s = .next u ∧ ∀ k w, x.x.warps[k]? = some w → ∃ w', u.dev.warp? x.g k = some w' ∧
    ∀ L, w.live.getLsbD L = true → w'.pcOf L = s.dev.tvecOf x.x ∧ look 0 w'.epc L = w.pcOf L ∧ look 0 w'.ecause L = 0x133
      ∧ w'.handler.getLsbD L = true ∧ look .none w'.wait L = .none

/-- Whether every lane of a mask waits on it, when the lanes `e` wait on mask `m` besides. -/
def maskMet (w : Warp) (m : Nat) (e : LaneSet) (k : Nat) : Bool :=
  (lanesOf (look 0 w.m k)).all (fun j => onMask w k j || k == m && e.getLsbD j)

/-- Whether every lane of a set waits for nothing. -/
def Idle (x : Ix) (e : LaneSet) : Prop := e ≠ 0 ∧ ∀ L, e.getLsbD L = true → look Wait.none x.w.wait L = .none

/-- `mwait` (R80, R81, R361): when every lane of the mask waits on it or executes, all the lanes that execute or wait on it step on;
otherwise the executing lanes wait at it and those that wait go on waiting, unless that leaves the whole group stuck: then all its lanes
take 0x133. -/
def MaskWaits : Prop :=
  ∀ f s x, (Instr.mwait f).wellFormed = true → Clear s x [(f.a, 1)] → let e := x.guard (fop f)
    let m := Machine.Opnd.maskNo f.a
    Idle x e →
    (maskMet x.w m e m = true → OnWarp s (.mwait f) x (fun w' =>
      (∀ L, e.getLsbD L = true ∨ onMask x.w m L = true ∧ x.iss.getLsbD L = false → look .none w'.wait L = .none ∧ w'.pcOf L = x.w.pcOf L + 8)
      ∧ { MetAs x.w w' with pc := x.w.pc, wait := x.w.wait } = x.w))
    ∧ (maskMet x.w m e m = false → Spare x e → OnWarp s (.mwait f) x (fun w' =>
      (∀ L, e.getLsbD L = true ∨ onMask x.w m L = true ∧ x.iss.getLsbD L = false → look .none w'.wait L = .mask m ∧ w'.pcOf L = x.w.pcOf L)
      ∧ { MetAs x.w w' with pc := x.w.pc, wait := x.w.wait } = x.w))
    ∧ (maskMet x.w m e m = false → AllStuck x e → s.dev.tvecOf x.x ≠ 0 →
      (∀ k L, k < 12 → onMask x.w k L = true → maskMet x.w m e k = false) → Deadlocks s (.mwait f) x)

/-- `serb` outside a region opens one for its executing lanes; `sere` in a region takes its lanes out of it, and the lanes left may meet
what they did (R83). -/
def Regions : Prop :=
  ∀ f s x, Clear s x [] →
    ((Instr.serb f).wellFormed = true → x.w.ser = 0 →
      OnWarp s (.serb f) x (fun w' => w'.ser = x.guard (fop f) ∧ Stepped x w' ∧ { w' with pc := x.w.pc, ser := x.w.ser } = x.w))
    ∧ ((Instr.sere f).wellFormed = true → x.w.ser ≠ 0 →
      OnWarp s (.sere f) x (fun w' => w'.ser = x.w.ser &&& ~~~(x.guard (fop f)) ∧ Stepped x w'
        ∧ { MetAs x.w w' with pc := x.w.pc, ser := x.w.ser } = x.w))

/-- The barrier of `bar`, `bara` and `barw` (R85). -/
def barNo (f : FWord) : Nat := f.imm.toNat % 16

/-- Whether the arrival of some lanes of the issuing warp completes barrier `b`: then every live thread of the group has arrived. -/
def Completes (x : Ix) (b : Nat) (e : LaneSet) : Prop :=
  ∀ k w, x.x.warps[k]? = some w → ∀ L, w.live.getLsbD L = true →
    (look 0 w.arrived b).getLsbD L = true ∨ (k = x.wi ∧ e.getLsbD L = true)

/-- The lanes of a group that wait at barrier `b` and do not issue: a completion makes each runnable at its next word, and without one it
goes on waiting (R85). -/
def Waiters (x : Ix) (u : State) (b : Nat) (done : Prop) : Prop :=
  ∀ k w, x.x.warps[k]? = some w → ∃ w', u.dev.warp? x.g k = some w' ∧ (done → look 0 w'.arrived b = 0) ∧
    ∀ L, w.live.getLsbD L = true → look .none w.wait L = .bar b → ¬(k = x.wi ∧ x.iss.getLsbD L = true) →
      (done → look .none w'.wait L = .none ∧ w'.pcOf L = w.pcOf L + 8) ∧ (¬ done → look .none w'.wait L = .bar b ∧ w'.pcOf L = w.pcOf L)

/-- An arrival of lanes at barrier `b` (R85): when it completes the barrier the generation has advanced, nobody has
arrived and every waiting lane of the group is runnable; otherwise the lanes have arrived and the waiting lanes wait. -/
def Arrived (x : Ix) (u : State) (w' : Warp) (b : Nat) (e : LaneSet) : Prop :=
  Waiters x u b (Completes x b e) ∧ ∃ y', u.dev.group? x.g = some y' ∧
    ((Completes x b e → look 0 y'.gens b = look 0 x.x.gens b + 1)
    ∧ (¬ Completes x b e → look 0 y'.gens b = look 0 x.x.gens b ∧ look 0 w'.arrived b = look 0 x.w.arrived b ||| e))

/-- Lanes that may arrive at barrier `b`: they have not arrived, have left no wait for a trap, and wait for nothing. -/
def MayArrive (x : Ix) (b : Nat) (e : LaneSet) : Prop :=
  e ≠ 0 ∧ ∀ L, e.getLsbD L = true → (look 0 x.w.arrived b).getLsbD L = false ∧ look none x.w.left L = none ∧ look Wait.none x.w.wait L = .none

/-- No barrier but `b` stands completed (an arrival completes its barrier at once). -/
def NoOther (x : Ix) (b : Nat) : Prop := ∀ k, k < 16 → k ≠ b → ¬ Completes x k 0

/-- `bara` completes: the executing lanes arrive with a token of the generation and step on (R85). -/
def BarrierArrivals : Prop :=
  ∀ f s x, (Instr.bara f).wellFormed = true → Clear s x [] → MayArrive x (barNo f) (x.guard (fop f)) →
    ∃ u w', exec (.bara f) s = .next u ∧ u.dev.warp? x.g x.wi = some w' ∧ Arrived x u w' (barNo f) (x.guard (fop f))
      ∧ ∀ L, (x.guard (fop f)).getLsbD L = true → w'.pcOf L = x.w.pcOf L + 8
          ∧ look none w'.tok (16 * L + barNo f) = some (look 0 x.x.gens (barNo f))

/-- `barw` completes: an executing lane whose token is the current generation waits at the barrier, any other steps on, and the lanes that
wait there go on waiting (R85); when every executing lane waits and nothing is left that could run, all lanes take 0x133 (R361). -/
def BarrierWaits : Prop :=
  ∀ f s x, (Instr.barw f).wellFormed = true → Clear s x [] → let e := x.guard (fop f)
    let mine := fun L => look none x.w.tok (16 * L + barNo f) == some (look 0 x.x.gens (barNo f))
    Idle x e →
    ((Spare x e ∨ ∃ L, e.getLsbD L = true ∧ mine L = false) →
      ∃ u w', exec (.barw f) s = .next u ∧ KeptElse s u x ∧ u.dev.warp? x.g x.wi = some w' ∧ Waiters x u (barNo f) False
        ∧ ∀ L, e.getLsbD L = true →
          if mine L = true then look .none w'.wait L = .bar (barNo f) ∧ w'.pcOf L = x.w.pcOf L
          else look .none w'.wait L = .none ∧ w'.pcOf L = x.w.pcOf L + 8)
    ∧ (AllStuck x e → (∀ L, e.getLsbD L = true → mine L = true) → s.dev.tvecOf x.x ≠ 0 → Deadlocks s (.barw f) x)

/-- `bar` completes: it arrives, and its lanes step on when that completes the barrier and wait at it otherwise (R85), unless that leaves
the whole group stuck (R361). -/
def BarrierBoth : Prop :=
  ∀ f s x, (Instr.bar f).wellFormed = true → Clear s x [] → let e := x.guard (fop f)
    let b := barNo f
    MayArrive x b e →
    ((¬ Completes x b e → Spare x e) →
      ∃ u w', exec (.bar f) s = .next u ∧ u.dev.warp? x.g x.wi = some w' ∧ Arrived x u w' b e
        ∧ ∀ L, e.getLsbD L = true →
          (Completes x b e → look .none w'.wait L = .none ∧ w'.pcOf L = x.w.pcOf L + 8)
          ∧ (¬ Completes x b e → look .none w'.wait L = .bar b ∧ w'.pcOf L = x.w.pcOf L))
    ∧ (¬ Completes x b e → AllStuck x e → NoOther x b → s.dev.tvecOf x.x ≠ 0 → Deadlocks s (.bar f) x)

/-! ### Traps and the return from them -/

/-- An instruction that takes a trap: the lanes that take it, its cause, and the counter at which they will resume. -/
structure TrapSem where
  i : Instr
  us : List Use
  lanes : Ix → LaneSet
  when_ : Ix → Bool := fun _ => true
  cause : Cause
  past : Bool := false

/-- The sum of a load or a store in a lane (R167): the scalar base, the index as a signed word scaled, and the displacement. -/
def addressSum (f : FWord) (x : Ix) (L : Nat) : Nat :=
  (x.val (fop f) .n64 f.a 0 + ((((x.val (fop f) .n32 f.b L).setWidth 32).signExtend 64) <<< (f.sub.toNat % 4)) + f.imm.signExtend 64).toNat

/-- The sum of an atomic, which has no displacement. -/
def atomicSum (f : FWord) (x : Ix) (L : Nat) : Nat :=
  (x.val (fop f) .n64 f.a 0 + ((((x.val (fop f) .n32 f.b L).setWidth 32).signExtend 64) <<< (f.imm.toNat / 128 % 4))).toNat

/-- Instructions that take a trap: `trap`, `brk`, illegal words, a misaligned target, regions wrongly opened or closed, `eret` outside the
handler, division by zero and misaligned global accesses (R52, R79, R83, R114, R355 to R359, R363). -/
def semsTrap (f : FWord) (e : Illegal) : List TrapSem :=
  let o := fop f
  let t := fun (x : Ix) (L : Nat) => (x.val o .n64 o.a L).toNat % 8
  [ { i := .trap f, us := [], lanes := (·.guard o), cause := 0x1C0 + BitVec.ofNat 9 (f.imm.toNat % 16), past := true },
    { i := .brk f, us := [], lanes := (·.guard o), cause := 0x1B0 },
    { i := .illegalWordIssue e, us := [], lanes := (·.iss), cause := e.cause,
      when_ := fun _ => decide (0x010 ≤ e.cause.toNat ∧ e.cause.toNat < 0x030) },
    { i := .brx f, us := [useAt .n64 o.a], lanes := (·.guard o), cause := 0x050, when_ := fun x => (lanesOf (x.guard o)).all (fun L => t x L != 0) },
    { i := .ret f, us := [useAt .n64 o.a], lanes := (·.guard o), cause := 0x050, when_ := fun x => (lanesOf (x.guard o)).all (fun L => t x L != 0) },
    { i := .serb f, us := [], lanes := (·.guard o), cause := 0x130, when_ := fun x => x.w.ser != 0 },
    { i := .sere f, us := [], lanes := (·.guard o), cause := 0x131, when_ := fun x => x.w.ser == 0 },
    { i := .eret f, us := [], lanes := (·.guard o), cause := 0x030, when_ := fun x => (x.guard o &&& x.w.handler) == 0 },
    { i := .div f, us := [opUse o o.d, opUse o o.a, opUse o o.b], lanes := (·.guard o), cause := 0x0C0
      when_ := fun x => (lanesOf (x.guard o)).all (fun L => opInt o o.b x L == 0) },
    { i := .rem f, us := [opUse o o.d, opUse o o.a, opUse o o.b], lanes := (·.guard o), cause := 0x0C1
      when_ := fun x => (lanesOf (x.guard o)).all (fun L => opInt o o.b x L == 0) },
    { i := .atom f, us := [opUse o o.d, (o.a, 1), (o.b, 1), opUse o o.c], lanes := (·.guard o), cause := 0x053
      when_ := fun x => f.imm.toNat / 32 % 4 == 0 && (lanesOf (x.guard o)).all (fun L => atomicSum f x L % (f.ty.width / 8) != 0) },
    { i := .cas f, us := [opUse o o.d, (o.a, 1), (o.b, 1), opUse o o.c], lanes := (·.guard o), cause := 0x053
      when_ := fun x => f.imm.toNat / 32 % 4 == 0 && (lanesOf (x.guard o)).all (fun L => atomicSum f x L % (f.ty.width / 8) != 0) },
    { i := .red f, us := [(o.a, 1), (o.b, 1), opUse o o.c], lanes := (·.guard o), cause := 0x053
      when_ := fun x => f.imm.toNat / 32 % 4 == 0 && (lanesOf (x.guard o)).all (fun L => atomicSum f x L % (f.ty.width / 8) != 0) },
    { i := .ld f, us := [opUse o o.d, (o.a, 1), (o.b, 1)], lanes := (·.guard o), cause := 0x051
      when_ := fun x => o.d.kind == .v && (lanesOf (x.guard o)).all (fun L => addressSum f x L % (f.ty.width / 8) != 0) },
    { i := .st f, us := [(o.a, 1), (o.b, 1), opUse o o.c], lanes := (·.guard o), cause := 0x052
      when_ := fun x => (lanesOf (x.guard o)).all (fun L => addressSum f x L % (f.ty.width / 8) != 0) } ]

/-! ### Result registers -/

/-- The value of `2^k` lanes from `lo` in the fixed tree of R127: neighbours combine, an absent lane passes the other through. -/
def laneTree (f : DWord → DWord → DWord) (leaf : Nat → Option DWord) : Nat → Nat → Option DWord
  | 0, lo => leaf lo
  | k + 1, lo => match laneTree f leaf k lo, laneTree f leaf k (lo + 2 ^ k) with
    | some a, some b => some (f a b)
    | some a, none => some a
    | none, b => b

/-! ### Memory instructions -/

/-- What an access of `n` bytes at a sum meets when nothing refuses it (R150, R158, R160, R362): the address in the
space's own memory. A global sum has one translation: a leaf of the walk that permits the access, with no other leaf in a TLB (R163). -/
def Reaches1 (d : Dev) (x : Group) (space : Nat) (acc : Acc) (sum n a : Nat) : Prop :=
  sum % n = 0 ∧
  match space with
  | 1 => a = sum ∧ sum < 2 ^ 21 ∧ sum < x.lr.window ∧ x.absent sum n = []
      ∧ d.sramBad (scratchGran x.id) (acc != .st) sum n = none
  | 2 => a = sum ∧ d.hiveOk x.vf sum = true ∧ d.sramBad hiveGran (acc != .st) sum n = none
  | _ => sum < 2 ^ 56 ∧ ∃ e l, d.walk (atDie x.core) x.vf sum = .leaf e l ∧ (d.tlbFor x.core x.vf sum).all (· == .leaf e l) = true
      ∧ a = d.cfg.norm (leafPa e l sum) ∧ d.permit x.vf acc e a = none
      ∧ d.unreached x.die (d.cfg.place a) = none ∧ d.badAt a n = none

/-- The place of an address of a space in the history of writes. -/
def placeOf (g space a : Nat) : Nat :=
  match space with
  | 1 => scratchPlace g a
  | 2 => hivePlace a
  | _ => a

/-- Reads of a warp at a place return the newest bytes: its reads have returned every write there, or it made it (R171, R186). -/
def UpToDate (d : Dev) (x : Ix) (a n : Nat) : Prop := ∀ w ∈ d.past, w.spans a n = true → w.id ∈ d.warpSeen x

/-- The memory of a space as an issue's group sees it. -/
def spaceMem (d : Dev) (g space : Nat) : Memory :=
  match space with
  | 1 => ((d.group? g).map (·.scratch)).getD []
  | 2 => d.hive
  | _ => d.mem

/-- What the rules say of a memory instruction: its space, the access, the sum of each lane, the value each lane leaves for
the one it finds, and whether it returns what it found. -/
structure MemSem where
  i : Instr
  o : OpW
  srcs : List Use
  space : Nat
  acc : Acc
  scale : Nat
  disp : DWord
  new : Ix → Nat → DWord → Option DWord
  back : Bool

/-- The sum of R167: the scalar base, the index as a signed word scaled, and the displacement. -/
def MemSem.sum (r : MemSem) (x : Ix) (L : Nat) : Nat :=
  (x.val r.o .n64 r.o.a 0 + ((((x.val r.o .n32 r.o.b L).setWidth 32).signExtend 64) <<< r.scale) + r.disp).toNat

/-- The bytes of the access. -/
def MemSem.bytes (r : MemSem) : Nat := r.o.ty.width / 8

/-- The accesses of some lanes in turn (R171, R173): the memory they leave, and what each found. -/
def inTurn (n : Nat) (addr : Nat → Nat) (new : Nat → DWord → Option DWord) : List Nat → Memory → Memory × List (Nat × DWord)
  | [], m => (m, [])
  | L :: ls, m =>
    let old : DWord := BitVec.ofNat 64 (Memory.read m (addr L) n)
    let r := inTurn n addr new ls (match new L old with
      | some v => Memory.writeBytes m (addr L) (toBytes n v.toNat)
      | none => m)
    (r.1, (L, old) :: r.2)

/-- No byte that the lanes write holds an entry that their own translations read: the walks are the same whatever they leave there. -/
def TablesApart (d : Dev) (die f : Nat) (sums : List Nat) (spans : List (Nat × Nat)) : Prop :=
  ∀ m, (∀ a, (∀ p ∈ spans, a < p.1 ∨ p.1 + p.2 ≤ a) → Memory.byte m a = Memory.byte d.mem a) →
    ∀ v ∈ sums, ({ d with mem := m } : Dev).walk die f v = d.walk die f v

/-- The lanes of a memory instruction that access: the executing ones, or one for a scalar destination (R59). -/
def MemSem.lanes (r : MemSem) (x : Ix) : List Nat := if r.o.d.kind = .s && r.back then [lowest (x.guard r.o)] else lanesOf (x.guard r.o)

/-- The destination's use, if it has one. -/
def MemSem.dst (r : MemSem) : List Use := if r.back then [useAt r.o.ty r.o.d] else []

/-- The state and operands under which a memory instruction completes: no lane's access is refused, no lane waits, a plain access finds
every write at its bytes returned before, and no load of the warp still to be performed (R186), and its destination is no compact register
(R66, R344, R362); no earlier arrival of the warp rests on its scratchpad lines (R171). -/
structure MemSem.Ready (r : MemSem) (s : State) (x : Ix) (addr : Nat → Nat) : Prop where
  wf : r.i.wellFormed = true
  clear : Clear s x (r.dst ++ r.srcs)
  some_ : x.guard r.o ≠ 0
  idle : ∀ L, (x.guard r.o).getLsbD L = true → look Wait.none x.w.wait L = .none
  wide : r.dst.any x.x.lr.isCompact = false
  here : ∀ L, (x.guard r.o).getLsbD L = true → Reaches1 s.dev x.x r.space r.acc (r.sum x L) r.bytes (addr L)
  unawaited : r.space = 1 → ∀ L, (x.guard r.o).getLsbD L = true → ∀ l ∈ unitsOf 128 (addr L) r.bytes, x.w.restsOn l 0 = false
  settled : ∀ l ∈ s.dev.lags, ¬(l.g = x.g ∧ l.w = x.wi)
  news : r.acc ≠ .rmw → ∀ L, (x.guard r.o).getLsbD L = true → UpToDate s.dev x (placeOf x.g r.space (addr L)) r.bytes
  apart : r.space = 0 → r.acc.writes = true →
    TablesApart s.dev (atDie x.x.core) x.x.vf ((r.lanes x).map (r.sum x)) ((r.lanes x).map (fun L => (addr L, r.bytes)))

/-- The device but for what an access may change: the memories, the groups, the history of writes, the loads still to be performed, caches,
TLBs, owner tags, granules, watchpoint hits, fetched words, reservations, counters and free values. -/
def MemKept (d d' : Dev) : Prop :=
  { d' with mem := d.mem, hive := d.hive, groups := d.groups, past := d.past, lags := d.lags, tlb := d.tlb, l1 := d.l1, owner := d.owner, bad := d.bad, hits := d.hits
            ibuf := d.ibuf, drones := d.drones, evcnt := d.evcnt, evovf := d.evovf, ovfs := d.ovfs, free := d.free } = d

/-- The memory instruction completes: the space's memory is what the accesses in turn leave, the other spaces keep every byte, the
destination of each lane holds what the lane found, extended by its type, and no other register changes. The other warps, the other
groups, the lines, the queues and every unit keep their state; an access of scratchpad or hive memory touches no L1, and only the lines
that global writes name change their owner. -/
def MemSem.Completes (r : MemSem) : Prop :=
  ∀ s x addr, r.Ready s x addr →
    let t := inTurn r.bytes addr (r.new x) (r.lanes x) (spaceMem s.dev x.g r.space)
    ∃ u w', exec r.i s = .next u ∧ u.dev.warp? x.g x.wi = some w' ∧ Stepped x w'
      ∧ (∀ k, k < 3 → spaceMem u.dev x.g k = if k = r.space then t.1 else spaceMem s.dev x.g k)
      ∧ (r.back = true → ∀ L, (x.guard r.o).getLsbD L = true →
          Holds w' r.o.ty r.o.d L (tyImage r.o.ty ((t.2.lookup (if r.o.d.kind = .s then lowest (x.guard r.o) else L)).getD 0)))
      ∧ (if r.back then KeptRegs x.w (MetAs x.w w') (useAt r.o.ty r.o.d) (x.guard r.o) 0 else { MetAs x.w w' with pc := x.w.pc } = x.w)
      ∧ (∀ g, g ≠ x.g → u.dev.group? g = s.dev.group? g) ∧ (∀ wi, wi ≠ x.wi → u.dev.warp? x.g wi = s.dev.warp? x.g wi)
      ∧ (u.dev.group? x.g).map (fun y => { y with warps := x.x.warps, scratch := x.x.scratch }) = some x.x
      ∧ MemKept s.dev u.dev ∧ (r.space ≠ 0 → u.dev.l1 = s.dev.l1)
      ∧ (∀ l, (r.space = 0 → r.acc.writes = true → ∀ L ∈ r.lanes x, addr L / 128 ≠ l) → look 0 u.dev.owner l = look 0 s.dev.owner l)
      ∧ u.mg = s.mg

/-- `ld`, `lsp` and `lhv` (R167, R169). -/
def semsLoad (f : FWord) : List MemSem :=
  let o := fop f
  let m : MemSem := { i := .ld f, o := o, srcs := if f.d.kind = .s then [(o.a, 1)] else [(o.a, 1), (o.b, 1)], space := 0, acc := .ld (f.sub.toNat / 4 == 1)
                      scale := f.sub.toNat % 4, disp := f.imm.signExtend 64, new := fun _ _ _ => none, back := true }
  [m, { m with i := .lsp f, space := 1, acc := .ld false }, { m with i := .lhv f, space := 2, acc := .ld false }]

/-- `st`, `ssp` and `shv` (R167, R169). -/
def semsStore (f : FWord) : List MemSem :=
  let o := fop f
  let m : MemSem := { i := .st f, o := o, srcs := [(o.a, 1), (o.b, 1), opUse o o.c], space := 0, acc := .st, scale := f.sub.toNat % 4
                      disp := f.imm.signExtend 64, new := fun x L _ => some (opVal o o.c x L), back := false }
  [m, { m with i := .ssp f, space := 1 }, { m with i := .shv f, space := 2 }]

/-- The new value of `atom` and `red` (R173): add, the lesser, the greater, and, or, exclusive or, exchange. -/
def atomResult (op : Nat) (t : Ty) (old c : DWord) : DWord :=
  if op = 6 then c else if op = 1 && t.isInt then (if tyInt t c < tyInt t old then c else old)
  else if op = 2 && t.isInt then (if tyInt t old < tyInt t c then c else old) else combine op t old c

/-- `atom`, `cas` and `red` (R165, R173): the control word gives the space and the scale, and there is no displacement. -/
def semsAtomic (f : FWord) : List MemSem :=
  let o := fop f
  let m : MemSem := { i := .atom f, o := o, srcs := [(o.a, 1), (o.b, 1), opUse o o.c], space := f.imm.toNat / 32 % 4, acc := .rmw
                      scale := f.imm.toNat / 128 % 4, disp := 0, back := true
                      new := fun x L old => some (atomResult f.sub.toNat f.ty old (opVal o o.c x L)) }
  [ m, { m with i := .red f, back := false },
    { m with i := .cas f, srcs := m.srcs ++ [opUse o o.d]
             new := fun x L old => if old = opVal o o.c x L then some (opVal o o.d x L) else none } ]

/-- `pclr` completes: the lines that the executing lanes name are absent, and no other line changes (R177). -/
def LineClears : Prop :=
  ∀ f s x, (Instr.pclr f).wellFormed = true → Clear s x [(f.a, 1), (f.b, 1)] →
    (∀ L, (x.guard (fop f)).getLsbD L = true → addressSum f x L < 2 ^ 21 ∧ addressSum f x L < x.x.lr.window) →
    ∃ u w' y', exec (.pclr f) s = .next u ∧ u.dev.warp? x.g x.wi = some w' ∧ u.dev.group? x.g = some y' ∧ Stepped x w'
      ∧ { w' with pc := x.w.pc } = x.w ∧ y'.scratch = x.x.scratch ∧ u.dev.mem = s.dev.mem
      ∧ ∀ l, look Line.fresh y'.lines l = if (lanesOf (x.guard (fop f))).any (fun L => addressSum f x L / 128 == l)
          then { look Line.fresh x.x.lines l with present := false } else look Line.fresh x.x.lines l

/-- `pfch` completes where a load of its byte would not be refused: no byte and no register changes (R178). -/
def Prefetches : Prop :=
  ∀ f s x, (Instr.pfch f).wellFormed = true → Clear s x [(f.a, 1), (f.b, 1)] →
    (∀ L, (x.guard (fop f)).getLsbD L = true → ∃ a, Reaches1 s.dev x.x 0 .pf (addressSum f x L) 1 a) →
    ∃ u w', exec (.pfch f) s = .next u ∧ u.dev.warp? x.g x.wi = some w' ∧ Stepped x w' ∧ { w' with pc := x.w.pc } = x.w
      ∧ u.dev.mem = s.dev.mem ∧ u.dev.hive = s.dev.hive ∧ u.mg = s.mg

/-! ### Control registers -/

/-- The value of a control register for a lane of an issue (R324). -/
def csrValue (s : State) (x : Ix) (n L : Nat) : DWord :=
  let f := 16 * x.x.die + x.x.vf
  if n = 0x00 then x.w.rngkey
  else if n = 0x01 then (look 0 x.w.rngctr L).setWidth 64
  else if n = 0x02 then x.w.drawd.setWidth 64
  else if n = 0x08 then (s.dev.tvecOf x.x).setWidth 64
  else if n = 0x09 then (look 0 x.w.epc L).setWidth 64
  else if n = 0x0A then (look 0 x.w.ecause L).setWidth 64
  else if n < 0x18 then look 0 s.dev.evsel (8 * f + (n - 0x10))
  else if n < 0x20 then (look (0 : BitVec 48) s.dev.evcnt (8 * f + (n - 0x18))).setWidth 64
  else if n = 0x20 then (look (0 : BitVec 8) s.dev.evovf f).setWidth 64
  else BitVec.ofNat 64 (s.dev.vfid x.x)

/-- `csrr` completes: the destination holds the register (R324, R326). -/
def CsrReads : Prop :=
  ∀ f s x, (Instr.csrr f).wellFormed = true → Clear s x [useAt (csrTy f.csr) f.d] → x.x.lr.isCompact (useAt (csrTy f.csr) f.d) = false →
    OnWarp s (.csrr f) x (fun w' => Stepped x w'
      ∧ (∀ L, (x.guard (fop f)).getLsbD L = true → Holds w' (csrTy f.csr) f.d L (csrValue s x f.csr L))
      ∧ KeptRegs x.w w' (useAt (csrTy f.csr) f.d) (x.guard (fop f)) 0)

/-- The three writes of a control register: the new value from the old one and a (R326). -/
def csrWrites (f : FWord) : List (Instr × (DWord → DWord → DWord)) :=
  [(.csrw f, fun _ a => a), (.csrs f, fun c a => c ||| a), (.csrc f, fun c a => c &&& ~~~a)]

/-- `csrw`, `csrs` and `csrc` complete, for every register that can be written: it takes the new value in the bits it has (R324, R326,
R347). A counter counts this instruction's own lanes if it selects them (R329, R401), and a write of `drawd` enters the warp in the draw
of its descriptor (R273). -/
def CsrWrites : Prop :=
  ∀ f, ∀ r ∈ csrWrites f, ∀ s x, r.1.wellFormed = true → Clear s x [useAt (csrTy f.csr) f.a] → x.guard (fop f) ≠ 0 →
    let v := fun L => r.2 (csrValue s x f.csr L) (x.val (fop f) (if f.csr = 0x01 then .n32 else .n64) f.a L)
    let k := 16 * x.x.die + x.x.vf
    let n := (lanesOf (x.guard (fop f))).length
    (f.csr = 0x00 → OnWarp s r.1 x (fun w' => w'.rngkey = v 0 ∧ Stepped x w' ∧ { w' with pc := x.w.pc, rngkey := x.w.rngkey } = x.w))
    ∧ (f.csr = 0x01 → OnWarp s r.1 x (fun w' => Stepped x w' ∧ { w' with pc := x.w.pc, rngctr := x.w.rngctr } = x.w
        ∧ ∀ L, look 0 w'.rngctr L = if (x.guard (fop f)).getLsbD L then (v L).setWidth 32 else look 0 x.w.rngctr L))
    ∧ (f.csr = 0x02 → ∀ a, let at_ := (v 0).setWidth 56
        let desc := (List.range 16).map (fun j => (BitVec.ofNat 64 (Memory.read s.dev.mem a 128 / 2 ^ (64 * j)) : DWord))
        Idle x (x.guard (fop f)) → Reaches1 s.dev x.x 0 (.ld false) at_.toNat 128 a → UpToDate s.dev x a 128 → s.dev.drawRefuse x desc = none →
        ∃ u w', exec r.1 s = .next u ∧ u.dev.warp? x.g x.wi = some w' ∧ Stepped x w' ∧ w'.drawd = at_ ∧ u.dev.mem = s.dev.mem
          ∧ ∃ t ∈ u.dev.draws, w'.draw = some t.id ∧ t.id ∈ w'.drawn ∧ t.addr = at_.toNat ∧ t.die = x.x.die ∧ t.vf = x.x.vf
            ∧ x.x.gid * x.x.lr.nwarps + x.wi ∉ t.closed)
    ∧ (f.csr = 0x09 → x.guard (fop f) &&& ~~~x.w.handler = 0 →
        OnWarp s r.1 x (fun w' => Stepped x w' ∧ { w' with pc := x.w.pc, epc := x.w.epc } = x.w
          ∧ ∀ L, look 0 w'.epc L = if (x.guard (fop f)).getLsbD L then (v L).setWidth 56 &&& ~~~7 else look 0 x.w.epc L))
    ∧ (f.csr = 0x08 → x.w.handler &&& x.guard (fop f) = 0 → ∀ y, s.dev.grid? x.x.grid = some y →
        ∃ u, exec r.1 s = .next u ∧ u.dev.grid? x.x.grid = some { y with tvec := (v 0).setWidth 56 &&& ~~~7 } ∧ u.dev.mem = s.dev.mem)
    ∧ (0x10 ≤ f.csr ∧ f.csr < 0x18 → ∃ u, exec r.1 s = .next u
        ∧ ∀ j, look 0 u.dev.evsel j = if j = 8 * k + (f.csr - 0x10) then v 0 &&& 0x3FF else look 0 s.dev.evsel j)
    ∧ (0x18 ≤ f.csr ∧ f.csr < 0x20 → ∃ u, exec r.1 s = .next u ∧ look (0 : BitVec 48) u.dev.evcnt (8 * k + (f.csr - 0x18))
        = (v 0).setWidth 48 + (if s.dev.counts x.x.die x.x.vf 3 (f.csr - 0x18) then BitVec.ofNat 48 n else 0))
    ∧ (f.csr = 0x20 → ∃ u, exec r.1 s = .next u ∧ ∀ j, j < 8 → (look (0 : BitVec 8) u.dev.evovf k).getLsbD j = ((v 0).getLsbD j
        || s.dev.counts x.x.die x.x.vf 3 j && decide (2 ^ 48 ≤ (look (0 : BitVec 48) s.dev.evcnt (8 * k + j)).toNat + n)))

/-- The refusals of R394 take their traps: a register that cannot be written, `epc` outside the handler, `tvec` inside it. -/
def semsCsrTrap (f : FWord) : List TrapSem :=
  (csrWrites f).flatMap (fun r =>
    [ { i := r.1, us := [useAt (csrTy f.csr) f.a], lanes := (·.guard (fop f)), cause := 0x032, when_ := fun _ => f.csr == 0x0A || f.csr == 0x28 },
      { i := r.1, us := [useAt (csrTy f.csr) f.a], lanes := (·.guard (fop f)), cause := 0x033
        when_ := fun x => f.csr == 0x09 && (x.guard (fop f) &&& x.w.handler) == 0 },
      { i := r.1, us := [useAt (csrTy f.csr) f.a], lanes := (·.guard (fop f)), cause := 0x034
        when_ := fun x => f.csr == 0x08 && (x.w.handler &&& x.guard (fop f)) != 0 } ])

/-- Taking a trap (R344, R346, R348): the lanes enter the handler at the grid's `tvec` with the counter to resume at and the
cause saved; the other issuing lanes step on, every register keeps its value, and the queue's next record number advances. -/
def TrapEntry : Prop :=
  ∀ f e, ∀ r ∈ semsTrap f e ++ semsCsrTrap f, ∀ s x, r.i.wellFormed = true → Clear s x r.us → r.when_ x = true → r.lanes x ≠ 0 →
    r.lanes x &&& x.w.handler = 0 → s.dev.tvecOf x.x ≠ 0 →
    ∃ u w', exec r.i s = .next u ∧ u.dev.warp? x.g x.wi = some w'
      ∧ (∀ L, L < 32 → if (r.lanes x).getLsbD L
          then w'.pcOf L = s.dev.tvecOf x.x ∧ look 0 w'.epc L = (if r.past then x.w.pcOf L + 8 else x.w.pcOf L)
            ∧ look 0 w'.ecause L = r.cause ∧ w'.handler.getLsbD L = true ∧ look .none w'.wait L = .none
          else w'.pcOf L = (if x.iss.getLsbD L then x.w.pcOf L + 8 else x.w.pcOf L) ∧ look 0 w'.epc L = look 0 x.w.epc L
            ∧ look 0 w'.ecause L = look 0 x.w.ecause L ∧ w'.handler.getLsbD L = x.w.handler.getLsbD L
            ∧ look .none w'.wait L = look .none x.w.wait L)
      ∧ { MetAs x.w w' with pc := x.w.pc, epc := x.w.epc, ecause := x.w.ecause, handler := x.w.handler, wait := x.w.wait, left := x.w.left, held := x.w.held } = x.w
      ∧ (look Queue.init u.dev.queues x.x.queue).seq = (look Queue.init s.dev.queues x.x.queue).seq + 1

/-- Where the next trap record of a queue stands: at the slot of its number, 1,024 slots of 64 bytes at the end of the save area (R351). -/
def recordVa (k : Queue) : Nat := k.saveBase + k.saveSize - 2 ^ 16 + (k.seq.toNat + 2 ^ 32 - 1) % 1024 * 64

/-- Whether the write of the next trap record of a queue meets V = 0, and stalls (R402). -/
def RecordStalls (d : Dev) (q : Nat) : Prop :=
  let k := look Queue.init d.queues q
  ∃ f, (d.translate (384 + q / 64) k.vf .st (recordVa k)).2 = .error f ∧ f.cause = 0x070

/-- A trap in a grid without a handler, or of a lane in handler mode, kills its queue (R349): once its record is written the kill has begun
and no thread of the queue is left (R389); while the record stalls the kill has not begun (R350). -/
def TrapKills : Prop :=
  ∀ f e, ∀ r ∈ semsTrap f e ++ semsCsrTrap f, ∀ s x, r.i.wellFormed = true → Clear s x r.us → r.when_ x = true → r.lanes x ≠ 0 →
    (r.lanes x &&& x.w.handler ≠ 0 ∨ s.dev.tvecOf x.x = 0) → (look Queue.init s.dev.queues x.x.queue).kill = none →
    s.dev.killWaits x.x.queue = false →
    ∃ u, exec r.i s = .next u
      ∧ (¬ RecordStalls s.dev x.x.queue → (look Queue.init u.dev.queues x.x.queue).kill = some s.dev.now
        ∧ ∀ g y, s.dev.group? g = some y → y.queue = x.x.queue → ∃ y', u.dev.group? g = some y' ∧ ∀ w ∈ y'.warps, w.live = 0)
      ∧ (RecordStalls s.dev x.x.queue → (look Queue.init u.dev.queues x.x.queue).kill = none ∧ u.dev.killWaits x.x.queue = true)

/-- A division in which some lanes have a divisor of zero (R114, R344): those enter the handler with their cause, the others that execute
hold their results, and no other register changes. -/
def MixedDivision : Prop :=
  ∀ (f : FWord), let o := fop f
    ∀ r ∈ ([(.div f, Int.tdiv, o.sat, 0x0C0), (.rem f, Int.tmod, false, 0x0C1)] : List (Instr × (Int → Int → Int) × Bool × Cause)), ∀ s x,
    let zero := setOf ((lanesOf (x.guard o)).filter (fun L => opInt o o.b x L == 0))
    r.1.wellFormed = true → Clear s x [opUse o o.d, opUse o o.a, opUse o o.b] → x.x.lr.isCompact (opUse o o.d) = false →
    zero &&& x.w.handler = 0 → s.dev.tvecOf x.x ≠ 0 →
    ∃ u w', exec r.1 s = .next u ∧ u.dev.warp? x.g x.wi = some w'
      ∧ (∀ L, L < 32 → if zero.getLsbD L
          then w'.pcOf L = s.dev.tvecOf x.x ∧ look 0 w'.epc L = x.w.pcOf L ∧ look 0 w'.ecause L = r.2.2.2 ∧ w'.handler.getLsbD L = true
          else w'.pcOf L = if x.iss.getLsbD L then x.w.pcOf L + 8 else x.w.pcOf L)
      ∧ (∀ L, (x.guard o &&& ~~~zero).getLsbD L = true →
          Holds w' o.ty o.d L (BitVec.ofInt 64 (fitInt o.ty r.2.2.1 (r.2.1 (opInt o o.a x L) (opInt o o.b x L)))))
      ∧ KeptRegs x.w { MetAs x.w w' with epc := x.w.epc, ecause := x.w.ecause, handler := x.w.handler, wait := x.w.wait, left := x.w.left
                                         held := x.w.held } (opUse o o.d) (x.guard o &&& ~~~zero) 0

/-! ### The proposal bank -/

/-- The proposal word of a register in a lane. -/
def proposalOf (w : Warp) (n L : Nat) : Word := (look [] w.prop n).getD L 0
/-- The committed word of a register in a lane. -/
def committedOf (w : Warp) (n L : Nat) : Word := (look (.u 0) w.v n).at L

/-- `pbopen` and `pbx` complete in a kernel with v0 to v55 (R304): an opened lane's proposal is a fresh snapshot of the committed words,
whether or not it was open; `pbx` closes; committed words, counters and everything else stay. -/
def BankOpenClose : Prop :=
  ∀ f s x, Clear s x [] → 56 ≤ x.x.lr.vg →
    ((Instr.pbopen f).wellFormed = true → OnWarp s (.pbopen f) x (fun w' => Stepped x w' ∧ w'.bank = x.w.bank ||| x.guard (fop f)
      ∧ (∀ n L, L < 32 → committedOf w' n L = committedOf x.w n L)
      ∧ (∀ n L, 40 ≤ n → n ≤ 55 → L < 32 → proposalOf w' n L = if (x.guard (fop f)).getLsbD L then committedOf x.w n L else proposalOf x.w n L)
      ∧ { w' with pc := x.w.pc, bank := x.w.bank, v := x.w.v, prop := x.w.prop } = x.w))
    ∧ ((Instr.pbx f).wellFormed = true → OnWarp s (.pbx f) x (fun w' => Stepped x w' ∧ w'.bank = x.w.bank &&& ~~~(x.guard (fop f))
      ∧ { w' with pc := x.w.pc, bank := x.w.bank } = x.w))

/-- `pacc` completes (R305): an executing lane with an open bank whose a and b, read through its view, are numbers with a ≥ b commits its
sixteen words and counts in acc; another open lane counts in rej; each closes. Closed lanes and every other register stay. -/
def BankDecision : Prop :=
  ∀ f s x, (Instr.pacc f).wellFormed = true → Clear s x [(f.a, 1), (f.b, 1)] → 56 ≤ x.x.lr.vg →
    let on := lanesOf (x.guard (fop f) &&& x.w.bank)
    let yes := fun L => vLe (f32 (opF32 (fop f) f.b x L)) (f32 (opF32 (fop f) f.a x L))
    OnWarp s (.pacc f) x (fun w' => Stepped x w' ∧ w'.bank = x.w.bank &&& ~~~(x.guard (fop f))
      ∧ w'.acc = x.w.acc + BitVec.ofNat 32 (on.filter yes).length
      ∧ w'.rej = x.w.rej + BitVec.ofNat 32 (on.filter (fun L => !yes L)).length
      ∧ (∀ n L, L < 32 → committedOf w' n L =
          if 40 ≤ n ∧ n ≤ 55 ∧ L ∈ on ∧ yes L = true then proposalOf x.w n L else committedOf x.w n L)
      ∧ { w' with pc := x.w.pc, bank := x.w.bank, v := x.w.v, acc := x.w.acc, rej := x.w.rej } = x.w)

/-- `pbstat` completes (R306): once for the issue, when some lane executes, d holds rej above acc, and `.clr` clears both; both are 0 in a
fresh warp. -/
def BankCounters : Prop :=
  (∀ f s x, (Instr.pbstat f).wellFormed = true → Clear s x [(f.d, 1)] → 56 ≤ x.x.lr.vg →
    OnWarp s (.pbstat f) x (fun w' => Stepped x w' ∧
      if x.guard (fop f) = 0 then { w' with pc := x.w.pc } = x.w
      else (∀ L, Holds w' .n64 f.d L (x.w.rej ++ x.w.acc)) ∧ KeptRegs x.w { w' with acc := x.w.acc, rej := x.w.rej } (f.d, 1) (x.guard (fop f)) 0
        ∧ (if f.sub.toNat % 2 = 1 then w'.acc = 0 ∧ w'.rej = 0 else w'.acc = x.w.acc ∧ w'.rej = x.w.rej)))
  ∧ ∀ live pc args q id, (Warp.entry live pc args q id).acc = 0 ∧ (Warp.entry live pc args q id).rej = 0

/-! ### Mailboxes -/

/-- A mailbox number that is an immediate of 10 bits or a register (R298). -/
def boxNumber (f : FWord) (o : Opnd) (x : Ix) : Nat := if o = .imm then f.imm.toNat % 1024 else (x.val (fop f) .n64 o 0).toNat

/-- The mailbox `n` of the issuing die, when it belongs to the issuing function (R290, R396). -/
def OwnBox (s : State) (x : Ix) (n : Nat) (b : Box) : Prop :=
  n < 1024 ∧ look Box.init s.dev.boxes (1024 * x.x.die + n) = b ∧ b.mvf = x.x.vf

/-- `mbsend` completes where its mailbox is open with a free slot and its bytes can be read: the message takes a slot with
the function's policy version, its delivery is forked, and d holds 0 (R292, R295, R299). -/
def MailboxSends : Prop :=
  ∀ f s x b bs d1, (Instr.mbsend f).wellFormed = true → Clear s x [(f.d, 1), (f.a, 1), (f.b, 1), (f.c, 1)] → Idle x (x.guard (fop f)) →
    OwnBox s x (boxNumber f f.c x) b → b.isOpen = true → b.act.length < 8 →
    0 < (x.val (fop f) .n64 f.b 0).toNat → (x.val (fop f) .n64 f.b 0).toNat ≤ 256 →
    s.dev.bufRead x (x.guard (fop f)) (f.sub.toNat % 4 == 1) (x.val (fop f) .n64 f.a 0).toNat (x.val (fop f) .n64 f.b 0).toNat = (d1, .ok bs) →
    ∃ u w', exec (.mbsend f) s = .next u ∧ u.dev.warp? x.g x.wi = some w' ∧ Stepped x w' ∧ (∀ L, Holds w' .n64 f.d L 0)
      ∧ ∃ m : Msg, look Box.init u.dev.boxes (1024 * x.x.die + boxNumber f f.c x) = { b with act := b.act ++ [m] }
        ∧ m.bytes = bs ∧ m.ver = look 0 s.dev.polver (16 * x.x.die + x.x.vf) ∧ m.placed = false
        ∧ u.dev.ops.any (fun o => o.kind == .deliver x.x.die (boxNumber f f.c x) m.id && o.src.g == x.g) = true

/-- `mbrecv` completes where a placed message is at the head and the buffer can be written: the message leaves the mailbox, d holds
its length less one and its version, and the buffer is written by it, and holds it where the warp has met every write there (R186, R291, R292,
R299). -/
def MailboxReceives : Prop :=
  ∀ f s x b m rest d1, (Instr.mbrecv f).wellFormed = true → Clear s x [(f.d, 1), (f.a, 1), (f.b, 1)] → Idle x (x.guard (fop f)) →
    OwnBox s x (boxNumber f f.b x) b → b.obs = m :: rest → m.placed = true →
    (s.dev.modWarp x.g x.wi (·.gain (x.guard (fop f)) m.know)).bufWrite x (x.guard (fop f)) (f.sub.toNat % 4 == 1)
      (x.val (fop f) .n64 f.a 0).toNat m.bytes = (d1, .ok ()) →
    ∃ u w', exec (.mbrecv f) s = .next u ∧ u.dev.warp? x.g x.wi = some w' ∧ Stepped x w'
      ∧ (∀ L, Holds w' .n64 f.d L (BitVec.ofNat 64 ((m.bytes.length - 1) * 2 ^ 8 + m.ver.toNat * 2 ^ 16)))
      ∧ look Box.init u.dev.boxes (1024 * x.x.die + boxNumber f f.b x) = { b with obs := rest }
      ∧ u.dev.mem = d1.mem ∧ (f.sub.toNat % 4 = 1 → UpToDate s.dev x (scratchPlace x.g (x.val (fop f) .n64 f.a 0).toNat) m.bytes.length →
          (spaceMem u.dev x.g 1).readBytes (x.val (fop f) .n64 f.a 0).toNat m.bytes.length = m.bytes)

/-- The messages of a FIFO that are placed and waiting, and the version of its head message once that is placed, or 0. -/
def waitingMsgs (ms : List Msg) : Nat := (ms.filter (·.placed)).length
def frontVer (ms : List Msg) : Nat :=
  match ms with
  | m :: _ => if m.placed then m.ver.toNat else 0
  | [] => 0

/-- `mbpoll` and `mbver` complete (R294, R298): the counts, status and head version of a mailbox; the function's policy version. -/
def MailboxReads : Prop :=
  ∀ f s x, x.guard (fop f) ≠ 0 →
    (∀ b, (Instr.mbpoll f).wellFormed = true → Clear s x [(f.d, 1), (f.a, 1)] → OwnBox s x (boxNumber f f.a x) b →
      OnWarp s (.mbpoll f) x (fun w' => Stepped x w' ∧ ∀ L, Holds w' .n64 f.d L (BitVec.ofNat 64
        (waitingMsgs b.obs + (8 - b.act.length) * 2 ^ 4 + b.status * 2 ^ 8 + frontVer b.obs * 2 ^ 16))))
    ∧ ((Instr.mbver f).wellFormed = true → Clear s x [(f.a, 1)] → ∃ u w', exec (.mbver f) s = .next u ∧ u.dev.warp? x.g x.wi = some w'
        ∧ Stepped x w' ∧ u.dev.polver = put 0 s.dev.polver (16 * x.x.die + x.x.vf) ((x.val (fop f) .n64 f.a 0).setWidth 16))

/-! ### Queues and semaphores from a warp -/

/-- An instruction completes: its lanes step, and `P` holds of the new state and of the issuing warp in it. -/
def Does (s : State) (i : Instr) (x : Ix) (P : State → Warp → Prop) : Prop :=
  ∃ u w', exec i s = .next u ∧ u.dev.warp? x.g x.wi = some w' ∧ Stepped x w' ∧ P u w'

/-- A scalar-side instruction whose guard holds in some lane is clear to run (R59). -/
structure ClearScalar (s : State) (i : Instr) (x : Ix) (o : OpW) (us : List Use) : Prop where
  wf : i.wellFormed = true
  clear : Clear s x us
  idle : Idle x (x.guard o)

/-- A scalar operand. -/
def scalarVal (f : FWord) (o : Opnd) (x : Ix) : DWord := x.val (fop f) .n64 o 0

/-- `semsig` and `semwt` complete (R207): a signal adds to a semaphore or sets it, and its lanes pass on what they have met (R184); a wait
whose value is reached returns it, and what happened before the semaphore's signals happens before what its lanes do next (R191). -/
def SemaphoreOps : Prop :=
  ∀ f s x, (scalarVal f f.a x).toNat < 256 →
    (ClearScalar s (.semsig f) x (fop f) [(f.a, 1), (f.b, 1)] → Does s (.semsig f) x (fun u w' =>
      { MetAs x.w w' with pc := x.w.pc } = x.w ∧ (∀ n, look 0 u.dev.sems n = if n = (scalarVal f f.a x).toNat then
        (if f.sub.toNat % 2 = 1 then scalarVal f f.b x else look 0 s.dev.sems n + scalarVal f f.b x) else look 0 s.dev.sems n)
      ∧ ∀ L, (x.guard (fop f)).getLsbD L = true → ∀ i ∈ (x.w.viewOf L).cum,
          i ∈ look [] u.dev.semKnow (scalarVal f f.a x).toNat ∧ i ∈ (w'.viewOf L).know))
    ∧ (ClearScalar s (.semwt f) x (fop f) [(f.d, 1), (f.a, 1), (f.b, 1)] →
      (scalarVal f f.b x).toNat ≤ (look 0 s.dev.sems (scalarVal f f.a x).toNat).toNat →
      OnWarp s (.semwt f) x (fun w' => Stepped x w' ∧ (∀ L, Holds w' .n64 f.d L (look 0 s.dev.sems (scalarVal f f.a x).toNat))
        ∧ KeptRegs x.w (MetAs x.w w') (f.d, 1) (x.guard (fop f)) 0
        ∧ ∀ L, (x.guard (fop f)).getLsbD L = true → ∀ i ∈ look [] s.dev.semKnow (scalarVal f f.a x).toNat, i ∈ (w'.viewOf L).know))

/-! ### Engine threads -/

/-- One engine thread has been forked (R188, R378): a new operation, numbered by the identity counter, with the issue's origin; what happens
before the issue in its lanes happens before all that the thread does. -/
def Forked (s u : State) (x : Ix) (e : LaneSet) (done : Nat) (k : OpKind) : Prop :=
  ∃ v : View, u.dev.ops = s.dev.ops ++ [{ id := s.dev.nextId, src := { x.origin e with op := s.dev.nextId }, done := done, kind := k, stall := none
                                          started := s.dev.now, view := v }]
    ∧ ∀ L, e.getLsbD L = true → ∀ i ∈ (x.w.viewOf L).know, i ∈ v.know

/-- The lines of a group after a thread has cleared some of them: absent, with as many more outstanding copies as the list names them
(R158, R177); every other line is as before. -/
def LinesCleared (u : State) (x : Ix) (ls : List Nat) : Prop :=
  ∃ y', u.dev.group? x.g = some y' ∧ ∀ l, let n := look Line.fresh y'.lines l
    let o := look Line.fresh x.x.lines l
    if l ∈ ls then n.present = false ∧ n.count = o.count + ls.count l else n = o

/-- The scalar registers of a record from an operand. -/
def recordAt (f : FWord) (x : Ix) (n : Nat) : List DWord :=
  match f.a with
  | .s k => (List.range n).map (fun i => x.w.readS (k.toNat + i))
  | _ => []

/-- `cwait` and `cpoll` complete (R231): the destination holds the object, `cwait` once its low 63 bits have reached b or bit 63 is set. -/
def ObjectReads : Prop :=
  ∀ f s x a, Reaches1 s.dev x.x 0 (.ld false) (scalarVal f f.a x).toNat 8 a → UpToDate s.dev x a 8 →
    let v : DWord := BitVec.ofNat 64 (Memory.read s.dev.mem a 8)
    (ClearScalar s (.cwait f) x (fop f) [(f.d, 1), (f.a, 1), (f.b, 1)] →
      ((v &&& ~~~(1#64 <<< 63)).toNat ≥ (scalarVal f f.b x).toNat ∨ v.getLsbD 63 = true) →
      Does s (.cwait f) x (fun u w' => (∀ L, Holds w' .n64 f.d L v) ∧ KeptRegs x.w (MetAs x.w w') (f.d, 1) (x.guard (fop f)) 0 ∧ u.dev.mem = s.dev.mem))
    ∧ (ClearScalar s (.cpoll f) x (fop f) [(f.d, 1), (f.a, 1)] →
      Does s (.cpoll f) x (fun u w' => (∀ L, Holds w' .n64 f.d L v) ∧ KeptRegs x.w (MetAs x.w w') (f.d, 1) (x.guard (fop f)) 0 ∧ u.dev.mem = s.dev.mem))

/-! ### Surfaces -/

/-- The pixel of a lane (R263). -/
def pixelX (f : FWord) (x : Ix) (L : Nat) : Nat := (x.val (fop f) .n32 f.a L).toNat
def pixelY (f : FWord) (x : Ix) (L : Nat) : Nat := (x.val (fop f) .n32 f.b L).toNat

/-- Every executing lane names a pixel of a bound surface whose tile is staged, and its home does not stall. -/
def Staged (f : FWord) (s : State) (x : Ix) (g : Surf) (st : Nat → Stage) : Prop :=
  s.dev.surf? x.x.die x.x.vf (f.imm.toNat % 256) = some g ∧
  ∀ L, (x.guard (fop f)).getLsbD L = true → pixelX f x L < g.s.w ∧ pixelY f x L < g.s.h
    ∧ s.dev.stage? g.key (g.s.tileAt (pixelX f x L) (pixelY f x L)) = some (st L) ∧ (st L).bad = false
    ∧ s.dev.homeStalled (homeKey g.key (g.s.tileAt (pixelX f x L) (pixelY f x L))) = false

/-- `sld` completes on staged tiles: each executing lane whose warp has met every write of its pixel's samples holds them, channel 0 lowest
(R265, R269). -/
def SurfaceLoads : Prop :=
  ∀ f s x g st, (Instr.sld f).wellFormed = true → Clear s x [(f.d, 1), (f.a, 1), (f.b, 1)] → x.x.lr.isCompact (f.d, 1) = false →
    Staged f s x g st →
    (∀ L, (x.guard (fop f)).getLsbD L = true →
      UpToDate s.dev x (g.place (g.s.tileAt (pixelX f x L) (pixelY f x L)) (pixelX f x L % 16) (pixelY f x L % 16) 0) (2 * g.s.nch)
      ∧ ∀ ch, ch < g.s.nch → (st L).sample ch (pixelX f x L % 16) (pixelY f x L % 16) < 2 ^ g.s.bpc) →
    OnWarp s (.sld f) x (fun w' => Stepped x w' ∧ KeptRegs x.w (MetAs x.w w') (f.d, 1) (x.guard (fop f)) 0
      ∧ ∀ L, (x.guard (fop f)).getLsbD L = true → Holds w' .n32 f.d L (BitVec.ofNat 64 (((List.range g.s.nch).map (fun ch =>
          (st L).sample ch (pixelX f x L % 16) (pixelY f x L % 16) * 2 ^ (g.s.bpc * ch))).foldl (· + ·) 0)))

/-- Two lanes name pixels of one tile of a surface. -/
def sameTile (f : FWord) (x : Ix) (g : Surf) (L M : Nat) : Prop :=
  g.s.tileAt (pixelX f x M) (pixelY f x M) = g.s.tileAt (pixelX f x L) (pixelY f x L)

/-- `sst` completes on staged tiles of a surface that is not held (R266). In pixel mode a lane whose pixel no later executing lane names
has put the channels of its mask there, whose cells are in pixel mode; in vector mode a lane whose motion block no later one names has
set the block's vector; in key mode the last lane of a tile has set its key flag, but on a key surface. The cells of the block or the tile are
then in pixel mode, and neither of the two changes a sample. -/
def SurfaceStores : Prop :=
  ∀ f s x g st, (Instr.sst f).wellFormed = true → Clear s x [(f.a, 1), (f.b, 1), (f.c, 1)] → Staged f s x g st → g.s.hold = 0 →
    let mode := f.ty.code.toNat % 4
    let c := fun L => (x.val (fop f) .n32 f.c L).toNat
    let px := fun L => (pixelX f x L % 16, pixelY f x L % 16)
    let later := fun L M => L < M ∧ (x.guard (fop f)).getLsbD M = true ∧ sameTile f x g L M
    (∀ L, (x.guard (fop f)).getLsbD L = true → sstBad mode (c L) = false) →
    Does s (.sst f) x (fun u w' => { MetAs x.w w' with pc := x.w.pc } = x.w ∧ u.dev.mem = s.dev.mem
      ∧ ∀ L, (x.guard (fop f)).getLsbD L = true →
        ∃ h, u.dev.stage? g.key (g.s.tileAt (pixelX f x L) (pixelY f x L)) = some h
          ∧ (mode = 0 → (∀ M, later L M → px M ≠ px L) → ∀ ch, ch < g.s.nch → f.sub.getLsbD ch = true →
              h.sample ch (px L).1 (px L).2 = bits (c L) (g.s.bpc * ch) g.s.bpc
              ∧ look none h.cells (16 * ch + cellNo (px L).1 (px L).2) = none)
          ∧ (mode = 1 → (st L).vecs.length = 4 → let b := motionBlock (px L).1 (px L).2
              (∀ M, later L M → motionBlock (px M).1 (px M).2 ≠ b) →
              h.vecs[b]? = some (signed 16 (c L), signed 16 (c L / 2 ^ 16)) ∧ ∀ k, cellBlock (k % 16) = b → look none h.cells k = none)
          ∧ (mode = 2 → (∀ M, ¬later L M) →
              if g.s.isKey = true then h.key = (st L).key ∧ h.cells = (st L).cells else h.key = (c L % 2 == 1) ∧ h.cells = [])
          ∧ (mode ≠ 0 → h.samples = (st L).samples))

/-- `sstc` completes on staged tiles of a key surface that is not held (R267): a lane whose cell no other executing lane names
has set its coefficient in the cell's levels. -/
def CoefficientStores : Prop :=
  ∀ f s x g st, (Instr.sstc f).wellFormed = true → Clear s x [(f.a, 1), (f.b, 1), (f.c, 1)] → Staged f s x g st → g.s.hold = 0 →
    g.s.isKey = true →
    let c := fun L => (x.val (fop f) .n32 f.c L).toNat
    let tile := fun L => g.s.tileAt (pixelX f x L) (pixelY f x L)
    let cell := fun L => 16 * bits (c L) 20 2 + cellNo (pixelX f x L % 16) (pixelY f x L % 16)
    (∀ L, (x.guard (fop f)).getLsbD L = true → sstcBad g.s (c L) = false) →
    Does s (.sstc f) x (fun u w' => { MetAs x.w w' with pc := x.w.pc } = x.w ∧ u.dev.mem = s.dev.mem
      ∧ ∀ L, (x.guard (fop f)).getLsbD L = true →
          (∀ M, M ≠ L → (x.guard (fop f)).getLsbD M = true → tile M ≠ tile L ∨ cell M ≠ cell L) →
          ∃ h, u.dev.stage? g.key (tile L) = some h ∧ look none h.cells (cell L)
            = some (((look none (st L).cells (cell L)).getD (List.replicate 16 0)).set (bits (c L) 16 4) (signed 16 (c L))))

/-- `sbind` completes on a slot that is not held (R264): an address of 0 unbinds it, any other binds what its descriptor says. -/
def SurfaceBinds : Prop :=
  ∀ f s x, let no := f.imm.toNat % 256
    let k := slotKey x.x.die x.x.vf no
    ClearScalar s (.sbind f) x (fop f) [(f.a, 1)] → (∀ g, s.dev.surf? x.x.die x.x.vf no = some g → g.s.hold = 0) →
    (scalarVal f f.a x = 0 → Does s (.sbind f) x (fun u _ => look none u.dev.slots k = none))
    ∧ (∀ d1 t ps, scalarVal f f.a x ≠ 0 → s.dev.readDesc x (x.guard (fop f)) no (scalarVal f f.a x).toNat = (d1, .ok (t, ps)) →
      Does s (.sbind f) x (fun u _ => look none u.dev.slots k = some t))

/-! ### Rendering from a warp -/

/-- The place of vertex `k` of a lane's triangle in the scratchpad (R274). -/
def vertAt (f : FWord) (x : Ix) (L k : Nat) : Nat :=
  (scalarVal f f.a x).toNat + 16 * triIndex ((x.val (fop f) .n32 f.b L).setWidth 32) k

/-- Every executing lane has a triangle of the warp's draw (R387) whose records lie in the window, with their lines present, sound, and
nothing there that the warp may read older (R274): its vertices are what the scratchpad holds. -/
structure Triangles (f : FWord) (s : State) (x : Ix) (r : Draw) (vs : Nat → List Vert) : Prop where
  draw : x.w.draw.bind s.dev.draw? = some r
  aligned : (scalarVal f f.a x).toNat % 16 = 0
  word : ∀ L, (x.guard (fop f)).getLsbD L = true → triBad ((x.val (fop f) .n32 f.b L).setWidth 32) = false
  here : ∀ L k, (x.guard (fop f)).getLsbD L = true → k < 3 → vertAt f x L k < 2 ^ 21 ∧ vertAt f x L k < x.x.lr.window
    ∧ s.dev.awaited x (vertAt f x L k) 16 = [] ∧ s.dev.sramBad (scratchGran x.g) true (vertAt f x L k) 16 = none
    ∧ UpToDate s.dev x (scratchPlace x.g (vertAt f x L k)) 16
  verts : ∀ L, (x.guard (fop f)).getLsbD L = true → vs L = (List.range 3).map (fun k => vertOf (Memory.read x.x.scratch (vertAt f x L k) 16))

/-- The exports of some lanes in turn, numbered from `n`: one for each whose clipped triangle is not empty (R276). What happens before
an export is none of it. -/
def exportsFrom (t : Slot) (packet : Nat) (id : Nat → Word) (vs : Nat → List Vert) : List Nat → Nat → List Export
  | [], _ => []
  | L :: ls, n =>
    let p := clipAll (vs L)
    if p.isEmpty then exportsFrom t packet id vs ls n
    else ⟨packet, n, id L, vs L, fanOf p, tilesOf t (bboxOf (p.map (·.screen t.w t.h))), []⟩ :: exportsFrom t packet id vs ls (n + 1)

/-- The results of lanes whose loads succeed in turn, each in the state the lanes before it leave. -/
def raysInTurn (lane : Dev → Ix → LaneSet → Ray → List Nat → Nat → Er (List Nat × List Word)) (x : Ix) (o : OpW) :
    List Nat → Dev → List Nat → Option (List (Nat × List Word))
  | [], _, _ => some []
  | L :: ls, d, seen => match lane d x (laneBit L) (x.ray o L) seen (x.val o .n64 o.b L).toNat with
    | (d, .ok r) => (raysInTurn lane x o ls d r.1).map (fun l => (L, r.2) :: l)
    | _ => none

/-! ### P-form pairs -/

/-- The source of a half in a lane (R45): its register, or its byte as the half-opcode reads it. -/
def pairSrc (x : Ix) (h : Half) (L : Nat) : Word :=
  match h.s with
  | .reg n => x.w.readV n.toNat L
  | .imm b => match h.op with
    | .addI32 | .subI32 | .mov | .minI32 | .maxI32 => b.signExtend 32
    | .fadd | .fmul | .fmin | .fmax => toF32 .rne (fmtE4m3.decode b.toNat)
    | _ => b.setWidth 32

/-- The result of a half-opcode on its destination and its source (R45). -/
def pairVal (op : HalfOp) (a b : Word) : Word :=
  match op with
  | .hnop => a
  | .addI32 => a + b
  | .subI32 => a - b
  | .and => a &&& b
  | .or => a ||| b
  | .xor => a ^^^ b
  | .shl => if b.toNat < 32 then a <<< b.toNat else 0
  | .shr => if b.toNat < 32 then a >>> b.toNat else 0
  | .sar => BitVec.ofInt 32 (a.toInt / 2 ^ min b.toNat 32)
  | .mov => b
  | .fadd => fAdd .rne a b
  | .fmul => fMul .rne a b
  | .fmin => fMin a b
  | .fmax => fMax a b
  | .minI32 => if b.toInt < a.toInt then b else a
  | .maxI32 => if a.toInt < b.toInt then b else a

/-! ### Words -/

/-- An F-form word's fields, unused ones 0 and no predicate (R36, R44). -/
def plainF : FWord := { d := .v 0, a := .v 0, b := .v 0, c := .v 0, neg := false, pidx := 7, ty := .i32, sub := 0, imm := 0 }

/-- Words laid out from the encodings of R36 to R50, of each form and family. -/
def sampleWords : List (BitVec 64 × Instr) :=
  [ (0x0000000000E00000, .nop plainF),
    (0x0020000000E01FF6, .bra { plainF with imm := 0x1FF6 }),
    (0x02C03FC300E00005, .semsig { plainF with a := .imm, b := .s 3, imm := 5 }),
    (0x0560817F00E2000F, .and { plainF with d := .v 2, a := .v 2, b := .imm, ty := .n32, imm := 15 }),
    (0x0C61808206702000, .ffma { plainF with d := .v 6, a := .v 1, b := .v 2, c := .v 3, pidx := 3, ty := .f32, sub := 1 }),
    (0x8C4102403F000000, .fmulL { d := .v 4, a := .v 4, ty := .f32, sub := 0, imm := 0x3F000000 }),
    (0x1401E10700E24000, .ld { plainF with d := .v 7, a := .s 2, b := .v 7, ty := .n32, sub := 2 }),
    (0x1852627F00E00003, .cwait { plainF with d := .s 9, a := .s 4, b := .imm, imm := 3 }),
    (0x1C0025000066E012, .mmac { plainF with a := .s 10, pidx := 3, ty := .n64, sub := 7, imm := 18 }),
    (0x2C11000000E34000, .csrr { plainF with d := .s 4, ty := .n32, sub := 10 }),
    (0x2C80000000E00005, .trap { plainF with imm := 5 }) ]

/-- The sample words decode to their instructions. -/
def SampleWordsDecode : Prop := ∀ p ∈ sampleWords, decode p.1 = .ok p.2

/-- Reserved words (R51): a form of 3, an opcode that no row of R49 gives, and an L-form word of an opcode that R50 does not list. -/
def ReservedWordsRefused : Prop :=
  (∀ w, w.extractLsb' 62 2 = 3 → decode w = .error ⟨0x010, false⟩)
  ∧ (∀ w, (w.extractLsb' 62 2 = 0 ∨ w.extractLsb' 62 2 = 2) → opF (w.extractLsb' 53 9) = none → decode w = .error ⟨0x011, false⟩)
  ∧ (∀ w, w.extractLsb' 62 2 = 2 → opF (w.extractLsb' 53 9) ≠ none →
      (w.extractLsb' 53 9).toNat ∉ [1, 2, 4, 32, 33, 34, 39, 40, 43, 44, 45, 47, 58, 59, 65, 96, 97, 98, 108, 109, 110] →
      decode w = .error ⟨0x012, false⟩)

/-! ### Reset and an invariant -/

/-- What every step keeps of the management side: the main clock lies between 1.0 and 1.7 GHz, as the cap allows while no die is hot and
at 1.0 GHz while one is (R16, R341, R400); and the flash and the Bieno mailbox pages are in canonical form. -/
def MgmtInv (s : State) : Prop :=
  (1000 ≤ s.mg.cap ∧ s.mg.cap ≤ 1700) ∧ s.mg.clock = (if s.mg.hot = [] then s.mg.cap else 1000)
  ∧ s.mg.flash.wf = true ∧ ∀ e ∈ s.mg.pages, Memory.wf e.2 = true

/-- What every step keeps of the memories: global memory, hive memory and every scratchpad are in canonical form, so that equal memories
are equal data. -/
def MemInv (s : State) : Prop :=
  s.dev.mem.wf = true ∧ s.dev.hive.wf = true ∧ ∀ x ∈ s.dev.groups, x.scratch.wf = true

/-! ### Events: accesses from outside -/

/-- An event happens: exec answers a next state of which `P` holds; the agenda and the count of steps stay. -/
def Event (s : State) (i : Instr) (P : State → Prop) : Prop := ∃ u, exec i s = .next u ∧ u.agenda = s.agenda ∧ u.tick = s.tick ∧ P u

/-- An event of the compute side alone. -/
def DevEvent (s : State) (i : Instr) (P : Dev → Prop) : Prop := Event s i (fun u => u.mg = s.mg ∧ P u.dev)

/-- `n` bytes from an address lie in one page of this package's memory, which answers and can be read. -/
def OwnRam (d : Dev) (a n : Nat) : Prop :=
  0 < n ∧ a / 4096 = (a + n - 1) / 4096 ∧ (∃ die, d.cfg.place (d.cfg.norm a) = .ram die) ∧ d.power = true ∧ d.halted = false
  ∧ d.badAt (d.cfg.norm a) n = none

/-! ### Events: warps, caches and translations -/

/-- Whether a wait is a sleep that is over. -/
def sleepOver (now : Nat) : Wait → Bool
  | .sleep t => decide (t ≤ now)
  | _ => false

/-! ### Events: queues -/

/-- A kill of a queue has begun (R389): its kill is noted, and no thread of its groups is left. -/
def Killed (s : State) (d : Dev) (q : Nat) : Prop :=
  (d.queue q).kill = some s.dev.now
  ∧ ∀ g y, s.dev.group? g = some y → y.queue = q → ∃ y', d.group? g = some y' ∧ ∀ w ∈ y'.warps, w.live = 0

/-- A kill of a queue whose record is written begins, and while the record's write stalls it waits for it (R350, R389). -/
def KillBegun (s : State) (d : Dev) (q : Nat) : Prop :=
  (¬RecordStalls s.dev q → Killed s d q) ∧ (RecordStalls s.dev q → d.killWaits q = true ∧ (d.queue q).kill = none)

/-- A page of a function that a unit of a die reads or writes at one place: one translation, permitted, answering and sound. -/
def Mapped (d : Dev) (f die : Nat) (acc : Acc) (va n pa : Nat) : Prop :=
  va < 2 ^ 56 ∧ (∃ e l, d.walk die f va = .leaf e l ∧ (d.tlbFor (384 + die) f va).all (· == .leaf e l) = true ∧ pa = d.cfg.norm (leafPa e l va)
    ∧ d.permit f acc e pa = none) ∧ d.unreached die (d.cfg.place pa) = none ∧ d.badAt pa n = none

/-- Consumption of a record (R195): the entry's first dword is cleared, the consumer index advances, and the record's grid begins. -/
def Consumed (s : State) (q cons : Nat) (r : LaunchRec) (pa pi : Nat) (d : Dev) : Prop :=
  d.mem.readBytes pi 8 = toBytes 8 (cons + 1) ∧ ((pa + 8 ≤ pi ∨ pi + 8 ≤ pa) → d.mem.readBytes pa 8 = toBytes 8 0)
  ∧ ∃ y ∈ d.grids, y.id = s.dev.nextId ∧ y.queue = q ∧ y.lr = r ∧ y.next = 0 ∧ y.tvec = 0

/-! ### Events: saves (R204) -/

/-- The wait of a lane that a forced save at `t0`, restored at `t1`, gives back: a sleep goes on for the cycles it had left. -/
def waitBack (t0 t1 : Nat) : Wait → Wait
  | .mask m => .mask (m % 256)
  | .bar b => .bar (b % 256)
  | .sleep t => .sleep (t1 + (t - t0) % 2 ^ 32)
  | _ => .none

/-- A warp that a save gives back (R204): the lanes and their counters, every register that the record allocates through both banks, the
masks, predicates and result registers, the generator, the handler state, the region, the arrivals and tokens, and, of a forced save, the
waits. -/
structure WarpBack (r : LaunchRec) (gen : Nat → Word) (forced : Bool) (t0 t1 : Nat) (w w' : Warp) : Prop where
  sets : w'.live = w.live ∧ w'.handler = w.handler ∧ w'.bank = w.bank ∧ w'.ser = w.ser ∧ w'.acc = w.acc ∧ w'.rej = w.rej
  keys : w'.rngkey = w.rngkey ∧ w'.drawd = w.drawd ∧ w'.left = w.left
  lane : ∀ L, L < 32 → w'.pcOf L = w.pcOf L ∧ look 0 w'.rngctr L = look 0 w.rngctr L ∧ look 0 w'.epc L = look 0 w.epc L
    ∧ look 0 w'.ecause L = look 0 w.ecause L ∧ look .none w'.wait L = if forced then waitBack t0 t1 (look .none w.wait L) else .none
  vec : ∀ n ∈ r.vregs, n < 64 → ∀ L, L < 32 → w'.readV n L = w.readV n L
  sca : ∀ n, n < 32 → w'.readS n = w.readS n
  pred : ∀ n, n < 8 → w'.readP n = w.readP n
  mask : ∀ n, n < 12 → look 0 w'.m n = look 0 w.m n
  result : ∀ n, n < 4 → look (0, 0) w'.q n = look (0, 0) w.q n
  bars : ∀ b, b < 16 → look 0 w'.arrived b = look 0 w.arrived b
    ∧ ∀ L, L < 32 → (look none w'.tok (16 * L + b) = some (gen b) ↔ look none w.tok (16 * L + b) = some (gen b))

/-- A group that a save gives back: its barrier counters, tiles and scratchpad, and each warp with a live lane; the others have ended. -/
structure GivenBack (forced : Bool) (t0 t1 : Nat) (x x' : Group) : Prop where
  gens : ∀ b, b < 16 → look 0 x'.gens b = look 0 x.gens b
  tiles : ∀ t k, t < x.lr.acc → k < 4096 → look 0 (look [] x'.tiles t) k = look 0 (look [] x.tiles t) k
  scratch : ∀ k, k < x.lr.window → Memory.byte x'.scratch k = Memory.byte x.scratch k
  warps : ∀ (wi : Nat) (w : Warp), x.warps[wi]? = some w → ∃ w' : Warp, x'.warps[wi]? = some w'
    ∧ (w.live = 0 → w'.live = 0) ∧ (w.live ≠ 0 → WarpBack x.lr (look 0 x.gens) forced t0 t1 w w')

/-- No two pieces of memory overlap. -/
def Apart (ps : List (Nat × Nat)) : Prop := ps.Pairwise (fun p q => p.1 + p.2 ≤ q.1 ∨ q.1 + q.2 ≤ p.1)

/-- The bytes that some pieces of memory hold, in turn. -/
def heldIn (m : Memory) (ps : List (Nat × Nat)) : List Byte := ps.flatMap (fun p => m.readBytes p.1 p.2)

/-! ### Events: pre-emption and tenancy -/

/-- No L1 of a cluster holds a line, and neither its TLB nor one of its cores holds an entry. -/
def Flushed (d : Dev) (c : Nat) : Prop :=
  (∀ e ∈ d.l1, e.1 / 2 ^ 45 / 8 ≠ c) ∧ ∀ t ∈ d.tlb, t.unit ≠ 384 + c ∧ (t.unit < 384 → t.unit / 8 ≠ c)

/-- World switches (R314), revocations (R316) and the disabling of a function (R390). -/
def Residency : Prop :=
  ∀ (s : State) (c f : Nat), let k := s.dev.clu c
    (c < 48 → f < 16 → k.target = none → DevEvent s (.worldSwitchRequest c f) (fun d =>
      (k.resident = none → (d.clu c).resident = some f)
      ∧ ∀ out, k.resident = some out → out ≠ f → (d.clu c).target = some f ∧ ∀ q, d.open? q c = false))
    ∧ (k.target = some f → (∀ x ∈ s.dev.groupsAt c, k.resident ≠ some x.vf) → DevEvent s (.worldSwitchComplete c) (fun d =>
        (d.clu c).resident = some f ∧ (d.clu c).target = none ∧ Flushed d c ∧ d.mem = s.dev.mem))
    ∧ (k.borrower ≠ none → k.revoke = none → DevEvent s (.revocationStart c) (fun d => (d.clu c).revoke = some s.dev.now
        ∧ ∀ g x, s.dev.group? g = some x → x ∈ s.dev.borrowed c → x.finished = false → ∃ x', d.group? g = some x' ∧ x'.pre.revoke = true))
    ∧ (∀ t, k.revoke = some t → t + 85000 ≤ s.dev.now → DevEvent s (.revocationSaveTimeout c) (fun d =>
        ∀ g x, s.dev.group? g = some x → x ∈ s.dev.borrowed c → x.saving = none → x.finished = false →
          ∃ x', d.group? g = some x' ∧ x'.saving = some (s.dev.now, true)))
    ∧ (k.revoke ≠ none → k.borrower ≠ none → s.dev.borrowed c = [] → (∀ q ∈ k.kills, s.dev.killWaits q = false ∧ (s.dev.queue q).kill = none) →
        DevEvent s (.revocationComplete c) (fun d => (d.clu c).borrower = none ∧ (d.clu c).revoke = none ∧ Flushed d c))
    ∧ (∀ q, q ∈ k.kills → (s.dev.queue q).kill ≠ none → DevEvent s (.revocationComplete c) (fun d => d = s.dev))
    ∧ (f < 16 → (look Vf.init s.dev.vfs f).ctl.getLsbD 22 = true → DevEvent s (.vfDisable 16 f) (fun d =>
        (look Vf.init d.vfs f).ctl.getLsbD 22 = false
        ∧ (∀ q, (s.dev.queue q).vf = f → (s.dev.queue q).en = true → (s.dev.queue q).kill = none →
            (d.queue q).kill = some s.dev.now ∨ d.killWaits q = true)
        ∧ ((keysOf s.dev.drones).Nodup → ∀ i, (s.dev.drone i).evf = f → (d.drone i).state = 0)))

/-- The layout commit (R318, R340): a request is checked, the flip makes the staged layout live, and a cluster with groups keeps the
layout it runs under until it has none. -/
def LayoutCommits : Prop :=
  ∀ (s : State), s.dev.bienoHeld.contains 0 = false →
    (s.mg.prep = s.mg.lgen → Event s (.layoutPrepare 16 (s.mg.lgen + 1)) (fun u => u.dev = s.dev
      ∧ u.mg = if disjointSets (setsOf s.mg.staged) then { s.mg with prep := s.mg.lgen + 1, rej := false } else { s.mg with rej := true }))
    ∧ (s.mg.prep = s.mg.lgen + 1 → Event s .layoutFlip (fun u => u.mg = { s.mg with lgen := s.mg.prep } ∧ u.dev.parts = s.mg.staged
        ∧ u.dev.groups = s.dev.groups ∧ ∀ c, c < 48 → (u.dev.clu c).layout =
          if (s.dev.groupsAt c).isEmpty then none else some ((s.dev.clu c).layout.getD s.dev.parts)))
    ∧ (∀ c, (s.dev.clu c).layout ≠ none → s.dev.groupsAt c = [] → DevEvent s (.clusterLayoutApply c) (fun d =>
        (d.clu c).layout = none ∧ d.parts = s.dev.parts ∧ d.groups = s.dev.groups))

/-! ### Events: the window, the Bienos and power -/

/-- Command `num` stands in a die's Bieno mailbox, asked with a tag, and the Bieno is in service. -/
def Asked (s : State) (die num tag : Nat) : Prop :=
  look none s.mg.asked die = some tag ∧ s.dev.power = true ∧ s.dev.bienoHeld.contains die = false
  ∧ Memory.read (look [] s.mg.pages die) 0 4 = num

/-- The command has been answered: the status at 4 (R339), and the answer at 64, where the model has put it (DESIGN CHOICE, log 14). -/
def Answered (die st : Nat) (bs : List Byte) (u : State) : Prop :=
  look none u.mg.asked die = none ∧ Memory.read (look [] u.mg.pages die) 4 4 = st
  ∧ Memory.readBytes (look [] u.mg.pages die) 64 bs.length = bs

/-! ### Events: engine threads -/

/-- An operation of a kind under way that has not stalled. -/
def Going (s : State) (id : Nat) (k : OpKind) (op : Op) : Prop := s.dev.op? id = some op ∧ op.kind = k ∧ op.stall = none

/-- No scoreboard entry of a tile is an operation's (R237). -/
def NoHold (d : Dev) (id : Nat) : Prop := ∀ x ∈ d.groups, ∀ h ∈ x.holds, h.2 ≠ id

/-- Matrix operations (R237, R241, R242, R383): both tiles are written in one step, once the cycles of R242 have run, and a failure, once the
operation has reached the K-group that stops it, writes neither. Drains (R246): the tile is read once and then delivered, or added element by element into the peer's tile. -/
def MatrixEvents : Prop :=
  ∀ (s : State) (id : Nat) (op : Op), s.dev.op? id = some op →
    (∀ r n k z t f ran shown, op.kind = .mmac r n k z t f ran shown →
      let start := fun (g : Nat) => if z then [] else s.dev.tile g t
      let p := s.dev.engineScratch op.src op.src.g
      let q := p.1.engineScratch op.src ((f.map (·.1)).getD 0)
      let w := mmGroups (mmOf r) n k p.2 (f.map (fun _ => q.2)) (mmOf r).kg 0 (start op.src.g, start ((f.map (·.1)).getD 0))
      (mmCycles n k (mmOf r).kg ≤ ran → (s.dev.group? op.src.g).isSome = true →
        DevEvent s (.mmacCommit id) (fun d => d.op? id = none ∧ NoHold d id ∧ d.mem = s.dev.mem
          ∧ (f.map (·.1) ≠ some op.src.g → d.tile op.src.g t = w.1) ∧ ∀ y, f.map (·.1) = some y → (s.dev.group? y).isSome = true → d.tile y t = w.2))
      ∧ (ran < mmCycles n k (mmOf r).kg → DevEvent s (.mmacCommit id) (fun d => d = s.dev))
      ∧ ∀ c d5 d6, s.dev.mmFault op = some (c, d5, d6) →
          (s.dev.mmLimit op ≤ ran → DevEvent s (.mmacFailure id) (fun d => d.op? id = none ∧ NoHold d id))
          ∧ (ran < s.dev.mmLimit op → DevEvent s (.mmacFailure id) (fun d => d = s.dev)))
    ∧ (∀ r kind t u rm place key lane ctr, Going s id (.drain r kind t u rm place key lane ctr none) op →
        s.dev.badTile.contains (op.src.g, t) = false → DevEvent s (.mdrainDelivery id) (fun d => NoHold d id ∧ d.mem = s.dev.mem
          ∧ d.op? id = some { op with kind := .drain r kind t u rm place key lane ctr (some (s.dev.tile op.src.g t)) }))
    ∧ (∀ r kind t u rm place key lane ctr v d1, Going s id (.drain r kind t u rm place key lane ctr (some v)) op → kind ≠ 0 →
        s.dev.drainOut op (drainOf r) kind (drainBytes (drainOf r) (Ty.ofCode (BitVec.ofNat 4 u)) rm key lane ctr v) v = (d1, .ok ()) →
        DevEvent s (.mdrainDelivery id) (fun d => d.op? id = none ∧ (kind ≠ 1 → d.mem = d1.mem)))
    ∧ (∀ r t u rm place key lane ctr v y d1, Going s id (.drain r 0 t u rm place key lane ctr (some v)) op →
        s.dev.peerGroup op.src place (drainOf r).dst = some y → s.dev.group? y.id = some y → u < y.lr.acc → y.held u = false →
        s.dev.badTile.contains (y.id, u) = false →
        (s.dev.setTile y.id u (mkTile (fun i j => fAdd .rne (Tile.at (look [] y.tiles u) i j) (Tile.at v i j)))).arrival op.src 2 op.done 1 false
          = (d1, .ok ()) →
        DevEvent s (.peerAdd id) (fun d => d.op? id = none
          ∧ ∀ i j, i < 64 → j < 64 → Tile.at (d.tile y.id u) i j = fAdd .rne (Tile.at (s.dev.tile y.id u) i j) (Tile.at v i j)))

/-- A resolve codes its tiles in turn, while no successor holds its slot, and ends after the last (R253, R268); a message sent to a mailbox is placed (R292, R299). -/
def CodingAndDelivery : Prop :=
  ∀ (s : State) (id : Nat) (op : Op),
    (∀ no tx0 ty0 tx1 ty1 next f, Going s id (.resolve no tx0 ty0 tx1 ty1 next) op → s.dev.surf? op.src.die op.src.vf no = some f →
      ((rectTiles f.s tx0 ty0 tx1 ty1)[next]? = none → ∀ d1, s.dev.arrival op.src 2 op.done 1 false = (d1, .ok ()) →
          DevEvent s (.resolveTileCoding id) (fun d => d.op? id = none ∧ d.mem = d1.mem))
      ∧ ∀ tile d1, (rectTiles f.s tx0 ty0 tx1 ty1)[next]? = some tile → f.s.hold = 0 → s.dev.resolveTile op.src f tile = (d1, none) →
          DevEvent s (.resolveTileCoding id) (fun d => d.mem = d1.mem
            ∧ ∃ v, d.op? id = some { op with kind := .resolve no tx0 ty0 tx1 ty1 (next + 1), view := v }))
    ∧ (∀ die n msg, s.dev.op? id = some op → op.kind = .deliver die n msg → DevEvent s (.mailboxDelivery id) (fun d =>
        d.op? id = none ∧ d.mem = s.dev.mem ∧ (d.box die n).obs = (s.dev.box die n).obs
        ∧ (d.box die n).act = (s.dev.box die n).act.map (fun m => if m.id = msg then { m with placed := true } else m)))

/-! ### Events: draws -/

/-- A draw whose work can go on: it has neither failed nor stalled, its queue is not being killed, and its target is bound. -/
def Drawing (s : State) (id : Nat) (r : Draw) (f : Surf) : Prop :=
  s.dev.draw? id = some r ∧ r.failed = false ∧ r.stall = none ∧ (s.dev.queue r.queue).kill = none ∧ s.dev.targetOf r = some f

/-- The fragments of a tile that have no group yet, a warp's worth at most. -/
def waiting32 (r : Draw) (tile : Nat) : List Pending := ((look [] r.frags tile).filter (fun p => !p.placed)).take 32

/-! ### Events: drone cores -/

/-- A drone core that runs an episode and does not wait. -/
def RunsCore (s : State) (die k : Nat) : Prop :=
  die < 4 ∧ k < 32 ∧ (s.dev.drone (32 * die + k)).state = 1 ∧ (s.dev.drone (32 * die + k)).wait = .none

/-- The core steps past an instruction with a value for `rd`. -/
def SteppedTo (c c' : Drone) (rd : BitVec 5) (v len : Nat) : Prop :=
  c'.getX rd.toNat = (if rd = 0 then 0 else BitVec.ofNat 64 v) ∧ c'.pc = c.pc + BitVec.ofNat 64 len ∧ c'.state = c.state
  ∧ ∀ n, n ≠ rd.toNat → c'.getX n = c.getX n

/-- The mailbox registers of a drone core (R297): the selection, the receive, the send, the close and the counts, each on a mailbox that is
bound to the core; a core that waits at an empty FIFO owes nothing (R296), and a receive leaves in its buffer, and a send takes from there, what
the core must find there once its reads have returned every write. -/
def DroneBoxes : Prop :=
  ∀ (s : State) (die k : Nat), die < 4 → k < 32 → let i := 32 * die + k
    let c := s.dev.drone i
    let b := s.dev.box die c.sel
    c.state = 1 →
    (∀ v : DWord, c.wait = .none → DevEvent s (.dmbsel die k v) (fun d => d.boxes = s.dev.boxes
      ∧ d.drone i = { c with pc := c.pc + 4, sel := if s.dev.bound i (v.toNat % 1024) then v.toNat % 1024 else c.sel }))
    ∧ (s.dev.bound i c.sel = true →
      (∀ (rd : BitVec 5), ∀ e ∈ [(Instr.dmbrx die k rd, DroneWait.none), (.droneMailboxWaitRelease die k, .rx rd)], c.wait = e.2 →
        (b.act = [] → b.isOpen = false → DevEvent s e.1 (fun d => SteppedTo c (d.drone i) rd (statusWord b.status 0 0) 4 ∧ d.mem = s.dev.mem))
        ∧ (b.act = [] → b.isOpen = true → DevEvent s e.1 (fun d => d.drone i = { c with wait := .rx rd, owes := none } ∧ d.boxes = s.dev.boxes))
        ∧ ∀ m rest d1 ps, b.act = m :: rest → m.placed = true → s.dev.droneBytes i .st c.buf.toNat m.bytes.length = (d1, .ok ps) →
            (∀ a ∈ ps, ∀ w ∈ s.dev.past, w.spans a 1 = true → w.id ∈ c.view.seen) →
            DevEvent s e.1 (fun d => SteppedTo c (d.drone i) rd
                (statusWord (if inVersions c.win m.ver then 0 else 1) (m.bytes.length - 1) m.ver) 4
              ∧ d.box die c.sel = { b with act := rest } ∧ (d.drone i).owes.isSome = true
              ∧ (ps.Nodup → ∀ j a, ps[j]? = some a → Memory.byte d.mem a = m.bytes.getD j 0)))
      ∧ (∀ (rd : BitVec 5) (v : DWord), ∀ e ∈ [(Instr.dmbtx die k rd v, DroneWait.none), (.droneMailboxWaitRelease die k, .tx rd v)], c.wait = e.2 →
        (b.isOpen = false → DevEvent s e.1 (fun d => SteppedTo c (d.drone i) rd (statusWord b.status 0 0) 4 ∧ d.boxes = s.dev.boxes))
        ∧ (b.isOpen = true → 8 ≤ b.obs.length → DevEvent s e.1 (fun d => d.drone i = { c with wait := .tx rd v } ∧ d.boxes = s.dev.boxes))
        ∧ ∀ d1 ps, b.isOpen = true → b.obs.length < 8 → s.dev.droneBytes i .ld c.buf.toNat (v.toNat % 256 + 1) = (d1, .ok ps) →
            (∀ a ∈ ps, ∀ w ∈ s.dev.past, w.spans a 1 = true → w.id ∈ c.view.seen) →
            DevEvent s e.1 (fun d => SteppedTo c (d.drone i) rd 0 4 ∧ d.mem = s.dev.mem ∧ ∃ m : Msg, (d.box die c.sel).obs = b.obs ++ [m]
              ∧ m.bytes = ps.map (fun a => Memory.byte s.dev.mem a) ∧ m.ver = (v >>> 16).setWidth 16 ∧ m.placed = true))
      ∧ (c.wait = .none → DevEvent s (.dmbclose die k) (fun d => (d.drone i).pc = c.pc + 4
          ∧ d.box die c.sel = if b.isOpen then { b with isOpen := false, status := 2 } else b))
      ∧ (∀ rd : BitVec 5, c.wait = .none → DevEvent s (.dmbcnt die k rd) (fun d => d.boxes = s.dev.boxes
          ∧ SteppedTo c (d.drone i) rd (waitingMsgs b.act + (8 - b.obs.length) * 16 + b.status * 256) 4)))

/-- An episode that owes an observation past its budget stops with why 3 and closes the mailboxes bound to its core with status 3 (R296); one
that meets an offset outside its window stops with why 1 (R395). -/
def EpisodeEnds : Prop :=
  ∀ (s : State) (die k : Nat), die < 4 → k < 32 → let i := 32 * die + k
    let c := s.dev.drone i
    let closed := fun (d : Dev) (st : Nat) => (keysOf s.dev.boxes).Nodup → ∀ n, n < 1024 → let b := s.dev.box die n
      d.box die n = if b.core = k ∧ b.mvf = c.evf ∧ b.isOpen = true then { b with isOpen := false, status := st } else b
    c.state = 1 →
    (∀ t, c.owes = some t → c.budget ≠ 0 →
      (t + c.budget ≤ s.dev.now → DevEvent s (.episodeRunaway die k) (fun d =>
        (d.drone i).state = 2 ∧ (d.drone i).why = 3 ∧ (d.drone i).owes = none ∧ d.mem = s.dev.mem ∧ closed d 3))
      ∧ (s.dev.now < t + c.budget → DevEvent s (.episodeRunaway die k) (fun d => d = s.dev)))
    ∧ (∀ off : BitVec 48, s.dev.windowPa i off.toNat 1 = none → DevEvent s (.episodeFaultStop die k 1 off) (fun d =>
        (d.drone i).state = 3 ∧ (d.drone i).why = 1 ∧ (d.drone i).off = off.toNat ∧ d.mem = s.dev.mem ∧ closed d 4))
    ∧ (∀ (why : BitVec 8) (off : BitVec 48) pa, s.dev.windowPa i off.toNat 1 = some pa → s.dev.badAt pa 1 = none →
        DevEvent s (.episodeFaultStop die k why off) (fun d => d = s.dev))

end Sys2Proof

/-! ### The obligations -/

section
open Sys2Proof Sys2Proof.Machine

/-- Integer arithmetic (R111, R113): `add`, `sub`, `mul`, `mulh`, `mad`, `min`, `max`, `abs` and `neg` complete with the exact
result, wrapped to the type or clamped under `.sat`. -/
def Obligations.IntegerArithmetic : Prop := ∀ f l, ∀ r ∈ semsArith f l, r.Completes

/-- `div` and `rem` complete where no executing lane divides by zero (R114), and the logic instructions with their bits (R115). -/
def Obligations.DivisionAndLogic : Prop := ∀ f l, ∀ r ∈ semsDiv f ++ semsLogic f l, r.Completes

/-- Shifts, counts and bit fields complete (R116 to R118). -/
def Obligations.ShiftsAndFields : Prop := ∀ f, ∀ r ∈ semsShift f, r.Completes

/-- Comparison, selection, address arithmetic and extension complete (R119 to R121). -/
def Obligations.CompareSelectExtend : Prop := ∀ f l, ∀ r ∈ semsSelect f l, r.Completes

/-- Moves, shuffles, votes, broadcasts, scans and reads of masks and shapes complete (R80, R122 to R126, R129). That a narrow `mov` keeps the
shape A while its words have a base and a stride is the model's reading (log 19). -/
def Obligations.MovesAndVotes : Prop := ∀ f l, ∀ r ∈ semsLane f l, r.Completes

/-- Row 3's arithmetic, comparison and classes complete (R134 to R138, R141). How the correctly rounded results of R135 are formed is the model's
reading (log 11), and so is the sign of a zero that `fsub` makes of two zeros (log 25). -/
def Obligations.FloatArithmetic : Prop := ∀ f l, ∀ r ∈ semsFloat f l, r.Completes

/-- Conversions, blocks, dot products, the generator and `pchk` complete (R139, R140, R142 to R148, R176). -/
def Obligations.ConversionsAndBlocks : Prop := ∀ f, ∀ r ∈ semsConv f, r.Completes

/-- The frame of every instruction of the tables: only the destination in the executing lanes, the program counters, the
event counters and the draws change. -/
def Obligations.RegisterFrame : Prop := ∀ f l, ∀ r ∈ regSems f l, r.Frame

/-- `nop` and `rgn` complete and only step their lanes (R70, R75). `fence` completes: it changes nothing but what its lanes have met and
the order of such fences; after its acquire side every release write that a lane's reads have returned, where the two meet, happens
before what the lane does next, with all that happens before that write (R175, R182 to R185). -/
def Obligations.NoEffect : Prop :=
  ∀ (f : FWord),
    (∀ i ∈ [Instr.nop f, .rgn f], ∀ s x, i.wellFormed = true → Clear s x [] →
      OnWarp s i x (fun w' => Stepped x w' ∧ { w' with pc := x.w.pc } = x.w))
    ∧ ∀ s x, (Instr.fence f).wellFormed = true → Clear s x [] →
      ∃ u w', exec (.fence f) s = .next u ∧ u.dev.warp? x.g x.wi = some w' ∧ Stepped x w' ∧ { MetAs x.w w' with pc := x.w.pc } = x.w
        ∧ KeptElse s { u with dev := { u.dev with fences := s.dev.fences } } x
        ∧ (f.sub.toNat % 2 = 1 → ∀ L, (x.guard (fop f)).getLsbD L = true → ∀ w ∈ s.dev.past, w.id ∈ (x.w.viewOf L).seen → 0 < w.rel →
            meets (w.rel - 1) w.by_ (f.sub.toNat / 4 + 4 * (f.ty.code.toNat % 2)) (x.x.thr x.wi L) = true →
            w.id ∈ (w'.viewOf L).know ∧ ∀ i ∈ w.before, i ∈ (w'.viewOf L).know)

/-- Branches and calls (R77 to R79). -/
def Obligations.BranchesAndCalls : Prop := BranchesTaken ∧ CallsTaken

/-- Threads end (R89, R91). -/
def Obligations.ThreadsEnd : Prop := ExitEnds ∧ TailEnds

/-- Yield points and sleeps (R87, R88). -/
def Obligations.YieldAndSleep : Prop := YieldPoints ∧ Sleeps

/-- Masks (R80, R81) and serialisation regions (R83). -/
def Obligations.MasksAndRegions : Prop := MaskUpdates ∧ MaskWaits ∧ Regions

/-- Barriers (R85). -/
def Obligations.Barriers : Prop := BarrierArrivals ∧ BarrierWaits ∧ BarrierBoth

/-- `eret` in every executing lane (R356): in handler mode the lane resumes where it was interrupted, out of the handler; outside it takes
0x030, here in a grid with a handler. Nothing else changes when every lane is in handler mode. -/
def Obligations.HandlerReturn : Prop :=
  ∀ f s x, (Instr.eret f).wellFormed = true → Clear s x [] → let e := x.guard (fop f)
    (e &&& ~~~x.w.handler = 0 →
      OnWarp s (.eret f) x (fun w' => Jumped x w' e.getLsbD (look 0 x.w.epc) ∧ w'.handler = x.w.handler &&& ~~~e
        ∧ { w' with pc := x.w.pc, handler := x.w.handler, left := x.w.left } = x.w))
    ∧ (s.dev.tvecOf x.x ≠ 0 → ∃ u w', exec (.eret f) s = .next u ∧ u.dev.warp? x.g x.wi = some w' ∧ u.mg = s.mg
      ∧ (∀ L, L < 32 →
          if e.getLsbD L then
            (if x.w.handler.getLsbD L then w'.pcOf L = look 0 x.w.epc L ∧ w'.handler.getLsbD L = false
              else w'.pcOf L = s.dev.tvecOf x.x ∧ look 0 w'.epc L = x.w.pcOf L ∧ look 0 w'.ecause L = 0x030 ∧ w'.handler.getLsbD L = true)
          else w'.pcOf L = (if x.iss.getLsbD L then x.w.pcOf L + 8 else x.w.pcOf L) ∧ w'.handler.getLsbD L = x.w.handler.getLsbD L)
      ∧ { MetAs x.w w' with pc := x.w.pc, epc := x.w.epc, ecause := x.w.ecause, handler := x.w.handler, wait := x.w.wait, left := x.w.left, held := x.w.held } = x.w)

/-- Trap records (R351 to R353, R402): where its page can be written, the 64 bytes stand in the queue's trap buffer at the slot of its
number, 1,024 slots of 64 bytes at the end of the save area; one that meets V = 0 is kept, to be written later, and holds up the lanes
it was for; the number advances by one in every case. -/
def Obligations.TrapRecord : Prop :=
  ∀ (d : Dev) (q : Nat) (r : Rec) (ws : Waits),
    let k := look Queue.init d.queues q
    let t := d.translate (384 + q / 64) k.vf .st (recordVa k)
    (∀ pa sm, t.2 = .ok (pa, sm) → t.1.unreached (q / 64) (d.cfg.place pa) = none →
      (d.recordFor q r ws).2 = true ∧ (d.recordFor q r ws).1.mem.readBytes pa 64 = r.bytes k.seq d.now)
    ∧ (RecordStalls d q → (d.recordFor q r ws).2 = false ∧ (d.recordFor q r ws).1.mem = d.mem
      ∧ (∃ l : Late, (d.recordFor q r ws).1.late = d.late ++ [l] ∧ l.queue = q ∧ l.va = recordVa k ∧ l.bytes = r.bytes k.seq d.now)
      ∧ ∀ w', (d.recordFor q r ws).1.warp? ws.group ws.warp = some w' → w'.live &&& ws.lanes &&& ~~~w'.held = 0)
    ∧ (look Queue.init (d.recordFor q r ws).1.queues q).seq = k.seq + 1

/-- `vred` completes: the value of the tree of the executing lanes stands in the result register and its sequence number
has advanced by one; with no executing lane nothing is written (R127). -/
def Obligations.Reduction : Prop :=
  ∀ f s x n, (Instr.vred f).wellFormed = true → f.d = .q n → Clear s x [(f.d, 1), opUse (fop f) f.a] →
    OnWarp s (.vred f) x (fun w' => Stepped x w'
      ∧ (∀ k, look (0, 0) w'.q k = if k = n.toNat ∧ x.guard (fop f) ≠ 0 then
          (tyImage f.ty ((laneTree (combine (f.sub.toNat % 8) f.ty)
            (fun L => if (x.guard (fop f)).getLsbD L then some (opVal (fop f) f.a x L) else none) 5 0).getD 0), (look (0, 0) x.w.q k).2 + 1)
          else look (0, 0) x.w.q k)
      ∧ { w' with pc := x.w.pc, q := x.w.q } = x.w)

/-- `qget` completes when the sequence number has reached the expected one: the scalar destination holds the value (R72, R128). -/
def Obligations.ResultRead : Prop :=
  ∀ f s x n, (Instr.qget f).wellFormed = true → f.a = .q n → Clear s x [(f.d, 1), (f.a, 1), (f.b, 1)] → x.guard (fop f) ≠ 0 → NoQget x.w →
    ((look (0, 0) x.w.q n.toNat).2.toNat + 2 ^ 16 - (x.val (fop f) .n64 f.b 0).toNat % 2 ^ 16) % 2 ^ 16 < 2 ^ 15 →
    OnWarp s (.qget f) x (fun w' => Stepped x w' ∧ (∀ L, Holds w' .n64 f.d L (look (0, 0) x.w.q n.toNat).1)
      ∧ KeptRegs x.w w' (f.d, 1) (x.guard (fop f)) 0)

/-- Loads complete (R165 to R170). -/
def Obligations.Loads : Prop := ∀ f, ∀ r ∈ semsLoad f, r.Completes

/-- Stores complete: each lane's bytes stand at its address, and every other byte of every space is as before. -/
def Obligations.Stores : Prop := ∀ f, ∀ r ∈ semsStore f, r.Completes

/-- Atomics complete: the lanes read and write in turn, lowest first (R165, R167, R168, R171, R173). -/
def Obligations.Atomics : Prop := ∀ f, ∀ r ∈ semsAtomic f, r.Completes

/-- Presence of scratchpad lines (R177) and prefetches (R178). -/
def Obligations.LinesAndPrefetch : Prop := LineClears ∧ Prefetches

/-- Control registers (R324, R326, R347). -/
def Obligations.ControlRegisters : Prop := CsrReads ∧ CsrWrites

/-- Taking a trap (R344, R346, R348 to R351, R389, R394, R402): entry, the kill where there is no handler to enter, and a division of which
some lanes trap and the others go on. -/
def Obligations.Traps : Prop := TrapEntry ∧ TrapKills ∧ MixedDivision

/-- The proposal bank (R304 to R306). -/
def Obligations.Proposals : Prop := BankOpenClose ∧ BankDecision ∧ BankCounters

/-- Mailboxes from warps (R291 to R299). -/
def Obligations.Mailboxes : Prop := MailboxSends ∧ MailboxReceives ∧ MailboxReads

/-- `lnch` completes where the ring has room (R195, R205): the entry at the producer index holds the record with its top
bit set. `b` is what the record's load reads; `d2` to `pr` are the indexes and the places of the ring. -/
def Obligations.Launch : Prop :=
  ∀ f s x d1 b d2 p c d3 pi d4 pr,
    let q := (scalarVal f f.b x).toNat
    let k := look Queue.init s.dev.queues q
    ClearScalar s (.lnch f) x (fop f) [(f.a, 1), (f.b, 1)] → (scalarVal f f.a x).toNat % 64 = 0 → q < 256 → k.vf = x.x.vf → k.en = true →
    s.dev.laneLoad x (x.guard (fop f)) [] (scalarVal f f.a x).toNat 64 = (d1, .ok b) → b.2.length = 64 →
    d1.indexes x.x.die k = (d2, .ok (p, c)) → (p + 2 ^ 64 - c) % 2 ^ 64 < k.slots →
    d2.vplace k.vf x.x.die .rmw k.idxAddr 8 = (d3, .ok pi) → d3.vplace k.vf x.x.die .st (k.ringBase + 64 * (p % k.slots)) 64 = (d4, .ok pr) →
    Does s (.lnch f) x (fun u _ => u.dev.mem.readBytes pr 64 = toBytes 8 (ofBytes (b.2.take 8) % 2 ^ 63 + 2 ^ 63) ++ b.2.drop 8
      ∧ ((pi + 8 ≤ pr ∨ pr + 64 ≤ pi) → u.dev.mem.readBytes pi 8 = toBytes 8 (p + 1)))

/-- `cpy`, `cjob` and `coll` complete where the engine has room and no rule refuses their records: the thread is forked (R218, R226,
R230, R232). -/
def Obligations.EngineCopies : Prop :=
  ∀ f s x, let e := x.guard (fop f)
    (∀ a, let r := recordAt f x 6
      ClearScalar s (.cpy f) x (fop f) [(f.a, 6)] → s.dev.cpRefuse x.x r = none → s.dev.copies x.x.core < 32 →
      ((cpOf r).crc = true → Reaches1 s.dev x.x 0 (.ld false) ((cpOf r).done + 8) 4 a ∧ UpToDate s.dev x a 4) →
      Does s (.cpy f) x (fun u _ => LinesCleared u x (cpOf r).lines ∧ Forked s u x e (cpOf r).done (.copy r x.w.rngkey (lowest e)
        (look 0 x.w.rngctr (lowest e)) (if (cpOf r).crc then BitVec.ofNat 32 (Memory.read s.dev.mem a 4) else 0) 0)))
    ∧ (∀ a, let v := (scalarVal f f.a x).toNat
      let r := (List.range 8).map (fun k => (BitVec.ofNat 64 (Memory.read s.dev.mem a 64 / 2 ^ (64 * k)) : DWord)) ++ [BitVec.ofNat 64 v]
      ClearScalar s (.cjob f) x (fop f) [(f.a, 1)] → s.dev.cards x.x.die < 256 → Reaches1 s.dev x.x 0 (.ld false) v 64 a →
      UpToDate s.dev x a 64 →
      Does s (.cjob f) x (fun u _ => LinesCleared u x ((cardOf r).lines x.x.lr.window) ∧ Forked s u x e (cardOf r).done (.card r 0)))
    ∧ (let r := recordAt f x 5
      ClearScalar s (.coll f) x (fop f) [(f.a, 5)] → (collOf r).bad = false → s.dev.colls x.x.die < 16 →
      Does s (.coll f) x (fun u _ => Forked s u x e (collOf r).done (.coll r (f.sub.toNat % 4) (f.sub.toNat / 4) f.ty none)))

/-- `mmac`, `mdrain` and `sres` complete where no rule refuses them and their arrays are free: the thread is forked, and an
operation on a tile holds it (R237, R239, R241, R245, R268). -/
def Obligations.EngineTiles : Prop :=
  ∀ f s x, let e := x.guard (fop f)
    (∀ y, let r := recordAt f x 5
      let t := f.imm.toNat % 16
      ClearScalar s (.mmac f) x (fop f) [(f.a, 5)] → t < x.x.lr.acc →
      s.dev.mmRefuse x.x (mmOf r) (f.sub.toNat + 1) (f.ty.code.toNat + 1) t (f.imm.getLsbD 5) = .ok y →
      s.dev.onArray x.x.core = none → (∀ z, y = some z → s.dev.onArray z.core = none ∧ z.held t = false) →
      Does s (.mmac f) x (fun u _ => Forked s u x e 0 (.mmac r (f.sub.toNat + 1) (f.ty.code.toNat + 1) (f.imm.getLsbD 4) t (y.map (fun z => (z.id, z.core))) 0 0)
        ∧ ∃ y', u.dev.group? x.g = some y' ∧ (t, s.dev.nextId) ∈ y'.holds))
    ∧ (let r := recordAt f x 3
      let kind := f.imm.toNat / 2048
      let t := f.sub.toNat
      ClearScalar s (.mdrain f) x (fop f) [(f.a, 3)] → t < x.x.lr.acc → s.dev.drainRefuse x.x (drainOf r) kind (f.imm.toNat % 512) f.ty = none →
      Does s (.mdrain f) x (fun u _ => Forked s u x e (drainOf r).done (.drain r kind t f.ty.code.toNat (f.imm.toNat % 8) (f.imm.toNat % 512)
          x.w.rngkey (lowest e) (look 0 x.w.rngctr (lowest e)) none)
        ∧ ∃ y', u.dev.group? x.g = some y' ∧ (t, s.dev.nextId) ∈ y'.holds))
    ∧ (∀ g tx0 ty0 tx1 ty1, let no := f.imm.toNat % 256
      ClearScalar s (.sres f) x (fop f) ((f.a, 1) :: (if f.sub.toNat % 2 = 1 then [] else [(f.b, 1)])) →
      s.dev.surf? x.x.die x.x.vf no = some g → g.s.hold = 0 →
      sresRect g.s (f.sub.toNat % 2 == 1) (scalarVal f f.b x).toNat = some (tx0, ty0, tx1, ty1) →
      s.dev.tableGap g (rectTiles g.s tx0 ty0 tx1 ty1) = none →
      Does s (.sres f) x (fun u _ => Forked s u x e (bits (scalarVal f f.a x).toNat 3 53 * 8) (.resolve no tx0 ty0 tx1 ty1 0)))

/-- Semaphores (R207) and completion objects (R231). -/
def Obligations.SemaphoresAndObjects : Prop := SemaphoreOps ∧ ObjectReads

/-- `mzero`, `mload` and `mstat` complete (R244, R248): a tile of zeros; a tile of the converted elements of 64 rows of scratchpad; the
state of an array, 0 when idle: the operation's role, and to its own groups the tile, N, M and the K-groups left, of which there are
no more than an earlier read showed and the cycles run leave, and no fewer than could not have been read yet. -/
def Obligations.Tiles : Prop :=
  ∀ f s x, let t := f.imm.toNat % 16
    (ClearScalar s (.mzero f) x (fop f) [] → t < x.x.lr.acc →
      Does s (.mzero f) x (fun u _ => ∃ y', u.dev.group? x.g = some y' ∧ ∀ k, k < 16 → look [] y'.tiles k = if k = t then [] else look [] x.x.tiles k))
    ∧ (let a := (scalarVal f f.a x).toNat
      let b := (scalarVal f f.b x).toNat
      let z := f.ty.width / 8
      ClearScalar s (.mload f) x (fop f) [(f.a, 1), (f.b, 1)] → t < x.x.lr.acc → a % 64 = 0 → b % 64 = 0 → 64 * z ≤ b → a + 63 * b + 64 * z ≤ x.x.lr.window →
      (∀ i, i < 64 → s.dev.awaited x (a + i * b) (64 * z) = [] ∧ UpToDate s.dev x (scratchPlace x.g (a + i * b)) (64 * z) ∧ s.dev.sramBad (scratchGran x.g) true (a + i * b) (64 * z) = none) →
      Does s (.mload f) x (fun u _ => ∃ y', u.dev.group? x.g = some y' ∧ ∀ i j, i < 64 → j < 64 →
        Tile.at (look [] y'.tiles t) i j = BitVec.ofNat 32 (fCvt .f32 f.ty .rne 0 (Memory.read x.x.scratch (a + i * b + j * z) z))))
    ∧ (ClearScalar s (.mstat f) x (fop f) [(f.d, 1)] →
      (s.dev.onArray x.x.core = none → Does s (.mstat f) x (fun _ w' => ∀ L, Holds w' .n64 f.d L 0))
      ∧ (∀ op r n k z tl fo ran shown, s.dev.onArray x.x.core = some op → op.kind = .mmac r n k z tl fo ran shown →
          let role := if op.src.core ≠ x.x.core then 2 else if fo.isSome then 1 else 3
          let kg := (mmOf r).kg
          let known := max shown op.mmDone
          Does s (.mstat f) x (fun _ w' => ∃ left, left ≤ kg - known ∧ kg ≤ left + max known (ran / mmRate n k) ∧ ∀ L, Holds w' .n64 f.d L
            (BitVec.ofNat 64 (1 + role * 2 + (if op.src.g = x.g ∨ fo.map (·.1) = some x.g
              then 8 + tl * 2 ^ 4 + (n - 1) * 2 ^ 8 + (k - 1) * 2 ^ 12 + left * 2 ^ 16 else 0))))))

/-- Surfaces: accesses to staged tiles (R265 to R267) and bindings (R264). -/
def Obligations.Surfaces : Prop := SurfaceLoads ∧ SurfaceStores ∧ CoefficientStores ∧ SurfaceBinds

/-- The culls complete (R275): the predicate of an executing lane says whether its triangle is culled; `cullhz` where a
vertex is not a number, which culls, or one lies at or behind the eye, which does not. That the fields of an unbound target read 0
here is the model's choice (log 18). -/
def Obligations.Culls : Prop :=
  ∀ f s x r vs, Clear s x [(f.d, 1), (f.a, 1), (f.b, 1)] → Triangles f s x r vs →
    let t := s.dev.slotOfDraw r
    (∀ i ∈ ([(.cullbf f, fun v => screenCull t.w t.h v (backFace (f.sub.toNat % 2 == 1))), (.cullfr f, frustumCull),
        (.cullsm f, fun v => screenCull t.w t.h v smallCull)] : List (Instr × (List Vert → Bool))), i.1.wellFormed = true →
      OnWarp s i.1 x (fun w' => Stepped x w' ∧ KeptRegs x.w (MetAs x.w w') (f.d, 1) (x.guard (fop f)) 0
        ∧ ∀ L, (x.guard (fop f)).getLsbD L = true → Holds w' .n32 f.d L (ofBool (i.2 (vs L)))))
    ∧ ((Instr.cullhz f).wellFormed = true → (∀ L, (x.guard (fop f)).getLsbD L = true → (vs L).any Vert.nan = true ∨ (vs L).all Vert.front = false) →
      OnWarp s (.cullhz f) x (fun w' => Stepped x w' ∧ KeptRegs x.w (MetAs x.w w') (f.d, 1) (x.guard (fop f)) 0
        ∧ ∀ L, (x.guard (fop f)).getLsbD L = true → Holds w' .n32 f.d L (ofBool ((vs L).any Vert.nan))))

/-- `pexp` completes: the executing lanes of the lowest open packet, which never waits for room (R282), export in lane order, and a
draw that has failed takes nothing more (R388); `.fin` closes the warp's packet and the warp names no draw any more (R273, R276). The order in which planes and edges clip is the model's
reading (log 18). -/
def Obligations.PrimitiveExport : Prop :=
  ∀ f s x r, (Instr.pexp f).wellFormed = true →
    let packet := x.x.gid * x.x.lr.nwarps + x.wi
    (∀ vs, f.sub.toNat % 2 = 0 → Clear s x [(f.a, 1), (f.b, 1), (f.c, 1)] → Triangles f s x r vs → r.lowestOpen = some packet ∨ r.failed = true →
      let es := if r.failed then [] else exportsFrom (s.dev.slotOfDraw r) packet (fun L => (x.val (fop f) .n32 f.c L).setWidth 32) vs
        (lanesOf (x.guard (fop f))) (look 0 r.counts packet)
      Does s (.pexp f) x (fun u w' => { MetAs x.w w' with pc := x.w.pc } = x.w ∧ ∃ r' more, u.dev.draw? r.id = some r'
        ∧ r'.exports = r.exports ++ more ∧ more.map (fun e => { e with know := [] }) = es
        ∧ look 0 r'.counts packet = look 0 r.counts packet + es.length ∧ { r' with exports := r.exports, counts := r.counts } = r))
    ∧ (f.sub.toNat % 2 = 1 → Clear s x [] → x.guard (fop f) ≠ 0 → x.w.draw.bind s.dev.draw? = some r →
      Does s (.pexp f) x (fun u w' => w'.draw = none ∧ (∀ i, i ∈ w'.drawn ↔ i ∈ x.w.drawn ∧ i ≠ r.id)
        ∧ ∃ r', u.dev.draw? r.id = some r' ∧ r' = { r with closed := packet :: r.closed }))

/-- `isectb` and `isectt` complete where every lane's records can be read: the two or three result registers hold each executing
lane's results (R284, R285). -/
def Obligations.Intersections : Prop :=
  ∀ f, ∀ i ∈ ([(.isectb f, 2, Dev.boxLane), (.isectt f, 3, Dev.triLane)] :
      List (Instr × Nat × (Dev → Ix → LaneSet → Ray → List Nat → Nat → Er (List Nat × List Word)))), ∀ s x n res,
    i.1.wellFormed = true → f.d = .v n → Clear s x [(f.d, i.2.1), (f.a, 9), useAt .n64 f.b] → x.x.lr.isCompact (f.d, i.2.1) = false →
    raysInTurn i.2.2 x (fop f) (lanesOf (x.guard (fop f))) s.dev [] = some res →
    Does s i.1 x (fun _ w' => KeptRegs x.w (MetAs x.w w') (f.d, i.2.1) (x.guard (fop f)) 0
      ∧ ∀ L k, (x.guard (fop f)).getLsbD L = true → k < i.2.1 → w'.readV (n.toNat + k) L = ((res.lookup L).getD []).getD k 0)

/-- `pix`, `fdisc` and `fdep` complete in a group of a raster unit (R281): the fragments of the executing lanes take a colour, are
discarded, or take a depth. -/
def Obligations.Fragments : Prop :=
  ∀ f, ∀ i ∈ ([(.pix f, [(f.a, 1)], fun _ => false, fun v g => { g with colour := some v }),
        (.fdisc f, [], fun r => r.nodisc, fun _ g => { g with disc := true }),
        (.fdep f, [(f.a, 1)], fun r => r.nodepth, fun v g => { g with depth := v })] :
      List (Instr × List Use × (LaunchRec → Bool) × (Word → Frag → Frag))), ∀ s x,
    i.1.wellFormed = true → Clear s x i.2.1 → x.x.pixel.isSome = true → i.2.2.1 x.x.lr = false →
    OnWarp s i.1 x (fun w' => Stepped x w' ∧ { w' with pc := x.w.pc, frag := x.w.frag } = x.w
      ∧ ∀ L, look none w'.frag L = if (x.guard (fop f)).getLsbD L
          then (look none x.w.frag L).map (i.2.2.2 ((x.val (fop f) .n32 f.a L).setWidth 32)) else look none x.w.frag L)

/-- A pair completes (R45, R47): every issuing lane holds both halves' results on the registers as they stood before either
half wrote, and no other register changes. -/
def Obligations.PairResult : Prop :=
  ∀ h1 h2 s x, (Instr.pFormPair h1 h2).wellFormed = true → Clear s x (halfDst h1 ++ halfDst h2 ++ (halfUses h1 ++ halfUses h2)) →
    (∀ h ∈ [h1, h2], (halfDst h).any x.x.lr.isCompact = true → x.iss = x.w.live ∧ x.halfShape h ≠ .g) →
    OnWarp s (.pFormPair h1 h2) x (fun w' => Stepped x w'
      ∧ (∀ h ∈ [h1, h2], h.op ≠ .hnop → ∀ L, x.iss.getLsbD L = true →
          w'.readV h.d.toNat L = pairVal h.op (x.w.readV h.d.toNat L) (pairSrc x h L))
      ∧ (∀ n L, x.w.live.getLsbD L = true → (x.iss.getLsbD L = false ∨ ∀ h ∈ [h1, h2], h.op = .hnop ∨ h.d.toNat ≠ n) →
          w'.readV n L = x.w.readV n L)
      ∧ { w' with pc := x.w.pc, v := x.w.v, prop := x.w.prop } = x.w)

/-- Every well-formed instruction that has a word is read back from it, with every operand (R35 to R51). -/
def Obligations.EncodeThenDecode : Prop := ∀ i w, encode i = some w → i.wellFormed = true → decode w = .ok i

/-- Every word that is an instruction is the word of that instruction, which is well formed: no bit of it is dropped (R35 to R51). -/
def Obligations.DecodeThenEncode : Prop := ∀ w i, decode w = .ok i → encode i = some w ∧ i.wellFormed = true

/-- The sample words decode, and reserved words are refused (R36 to R51). -/
def Obligations.Words : Prop := SampleWordsDecode ∧ ReservedWordsRefused

/-- A step whose move is an issue runs the word that the issuing lanes fetch (R57, R201): the word at their counter, translated for
fetching, after the loads of the warp that it may not outrun are performed (R186). A step whose move ends a rest runs the word that the arrival
issued, in its lanes, unless an operation holds its tile (R60, R237). A step whose move is an event runs the
event; what the part does not answer does nothing. With nothing queued the move is the first that is due, and otherwise one of the
machine's own (log 1). -/
def Obligations.StepRunsDecoded : Prop :=
  ∀ s : State,
    (∀ g wi rest x w d1 pa sm v, s.agenda = .issue g wi :: rest →
      let d := s.advance.dev
      let L := w.issuing
      let pc := w.pcOf (lowest L)
      let i := (decode v).instr
      let t : State := { s.advance with
        agenda := rest
        dev := { ((d1.settleFor g wi i).noteIssue g wi x w).modWarp g wi (fun y => (y.begin L pc v).gain L (x.tileJoin w i pc)) with
          cur := some ⟨g, wi, L, pc, v, 0⟩ } }
      d.group? g = some x → d.warp? g wi = some w → x.ready w = true → d.translate x.core x.vf .fetch pc.toNat = (d1, .ok (pa, sm)) →
      d1.fetchFault x.die pc.toNat pa = none → d1.words x.grid pa = [v] → x.hazard w i = none → t.dev.admits i = true →
      step s = exec i t)
    ∧ (∀ arr rest r x w, s.agenda = .resume arr :: rest →
      let d := s.advance.dev
      let i := (decode r.word).instr
      let t : State := { s.advance with
        agenda := rest, dev := { (d.settleLoads r.g r.w).modWarp r.g r.w (·.setWait (w.restingIn arr) .none) with cur := some ⟨r.g, r.w, w.restingIn arr, r.pc, r.word, arr⟩ } }
      d.rested.find? (·.arr == arr) = some r → d.group? r.g = some x → d.warp? r.g r.w = some w → w.restingIn arr ≠ 0 → x.saving = none →
      (∀ t, instrTile i = some t → x.held t = false) → t.dev.admits i = true → step s = exec i t)
    ∧ (∀ i rest, s.agenda = .event i :: rest →
        let t : State := { s.advance with agenda := rest }
        step s = if t.dev.admits i then exec i t else .next t)
    ∧ (s.agenda = [] →
        (∀ i is, s.advance.dev.due = i :: is → step s = runMove (.event i) s.advance)
        ∧ (s.advance.dev.due = [] → if s.advance.moves = [] then step s = .next s.advance else ∃ m ∈ s.advance.moves, step s = runMove m s.advance))

/-- Reset leaves the values that the spec gives: the clock (R16), the power cap (R341), the deadline of a queue (R194), a function's
weight and class (R311), closed mailboxes (R290), semaphores at 0 (R207), no surface bound (R249), no layout committed (R312); and,
by the model's choice (log 3), memory in which nothing is listed. -/
def Obligations.ResetValues : Prop :=
  State.reset.mg.clock = 1700 ∧ State.reset.mg.capW = 3200
  ∧ (∀ q, (State.reset.dev.queue q).dl = 0x30D40 ∧ (State.reset.dev.queue q).en = false)
  ∧ (∀ f, (look Vf.init State.reset.dev.vfs f).ctl = 0x30FFFF)
  ∧ (∀ die n, (State.reset.dev.box die n).isOpen = false ∧ (State.reset.dev.box die n).status = 5)
  ∧ (∀ n, State.reset.dev.sem n = 0) ∧ (∀ k, look none State.reset.dev.slots k = none)
  ∧ State.reset.mg.lgen = 0 ∧ (∀ n, look ⟨0, 0⟩ State.reset.dev.parts n = ⟨0, 0⟩)
  ∧ State.reset.dev.groups = [] ∧ State.reset.dev.mem = []

/-- The invariants of the management side and of the memories hold at reset. -/
def Obligations.ResetInvariant : Prop := MgmtInv State.reset ∧ MemInv State.reset

/-- Every step, whatever the instruction or event, keeps the invariant of the management side, and that of the memories. -/
def Obligations.StepInvariant : Prop :=
  ∀ s t, step s = .next t → (MgmtInv s → MgmtInv t) ∧ (MemInv s → MemInv t)

/-- Host, remote and RDMA accesses (R152, R155, R332, R335): writes store their bytes, reads are given the bytes and recall the L1 copies
of their lines, atomics are performed at
the home and given the old value; a send reaches its queue pair, and a node that does not answer is noted (R373). -/
def Obligations.OutsideAccess : Prop :=
  ∀ (s : State) (tag node : Nat) (a : BitVec 52), let pa := s.dev.cfg.norm a.toNat
    (∀ bs, ∀ i ∈ [Instr.hostMemoryWrite ⟨node, tag⟩ a bs, .remoteAccess node a (.write bs), .rdmaWrite node a bs], tag ≤ 16 → OwnRam s.dev a.toNat bs.length →
      DevEvent s i (fun d => d.mem = Memory.writeBytes s.dev.mem pa bs ∧ d.hive = s.dev.hive ∧ d.groups = s.dev.groups))
    ∧ (∀ n, ∀ i ∈ [Instr.hostMemoryRead ⟨node, tag⟩ a n, .remoteAccess node a (.read n), .rdmaRead node a n], tag ≤ 16 → OwnRam s.dev a.toNat n →
      Event s i (fun u => { u.dev with l1 := s.dev.l1 } = s.dev ∧ (∀ e, e ∈ u.dev.l1 ↔ e ∈ s.dev.l1 ∧ e.1 % 2 ^ 45 ∉ unitsOf 128 pa n)
        ∧ u.mg = { s.mg with host := Memory.readBytes s.dev.mem pa n }))
    ∧ (∀ (op : BitVec 4) (t : Ty) (x y : DWord), ∀ r ∈ ([(.rdmaFetchAdd node a x, 8, fun o => some (o + x)),
          (.rdmaCompareSwap node a x y, 8, fun o => if o = x then some y else none),
          (.remoteAccess node a (.atomic op t x), t.width / 8, fun o => some (atomResult op.toNat t o x)),
          (.remoteAccess node a (.cas t x y), t.width / 8, fun o => if o = BitVec.ofNat 64 (x.toNat % 2 ^ t.width) then some y else none)] :
          List (Instr × Nat × (DWord → Option DWord))), OwnRam s.dev a.toNat r.2.1 → a.toNat % r.2.1 = 0 →
        let old : DWord := BitVec.ofNat 64 (Memory.read s.dev.mem pa r.2.1)
        Event s r.1 (fun u => u.mg = { s.mg with host := toBytes r.2.1 old.toNat } ∧ u.dev.mem = match r.2.2 old with
          | some v => Memory.writeBytes s.dev.mem pa (toBytes r.2.1 v.toNat)
          | none => s.dev.mem))
    ∧ (∀ qp bs, qp < 4096 → s.dev.power = true → s.dev.halted = false → Event s (.rdmaSend node qp bs) (fun u => u.dev = s.dev
        ∧ ∀ k, look [] u.mg.rdma k = if k = qp then look [] s.mg.rdma qp ++ [bs] else look [] s.mg.rdma k))
    ∧ (0 < node → node ≤ 255 → node ≠ s.dev.cfg.node → DevEvent s (.remoteAccessTimeout node) (fun d =>
        { d with downNode := s.dev.downNode } = s.dev ∧ ∀ n, d.downNode.contains n = (s.dev.downNode.contains n || n == node)))

/-- Sleepers whose count has passed step on (R87); an arrival that rests goes on once what it waits for holds (R60); the lanes of a parked
sub-warp whose addresses all translate now are parked no longer, and otherwise all of them enter the handler (R345, R364). -/
def Obligations.LanesResume : Prop :=
  ∀ (s : State) (g wi : Nat) (x : Group) (w : Warp), s.dev.group? g = some x → s.dev.warp? g wi = some w →
    DevEvent s (.sleepExpiry g wi) (fun d => ∃ w', d.warp? g wi = some w' ∧ { w' with pc := w.pc, wait := w.wait } = w
      ∧ ∀ L, L < 32 → if w.live.getLsbD L && sleepOver s.dev.now (look .none w.wait L)
          then w'.pcOf L = w.pcOf L + 8 ∧ look .none w'.wait L = .none
          else w'.pcOf L = w.pcOf L ∧ look .none w'.wait L = look .none w.wait L)
    ∧ (∀ (arr : Nat), w.restingIn arr ≠ 0 → x.saving = none → w.held &&& w.restingIn arr = 0 →
        (∀ L, (w.restingIn arr).getLsbD L = true → s.dev.restOver x w (look .none w.wait L) = true) →
        exec (.laneRestRelease g wi arr) s = .next { s with agenda := .resume arr :: s.agenda })
    ∧ (∀ (arr : Nat), s.dev.serviceUp x.die = true → (∀ L h d5 d6, look .none w.wait L ≠ .rest arr (.segment h d5 d6)) →
        let parked := fun L => (look none w.park L).any (·.arr == arr)
        let found := fun L => ∃ p e l, look none w.park L = some p ∧ s.dev.walk x.die x.vf p.va = .leaf e l
        (∀ L, L < 32 → parked L = true → w.held.getLsbD L = false) →
        ((∀ L, L < 32 → parked L = true → found L) → DevEvent s (.faultServiceRewalk g wi arr) (fun d => ∃ w', d.warp? g wi = some w'
          ∧ { w' with park := w.park } = w ∧ ∀ L, L < 32 → look none w'.park L = if parked L then none else look none w.park L))
        ∧ ((∃ L, L < 32 ∧ parked L = true ∧ ¬found L) → (∀ L, L < 32 → parked L = true → w.handler.getLsbD L = false) → s.dev.tvecOf x ≠ 0 →
          DevEvent s (.faultServiceRewalk g wi arr) (fun d => ∃ w', d.warp? g wi = some w' ∧ ∀ L, L < 32 → parked L = true →
            look none w'.park L = none ∧ w'.handler.getLsbD L = true ∧ w'.pcOf L = s.dev.tvecOf x ∧ look 0 w'.epc L = w.pcOf L)))

/-- Evictions, scrubs and invalidations (R156, R170, R334, R370, R372): an evicted line leaves its cache and no byte changes, and an L1 evicts a
line that its set has as next victim before any other; but a dirty line
that is lost reads as zeros and kills its owner's queue; a scrub records a word that cannot be corrected; a write of `tlbinv`
removes the named translations, and its end clears the busy bit. The numbers of an eviction (a core's L1 below 384, a bank of L2 below 432,
a directory entry above) and of a field of 256 and more (a proposal copy) are the model's choice (log 12). -/
def Obligations.CachesAndScrubs : Prop :=
  ∀ s : State,
    (∀ core line, core < 384 → s.dev.mayEvict core line = false → DevEvent s (.l1Eviction core line false) (fun d => d = s.dev))
    ∧ (∀ core line, line < 2 ^ 45 → (core < 384 → s.dev.mayEvict core line = true) → DevEvent s (.l1Eviction core line false) (fun d => d.mem = s.dev.mem
      ∧ (∀ k, (core < 384 → k = core) → d.l1At k line = 0) ∧ (384 ≤ core → core < 432 → look 0 d.owner line = 0)))
    ∧ (∀ core line, (if core < 384 then l1State (s.dev.l1At core line) ≥ 3 else core < 432 ∧ look 0 s.dev.owner line ≠ 0) →
        DevEvent s (.l1Eviction core line true) (fun d => (∀ k, k < 128 → Memory.byte d.mem (128 * line + k) = 0) ∧ look 0 d.owner line = 0
          ∧ ∀ q, look 0 s.dev.owner line = 2 + q → (s.dev.queue q).en = true → (d.queue q).kill ≠ none ∨ d.killWaits q = true))
    ∧ (∀ g wi (f : BitVec 9) L, DevEvent s (.registerScrub g wi f L false) (fun d => d = s.dev))
    ∧ (∀ g wi (f : BitVec 9) L x w, s.dev.group? g = some x → s.dev.warp? g wi = some w → x.lr.holdsField f.toNat = true → L < 32 →
        (∀ l ∈ s.dev.lags, ¬(l.g = g ∧ l.w = wi)) →
        DevEvent s (.registerScrub g wi f L true) (fun d => d.groups = s.dev.groups
          ∧ d.badReg.contains (g, wi, f.toNat, if f.toNat < 64 ∨ f.toNat ≥ 256 then L else 0) = true
          ∧ (d.queue x.queue).seq = (s.dev.queue x.queue).seq + 1))
    ∧ (∀ tag v, s.dev.tlbinv.getLsbD 5 = false → DevEvent s (.tlbInvalidate tag v) (fun d =>
        if tag = 16 then d.tlbinv.getLsbD 5 = true ∧ d.mem = s.dev.mem ∧ ∀ t, t ∈ d.tlb ↔ t ∈ s.dev.tlb
          ∧ ¬(t.vf = v.toNat % 16 ∧ (v.getLsbD 4 = true ∨ t.page * 4096 / leafSpan t.leaf t.level = v.toNat / 4096 % 2 ^ 44 * 4096 / leafSpan t.leaf t.level))
        else d = s.dev))
    ∧ DevEvent s .tlbInvalidateDone (fun d => d.tlbinv.getLsbD 5 = false ∧ { d with tlbinv := s.dev.tlbinv } = s.dev)

/-- Writes of `qctl` (R194, R202, R351, R389): enabling starts the trap sequence at 1; disabling a queue with groups kills it; setting
preq raises the request of its groups and wakes their sleepers; clearing it withdraws the request, gives up the saves that are not yet
written and releases yielding lanes (R88). -/
def Obligations.QueueControl : Prop :=
  ∀ (s : State) (tag q : Nat), q < 256 → (tag = 16 ∨ tag = (s.dev.queue q).vf) → (s.dev.queue q).kill = none → s.dev.killWaits q = false →
    ((s.dev.queue q).en = false → DevEvent s (.queueEnable tag q) (fun d => (d.queue q).en = true ∧ (d.queue q).seq = 1
      ∧ d.mem = s.dev.mem ∧ d.groups = s.dev.groups ∧ ∀ k, k ≠ q → d.queue k = s.dev.queue k))
    ∧ ((s.dev.queue q).en = true → DevEvent s (.queueDisableKill tag q) (fun d =>
        if s.dev.holdsGroups q then KillBegun s d q
        else (d.queue q).en = false ∧ d.groups = s.dev.groups ∧ d.mem = s.dev.mem))
    ∧ ((s.dev.queue q).preq = false → DevEvent s (.preemptionRequest tag q) (fun d => (d.queue q).preq = true ∧ d.mem = s.dev.mem
        ∧ ∀ g y, s.dev.group? g = some y → y.queue = q → y.finished = false → ∃ y', d.group? g = some y' ∧ y'.pre.preq = true
          ∧ (y.requested = false → ∀ w ∈ y'.warps, ∀ L, L < 32 → w.live.getLsbD L = true → (look Wait.none w.wait L).asleep = false)))
    ∧ ((s.dev.queue q).preq = true → DevEvent s (.preemptionWithdraw tag q) (fun d => (d.queue q).preq = false ∧ d.mem = s.dev.mem
        ∧ ∀ g y, s.dev.group? g = some y → y.queue = q → ∃ y', d.group? g = some y' ∧ y'.pre.preq = false
          ∧ (y.pre = { PreReq.no with preq := true } → y'.saving = none ∧
              ∀ w ∈ y'.warps, ∀ L, L < 32 → w.live.getLsbD L = true → look Wait.none w.wait L ≠ .yield)))

/-- The distributor (R34, R90, R195, R198 to R202, R204, R389): records are consumed, groups are placed at their entry or restored as their
save gives them back, and finished groups and killed queues go. -/
def Obligations.Distribution : Prop :=
  ∀ s : State,
    (∀ q d1 cons r d2 pa d3 pi, let k := s.dev.queue q
      q < 256 → s.dev.running q = true → k.stall = none → s.dev.killWaits q = false → (s.dev.gridsOf q).any Grid.more = false →
      s.dev.examine q = (d1, cons, .ok (.take cons r)) → d1.vplace k.vf (q / 64) .st (k.ringBase + 64 * (cons % k.slots)) 8 = (d2, .ok pa) →
      d2.vplace k.vf (q / 64) .st (k.idxAddr + 8) 8 = (d3, .ok pi) → DevEvent s (.launchRecordConsume q) (Consumed s q cons r pa pi))
    ∧ (∀ die q y gid core, s.dev.pickQueue die = some q → s.dev.candidate q = some (y, .fresh gid, core) →
        DevEvent s (.placeGroup die) (fun d => d.mem = s.dev.mem ∧ ∃ x ∈ d.groups, x.id = s.dev.nextId ∧ x.queue = y.queue ∧ x.grid = y.id
          ∧ x.gid = gid ∧ x.lr = y.lr ∧ x.core = 96 * (y.queue / 64) + core ∧ x.warps.length = y.lr.nwarps
          ∧ ∀ wi w, x.warps[wi]? = some w → w.live = populated y.lr.threads wi ∧ w.readS 0 = y.lr.args
            ∧ ∀ L, w.live.getLsbD L = true → w.pcOf L = y.lr.entry))
    ∧ (∀ q y sv core (pas : Nat → Nat), let k := s.dev.queue q
        s.dev.pickQueue (q / 64) = some q → s.dev.candidate q = some (y, .saved sv, core) →
        (∀ c ∈ pagesOf (k.saveBase + sv.off) sv.len, Mapped s.dev k.vf (q / 64) (.ld false) c.1 c.2 (pas c.1)) →
        DevEvent s (.groupRestore q) (fun d => d.mem = s.dev.mem
          ∧ (∃ x ∈ d.groups, x.id = s.dev.nextId ∧ x.grid = y.id ∧ x.gid = sv.gid ∧ x.lr = sv.lr ∧ x.core = 96 * (y.queue / 64) + core
              ∧ ∀ x0 t0 forced, x0.warps.length = x0.lr.nwarps → sv = x0.savedAt t0 sv.off sv.len forced →
                  heldIn s.dev.mem ((pagesOf (k.saveBase + sv.off) sv.len).map (fun c => (pas c.1, c.2))) = x0.saveBytes t0 forced →
                  x.pre = PreReq.no → GivenBack forced t0 s.dev.now x0 x)
          ∧ ∀ t ∈ (d.queue q).saved, ¬(t.grid = sv.grid ∧ t.gid = sv.gid ∧ t.off = sv.off)))
    ∧ (∀ g x, s.dev.group? g = some x → x.finished = true → s.dev.killHolds x.queue = false →
        (s.dev.outstanding g = false → DevEvent s (.groupResourceFree g) (fun d => d.group? g = none ∧ d.mem = s.dev.mem))
        ∧ (s.dev.outstanding g = true → x.tailed = true → x.tracker = true → x.freed = false →
            DevEvent s (.groupResourceFree g) (fun d => ∃ x', d.group? g = some x' ∧ x'.freed = true)))
    ∧ (∀ g x, s.dev.group? g = some x → s.dev.killHolds x.queue = true → DevEvent s (.groupResourceFree g) (fun d => d = s.dev))
    ∧ (∀ q, (s.dev.queue q).kill ≠ none → s.dev.groups.any (·.queue == q) = false → s.dev.killHolds q = false →
        DevEvent s (.queueKillComplete q) (fun d => (d.queue q).en = false ∧ (d.queue q).kill = none ∧ (d.queue q).saved = []
          ∧ ∀ y ∈ d.grids, y.queue ≠ q))
    ∧ (∀ q, s.dev.killHolds q = true → DevEvent s (.queueKillComplete q) (fun d => d = s.dev))

/-- A thread has ended, or has only its final arrival left, which has met V = 0 (R378, R380). -/
def EndedOrArriving (d : Dev) (id : Nat) : Prop := ∀ op, d.op? id = some op → (∃ l k n ls len c, op.kind = .arrive l k n ls len c) ∧ op.stall ≠ none

/-- Pre-emption (R202, R204, R389, R392): past the deadline a group is force-saved; a save is written once nothing is outstanding, the save
area then holds the bytes of R204 and the group's resources are freed; operations that outlast the deadline kill the queue; an engine thread
that outlasts a kill ends, stalled or not. -/
def Obligations.Preemption : Prop :=
  ∀ s : State,
    (∀ g x, s.dev.group? g = some x → let k := s.dev.queue x.queue
      (x.pre.timed = true → x.saving = none → x.finished = false → x.preAt + k.dl ≤ s.dev.now →
        DevEvent s (.preemptionDeadline g) (fun d => ∃ x', d.group? g = some x' ∧ x'.saving = some (s.dev.now, true)))
      ∧ (∀ t forced d1 ps, x.saving = some (t, forced) → x.finished = false → s.dev.busy x = false → x.warps.any (·.held != 0) = false →
          k.kill = none → s.dev.killWaits x.queue = false → x.stall = none →
          s.dev.spoilt x forced = false → (∀ l ∈ s.dev.lags, l.g ≠ g) → k.fill + (x.saveBytes s.dev.now forced).length ≤ k.saveSize - 2 ^ 16 →
          let cs := pagesOf (k.saveBase + k.fill) (x.saveBytes s.dev.now forced).length
          s.dev.vpages x.vf x.die .st cs = (d1, .ok ps) →
          DevEvent s (.groupSaveWrite g) (fun d => d.group? g = none
            ∧ (d.queue x.queue).saved = k.saved ++ [x.savedAt s.dev.now k.fill (x.saveBytes s.dev.now forced).length forced]
            ∧ (Apart (ps.zip (cs.map (·.2))) → heldIn d.mem (ps.zip (cs.map (·.2))) = x.saveBytes s.dev.now forced)))
      ∧ (∀ t forced, x.saving = some (t, forced) → x.finished = false → s.dev.busy x = true → k.kill = none → s.dev.killWaits x.queue = false →
          t + k.dl ≤ s.dev.now → DevEvent s (.saveOpsTimeout g) (fun d => KillBegun s d x.queue)))
    ∧ (∀ id op t, s.dev.op? id = some op → (s.dev.queue op.src.queue).kill = some t → t + 1700000 ≤ s.dev.now →
        DevEvent s (.killEngineTimeout id) (fun d => EndedOrArriving d id))

/-- World switches, revocations, disabling and layouts (R314, R316, R318, R390). That a function is disabled under tag 16 alone is the model's
reading (log 14). -/
def Obligations.Tenancy : Prop := Residency ∧ LayoutCommits

/-- Writes of the register window (R290, R287, R288, R333): semaphores, mailboxes, drone cores, queue and function registers; a write
that is not aligned, or of a register that its tag does not own, changes nothing. The tags that each register answers (log 14), the
reset values that no rule states (log 6) and the registers of a core at the start of an episode (log 20) are the model's. -/
def Obligations.WindowWrites : Prop :=
  ∀ (s : State) (tag : Nat) (v : DWord), tag ≤ 16 →
    (∀ n, n < 256 → DevEvent s (.semaphoreWindowWrite tag n v) (fun d => d.mem = s.dev.mem
      ∧ ∀ k, d.sem k = if k = n then v else s.dev.sem k))
    ∧ (∀ die n, let b := s.dev.box die n
        die < 4 → n < 1024 → (tag = 16 ∨ tag = b.mvf) →
        DevEvent s (.mailboxOpen tag die n) (fun d => let b' := d.box die n
          b'.isOpen = true ∧ b'.status = 0 ∧ b'.act = [] ∧ b'.obs = [])
        ∧ (b.isOpen = true → DevEvent s (.mailboxClose tag die n) (fun d => let b' := d.box die n
            b'.isOpen = false ∧ b'.status = 5 ∧ b'.act = b.act ∧ b'.obs = b.obs)))
    ∧ (∀ die k, let c := s.dev.drone (32 * die + k)
        die < 4 → k < 32 → (tag = 16 ∨ tag = c.evf) →
        (c.state = 0 → DevEvent s (.episodeStart tag die k) (fun d => d.drone (32 * die + k)
          = { Drone.init with since := s.dev.past.length, view := c.view, base := c.base, size := c.size, evf := c.evf, budget := c.budget, run := true, state := 1 }))
        ∧ ((keysOf s.dev.boxes).Nodup → DevEvent s (.episodeStop tag die k) (fun d => (d.drone (32 * die + k)).state = 0
            ∧ (d.drone (32 * die + k)).run = false ∧ (c.state = 1 → (d.drone (32 * die + k)).why = 4) ∧ ∀ n, n < 1024 → let b := s.dev.box die n
              d.box die n = if b.core = k ∧ b.mvf = c.evf ∧ b.isOpen = true then { b with isOpen := false, status := 5 } else b)))
    ∧ (∀ off : BitVec 30, off.toNat % 8 ≠ 0 ∨ s.dev.mayReach tag (regAt off.toNat) = false →
        Event s (.registerWindowWrite tag off v) (fun u => u.dev = s.dev ∧ u.mg = s.mg))
    ∧ (∀ q, let k := s.dev.queue q
        let at_ := fun j => BitVec.ofNat 30 (q / 64 * 2 ^ 28 + q % 64 * 32 + 8 * j)
        q < 256 → (tag = 16 ∨ tag = k.vf) → s.dev.power = true → s.dev.halted = false →
        DevEvent s (.registerWindowWrite tag (at_ 0) v) (fun d => d.queue q = { k with ring := v &&& 0x0FFFFFFFFFFFF000 })
        ∧ DevEvent s (.registerWindowWrite tag (at_ 1) v) (fun d => d.queue q = { k with idx := v &&& 0x00FFFFFFFFFFFFF0 })
        ∧ DevEvent s (.registerWindowWrite tag (at_ 3) v) (fun d => d.queue q = { k with save := v &&& 0xFFFFFFFFFFFFF000 }))
    ∧ (∀ f, f < 16 → s.dev.power = true → s.dev.halted = false →
        Event s (.registerWindowWrite tag (BitVec.ofNat 30 (0x80008 + 32 * f)) v) (fun u => u.mg = s.mg
          ∧ u.dev.vfs = if tag = 16 then put Vf.init s.dev.vfs f { (look Vf.init s.dev.vfs f) with pt := v &&& 0x000FFFFFFFFFF000 } else s.dev.vfs))

/-- The commands of the Bieno mailbox (R339, R374, R399), and the delivery of a watchpoint hit (R375). In every clause that returns an answer,
that it stands at offset 64 of the page is the model's choice and no rule's (log 14). Commands 1, 4, 5 and 6 are die 0's and
are refused elsewhere; 2 and 3 reach the one flash from every die, and the slot written is the one not in use (log 14). -/
def Obligations.BienoCommands : Prop :=
  ∀ (s : State) (tag die : Nat), let page := fun off n => Memory.read (look [] s.mg.pages die) (64 + off) n
    (∀ i ∈ ([(.attest die, 1), (.watchpointArm tag die, 4), (.watchpointDisarm tag die, 5), (.linkLogRead die, 6)] : List (Instr × Nat)),
      die ≠ 0 → Asked s die i.2 tag → Event s i.1 (fun u => Answered die 1 [] u ∧ u.mg.flash = s.mg.flash ∧ u.dev.watch = s.dev.watch))
    ∧ (Asked s 0 1 tag → die = 0 → Event s (.attest 0) (fun u => Answered 0 0 (
        let r := (identity s.dev s.mg).take 256 ++ Memory.readBytes (look [] s.mg.pages 0) 64 32 ++ toBytes 4 s.mg.lgen.toNat
        r ++ toBytes 1280 (Config.sign r)) u))
    ∧ (Asked s die 2 tag → let base := slotBase (if s.mg.slot = 0 then 1 else 0)
        if page 4 4 ≤ 4024 ∧ base ≤ page 0 4 ∧ page 0 4 + page 4 4 ≤ base + 24 * 2 ^ 20 then
          Event s (.stageImage die) (fun u => Answered die 0 [] u
            ∧ u.mg.flash = Memory.writeBytes s.mg.flash (page 0 4) (Memory.readBytes (look [] s.mg.pages die) 72 (page 4 4)))
        else Event s (.stageImage die) (fun u => Answered die 1 [] u ∧ u.mg.flash = s.mg.flash))
    ∧ (Asked s die 3 tag → if page 0 4 ≤ 1 then Event s (.selectSlot die) (fun u => Answered die 0 [] u ∧ u.mg.active = page 0 4)
        else Event s (.selectSlot die) (fun u => Answered die 1 [] u ∧ u.mg.flash = s.mg.flash))
    ∧ (Asked s 0 4 16 → die = 0 → ∀ n x, armFields (look [] s.mg.pages 0) = some (n, x) → Event s (.watchpointArm 16 0) (fun u => Answered 0 0 [] u
        ∧ look none u.dev.watch n = some (if x.hiveSpace then x else { x with addr := s.dev.cfg.norm x.addr })
        ∧ ∀ k, k ≠ n → look none u.dev.watch k = look none s.dev.watch k))
    ∧ (Asked s 0 5 16 → die = 0 → page 0 4 ≤ 15 → s.dev.hits = [] → Event s (.watchpointDisarm 16 0) (fun u => Answered 0 0 [] u
        ∧ look none u.dev.watch (page 0 4) = none))
    ∧ (Asked s 0 6 tag → die = 0 → page 0 4 ≤ 27 → let l := look Link.init s.mg.links (page 0 4)
        Event s (.linkLogRead 0) (fun u => Answered 0 0 (toBytes 8 l.n190 ++ toBytes 8 l.n191 ++ toBytes 4 (if l.down then 1 else 0)) u))
    ∧ (∀ h rest, s.dev.hits = h :: rest → h.kind ≤ 6 →
        (s.dev.hitTarget h.queue = none → DevEvent s .watchpointHit (fun d => (d.queue h.queue).seq = (s.dev.queue h.queue).seq + 1))
        ∧ ∀ x wi ls w, s.dev.hitTarget h.queue = some (x, wi, ls) → s.dev.warp? x.id wi = some w →
            DevEvent s .watchpointHit (fun d => (d.queue x.queue).seq = (s.dev.queue x.queue).seq + 1 ∧ ∃ w', d.warp? x.id wi = some w'
              ∧ ∀ L, L < 32 → ls.getLsbD L = true → w'.pcOf L = s.dev.tvecOf x ∧ look 0 w'.epc L = w.pcOf L
                ∧ look 0 w'.ecause L = BitVec.ofNat 9 (0x1A0 + h.kind) ∧ w'.handler.getLsbD L = true))

/-- Start-up, resets and power (R16, R327, R336, R340, R341, R398, R400). That memory lists nothing after power-good is the model's choice
(log 3), and so are the state after it of what no rule names and when an audit period begins (log 12), and the places of the lengths in a
slot's header (log 14). That a layout commit rolls forward at the restart of a Bieno only while that of die 0 is in service then is the
model's reading of R340 (log 12). -/
def Obligations.PowerAndResets : Prop :=
  ∀ (s : State) (die : Nat),
    (∀ cxl : List Nat, let ok := fun k => s.mg.verifies k
      let from_ := fun k => cfgOf (s.mg.image k) cxl
      let first := if s.mg.active = 0 then 0 else 1
      Event s (.powerGood cxl) (fun u => u.mg.flash = s.mg.flash ∧ u.dev.groups = [] ∧ u.dev.mem = [] ∧
        if ok first then u.mg.status = 0 ∧ u.mg.slot = first ∧ u.dev.cfg = from_ first ∧ u.dev.halted = false
        else if ok (1 - first) then u.mg.status = 1 ∧ u.mg.slot = 1 - first ∧ u.dev.cfg = from_ (1 - first) ∧ u.dev.halted = false
        else u.mg.status = 2 ∧ u.dev.halted = true))
    ∧ (s.dev.halted = false → Event s .deviceReset (fun u => u.dev.sems = [] ∧ u.dev.slots = [] ∧ u.dev.groups = [] ∧ u.dev.ops = []
        ∧ u.dev.mem = s.dev.mem ∧ u.mg.staged = [] ∧ u.dev.parts = [] ∧ u.mg.lgen = 0))
    ∧ Event s .powerLoss (fun u => u.dev.power = false ∧ u.dev.groups = [] ∧ u.dev.ops = [] ∧ u.mg.flash = s.mg.flash)
    ∧ (die ≤ 3 → DevEvent s (.bienoWatchdogReset die) (fun d => d.bienoHeld.contains die = true ∧ d.groups = s.dev.groups
        ∧ ((keysOf s.dev.queues).Nodup → ∀ q, q / 64 = die → (s.dev.queue q).en = true → (d.queue q).seq = (s.dev.queue q).seq + 1)))
    ∧ (s.dev.bienoHeld.contains die = true → Event s (.bienoRestart die) (fun u => u.dev.bienoHeld = s.dev.bienoHeld.filter (· != die)
        ∧ u.mg = if (die = 0 ∨ s.dev.bienoHeld.contains 0 = false) ∧ s.mg.prep = s.mg.lgen + 1 then { s.mg with lgen := s.mg.prep } else s.mg))
    ∧ (die ≤ 3 → s.dev.power = true → s.dev.halted = false → Event s (.thermalHalt die) (fun u => u.dev.halted = true ∧ u.mg.status = 3
        ∧ ∀ q, (s.dev.queue q).en = true → (u.dev.queue q).kill ≠ none ∨ u.dev.killWaits q = true))
    ∧ (s.dev.bienoHeld.contains 0 = false →
        (die ≤ 3 → s.mg.hot.contains die = false → Event s (.thermalThrottle die) (fun u => u.dev = s.dev
          ∧ u.mg = { s.mg with hot := die :: s.mg.hot, clock := 1000 }))
        ∧ Event s .thermalHoldEnd (fun u => u.dev = s.dev ∧ u.mg = { s.mg with hot := [], clock := s.mg.cap })
        ∧ ∀ up, Event s (.powerCapClockStep up) (fun u => u.dev = s.dev ∧ u.mg.cap = (if up then min (s.mg.cap + 100) 1700 else max (s.mg.cap - 100) 1000)
            ∧ u.mg.clock = if s.mg.hot = [] then u.mg.cap else 1000))
    ∧ (∀ port retrained, let l := look Link.init s.mg.links port
        let at_ := fun n => look (0, none) s.dev.cfg.ports n
        let isDown := fun k => k = port ∨ (look Link.init s.mg.links k).down = true
        port ≤ 27 → l.down = false → Event s (.linkPermitMismatch port retrained) (fun u => let l' := look Link.init u.mg.links port
          l'.n190 = l.n190 + 1 ∧ ∃ anew : Bool, let n := (if anew then 0 else l.retries) + (if retrained then 0 else 1)
            if n < 3 then l'.down = false ∧ l'.retries = n ∧ { u.dev with free := s.dev.free } = s.dev
            else l'.down = true ∧ l'.n191 = l.n191 + 1 ∧ (24 ≤ port → u.dev.downDie = (port - 24) :: s.dev.downDie)
              ∧ (port < 24 → s.dev.cfg.routes.Nodup → ∀ r ∈ s.dev.cfg.routes, (at_ r).1 = port → 0 < r → r ≤ 255 → r ≠ s.dev.cfg.node →
                  match (at_ r).2 with
                  | some alt => if isDown alt then u.dev.downNode.contains r = true else look (0, none) u.dev.cfg.ports r = (alt, none)
                  | none => u.dev.downNode.contains r = true)))

/-- Pieces of copies land in turn, or the thread stalls (R218, R380, R381); a stall is resolved once its address translates, and
otherwise its thread ends (R364, R380); the collector of a comb store frees a segment without live records, or moves a live record and
installs its new offset (R20, R221, R225). -/
def Obligations.CopyEvents : Prop :=
  ∀ s : State,
    (∀ id op r key lane ctr crc landed f, Going s id (.copy r key lane ctr crc landed) op → (cpOf r).frames[landed]? = some f →
      let last := decide (landed + 1 = (cpOf r).frames.length)
      let p := s.dev.landPiece op ⟨cpOf r, key, lane, ctr, crc, landed⟩ f last
      (p.2 = .ok () → DevEvent s (.copyPieceLanded id) (fun d => d.mem = p.1.mem ∧ d.groups = p.1.groups
        ∧ if last then d.op? id = none else ∃ v, d.op? id = some { op with kind := .copy r key lane ctr crc (landed + 1), view := v }))
      ∧ ∀ e c d5 d6, p.2 = .error e → engineStop e = (true, c, d5, d6) →
          DevEvent s (.copyPieceLanded id) (fun d => ∃ v, d.op? id = some { op with stall := some (c, d5, d6), view := v }))
    ∧ (∀ id op c d5 d6, s.dev.op? id = some op → op.stall = some (c, d5, d6) → s.dev.serviceUp op.src.die = true → s.dev.unwritten id = false →
        let arrives := ∃ l k n ls len e, op.kind = .arrive l k n ls len e
        (c ≠ 0x0EC → c ≠ 0x0FC →
          ((∃ e l, s.dev.walk op.src.die op.src.vf d6 = .leaf e l) → DevEvent s (.engineStallResolved id) (fun d =>
            (¬arrives → d.op? id = some { op with stall := none } ∧ d.mem = s.dev.mem ∧ d.groups = s.dev.groups) ∧ (arrives → EndedOrArriving d id)))
          ∧ ((∀ e l, s.dev.walk op.src.die op.src.vf d6 ≠ .leaf e l) → DevEvent s (.engineStallResolved id) (fun d => EndedOrArriving d id)))
        ∧ (c = 0x0EC ∨ c = 0x0FC → ¬arrives → let home := if c = 0x0EC then s.dev.pieceDie op else op.src.die
          let d1 := s.dev.collectAll home (s.dev.collectFuel home)
          (d1.freeSeg home).isSome = true → DevEvent s (.engineStallResolved id) (fun d =>
            d.op? id = some { op with stall := none } ∧ d.mem = d1.mem ∧ d.segs = d1.segs)))
    ∧ (∀ die, s.dev.victim die = none → DevEvent s (.combCollectorMove die) (fun d => d = s.dev))
    ∧ (∀ die i, s.dev.victim die = some i →
        (s.dev.liveRecs (s.dev.seg die i) = [] → DevEvent s (.combCollectorMove die) (fun d => d.seg die i = Seg.free ∧ d.mem = s.dev.mem))
        ∧ ∀ r rest d1 off, s.dev.liveRecs (s.dev.seg die i) = r :: rest →
            s.dev.append die (collectorId die) (collectorWho die) r.2.2.1 r.2.2.2
              (Memory.readBytes s.dev.mem (s.dev.combBase die + 32 * r.1) (32 * r.2.1)) = (d1, some off) →
            DevEvent s (.combCollectorMove die) (fun d => Memory.readBytes d.mem r.2.2.1 8 = toBytes 8 (entry off r.2.1)
              ∧ ∀ a, (a < r.2.2.1 ∨ r.2.2.1 + 8 ≤ a) → Memory.byte d.mem a = Memory.byte d1.mem a))

/-- Job cards (R226 to R228, R381, R382): whole tokens land up to the end of their line or past it, and a card ends once its output, its output
length and its arrival are made, or at once when it breaks R226. Collectives (R232, R381): a collective waits until every rank has met,
writes what its rank receives, and ends; it ends too when a rank cannot be reached for 1 ms, once it is its rank's oldest (log 8). -/
def Obligations.JobEvents : Prop :=
  ∀ (s : State) (id : Nat) (op : Op),
    (∀ r landed, Going s id (.card r landed) op → let c := cardOf r
      let p := s.dev.cardOut op.src c
      let bs := tokBytes p.2.1
      let upTo := ((c.dst + landed) / 128 + 1) * 128 - c.dst
      let last := ((p.2.1.map (fun t => t.o + t.bytes.length)).find? (fun n => decide (upTo ≤ n))).getD bs.length
      (c.bad = true → DevEvent s (.jobCardDone id) (fun d => EndedOrArriving d id))
      ∧ (c.bad = false → landed < last → ∀ d1,
          p.1.cardWrite op.src c landed ((bs.drop landed).take (last - landed)) = (d1, .ok ()) →
          DevEvent s (.jobCardOutputLanded id) (fun d => (∃ v, d.op? id = some { op with kind := .card r last, view := v })
            ∧ (c.space ≠ 1 → d.mem = d1.mem)))
      ∧ (c.bad = false → p.2.2.1 = .ok → ∀ d1 d2 d3, p.1.cardWrite op.src c landed (bs.drop landed) = (d1, .ok ()) →
          (if c.olen = 0 then (d1, .ok ()) else d1.ewrite op.src 2 c.olen (toBytes 8 bs.length)) = (d2, .ok ()) →
          ((if c.olen = 0 then d2 else d2.ecount op.src 0 [(c.olen, 8)]).cardCount op.src c landed (bs.length - landed)).arrival op.src 2 op.done 1
            false = (d3, .ok ()) →
          DevEvent s (.jobCardDone id) (fun d => d.op? id = none ∧ (c.space ≠ 1 → d.mem = d3.mem))))
    ∧ (∀ r kind cop t, Going s id (.coll r kind cop t none) op →
        (∀ d1, s.dev.collMeet op r kind cop t = (d1, .ok false) → DevEvent s (.collectiveDone id) (fun d => d = d1))
        ∧ (∀ d1 op' got d2, s.dev.collMeet op r kind cop t = (d1, .ok true) → d1.op? id = some op' → op'.kind = .coll r kind cop t (some got) →
            op'.stall = none → d1.collWrite op' r ((collOf r).count * (t.width / 8)) got = (d2, .ok ()) →
            DevEvent s (.collectiveDone id) (fun d => d.op? id = none ∧ d.mem = d2.mem))
        ∧ ∀ x rk rank, (s.dev.descr op.src (collOf r).grp).2 = .ok x → x.ranks[rank]? = some rk →
            if s.dev.reaches op.src.die rk = false ∧ s.dev.isOldest op x = true ∧ op.started + 1700000 ≤ s.dev.now then
              DevEvent s (.collectiveRankTimeout id rank) (fun d => EndedOrArriving d id)
            else DevEvent s (.collectiveRankTimeout id rank) (fun d => d = s.dev))
    ∧ (∀ r kind cop t got d1, Going s id (.coll r kind cop t (some got)) op →
        s.dev.collWrite op r ((collOf r).count * (t.width / 8)) got = (d1, .ok ()) →
        DevEvent s (.collectiveDone id) (fun d => d.op? id = none ∧ d.mem = d1.mem))

/-- Engine threads on tiles, surfaces and mailboxes (R237 to R247, R268, R292). -/
def Obligations.TileEvents : Prop := MatrixEvents ∧ CodingAndDelivery

/-- The work of draws at a screen tile (R277 to R281, R283): it is reprojected once earlier draws have been applied there; exports are rasterised
in order; groups of fragments are placed at the kernel's entry, where their queue may place and its class is the one to place from; ended fragments are applied in order and leave; a draw ends once every
tile has been applied. -/
def Obligations.DrawEvents : Prop :=
  ∀ (s : State) (id tile : Nat) (r : Draw) (f : Surf), Drawing s id r f →
    (∀ d1, tile < screenTiles f.s → r.rp = true → r.reproj.contains tile = false → s.dev.earlierApplied r tile = true →
      s.dev.reprojTile r f.s tile = (d1, .ok ()) → DevEvent s (.drawReprojection id tile) (fun d => d.mem = d1.mem
        ∧ ∃ r', d.draw? id = some r' ∧ r'.reproj.contains tile = true))
    ∧ (∀ e d1, tile < screenTiles f.s → (r.rp = true → r.reproj.contains tile = true) → s.dev.earlierApplied r tile = true →
        r.nextExport tile = some e → (∀ k, k < e.packet → r.closed.contains k = true) → s.dev.rasterExport r f.s tile e = (d1, .ok ()) →
        DevEvent s (.drawRasterise id tile) (fun d => d.mem = d1.mem ∧ ∃ r', d.draw? id = some r' ∧ r'.isRastered tile e = true))
    ∧ (let cl := r.cluster f.s tile
       let fs := waiting32 r tile
       let k := { r.kernel cl with d2 := BitVec.ofNat 64 ((r.kernel cl).d2.toNat / 2 ^ 43 * 2 ^ 43 + fs.length * 2 ^ 32 + 1) }
       ∀ row, (r.kernel 0).tooBig = false → fs ≠ [] → (s.dev.queue r.queue).preq = false → s.dev.open? r.queue (12 * r.die + cl) = true →
        s.dev.pickClass r.die = some (s.dev.queue r.queue).cls → s.dev.rasterRow r.die cl k = some row →
        DevEvent s (.pixelGroupPlace id tile) (fun d => d.mem = s.dev.mem ∧ ∃ x ∈ d.groups, x.pixel = some (id, tile) ∧ x.queue = r.queue
          ∧ x.core = 96 * r.die + 8 * cl + row ∧ x.lr = k ∧ ∀ w, x.warps[0]? = some w → ∀ L p, fs[L]? = some p →
            w.readV 0 L = BitVec.ofNat 32 (p.x ||| p.y * 2 ^ 16) ∧ w.readV 1 L = p.z ∧ w.readV 2 L = p.id ∧ w.readV 3 L = p.b1 ∧ w.readV 4 L = p.b2
            ∧ look none w.frag L = some ⟨p.x, p.y, p.z, p.id, p.order, none, false, p.z⟩))
    ∧ (blendable (look [] r.frags tile) = none → DevEvent s (.blendApply id tile) (fun d => d = s.dev))
    ∧ (∀ p d1, blendable (look [] r.frags tile) = some p → s.dev.applyFragment (r.at_ f.s tile) r f p = (d1, .ok ()) →
        DevEvent s (.blendApply id tile) (fun d => d.mem = d1.mem ∧ d.stages = d1.stages
          ∧ ∃ r', d.draw? id = some r' ∧ ∀ q ∈ look [] r'.frags tile, ¬(q.order = p.order ∧ q.x = p.x ∧ q.y = p.y)))
    ∧ ((∃ k, k < screenTiles f.s ∧ r.appliedAt k = false) → DevEvent s (.drawDone id) (fun d => d = s.dev))
    ∧ (∀ d1, (∀ k, k < screenTiles f.s → r.appliedAt k = true) → s.dev.arrival r.src 2 r.done 1 false = (d1, .ok ()) →
        DevEvent s (.drawDone id) (fun d => d.draw? id = none ∧ d.mem = d1.mem))

/-- Instructions of drone cores (R287): the word fetched at the counter runs, on its registers and on memory. The base instruction set that
R287 names is the model's reading of that set (log 20). -/
def Obligations.DroneInstructions : Prop :=
  ∀ (s : State) (die k : Nat), RunsCore s die k → let i := 32 * die + k
    let c := s.dev.drone i
    (∀ d1 (w : BitVec 32) len raw, s.dev.droneFetch i c.pc.toNat = (d1, .ok (some w.toNat, len, raw)) →
      let rd := w.extractLsb' 7 5
      let a := c.getX (w.extractLsb' 15 5).toNat
      let b := c.getX (w.extractLsb' 20 5).toNat
      let im := ((w.extractLsb' 20 12).signExtend 64 : DWord)
      let op := w.extractLsb' 0 7
      let f3 := w.extractLsb' 12 3
      let f7 := w.extractLsb' 25 7
      let P := fun (v : DWord) => DevEvent s (.droneInstruction die k) (fun d => SteppedTo c (d.drone i) rd v.toNat len ∧ d.mem = s.dev.mem)
      (op = 0x13 → (f3 = 0 → P (a + im)) ∧ (f3 = 2 → P (if a.toInt < im.toInt then 1 else 0)) ∧ (f3 = 3 → P (if a.toNat < im.toNat then 1 else 0))
        ∧ (f3 = 4 → P (a ^^^ im)) ∧ (f3 = 6 → P (a ||| im)) ∧ (f3 = 7 → P (a &&& im)))
      ∧ (op = 0x33 → f7 = 0 → (f3 = 0 → P (a + b)) ∧ (f3 = 1 → P (a <<< (b.toNat % 64))) ∧ (f3 = 4 → P (a ^^^ b)) ∧ (f3 = 5 → P (a >>> (b.toNat % 64)))
        ∧ (f3 = 6 → P (a ||| b)) ∧ (f3 = 7 → P (a &&& b)))
      ∧ (op = 0x33 → f7 = 0x20 → f3 = 0 → P (a - b)) ∧ (op = 0x33 → f7 = 1 → f3 = 0 → P (a * b))
      ∧ (op = 0x37 → P ((w &&& 0xFFFFF000).signExtend 64)) ∧ (op = 0x17 → P (c.pc + (w &&& 0xFFFFF000).signExtend 64))
      ∧ (op = 0x67 → f3 = 0 → DevEvent s (.droneInstruction die k) (fun d => (d.drone i).pc = (a + im) &&& ~~~1
          ∧ (rd ≠ 0 → (d.drone i).getX rd.toNat = c.pc + BitVec.ofNat 64 len)))
      ∧ (op = 3 → f3 = 3 → ∀ d2 v, d1.droneLoad i .ld (a + im).toNat 8 = (d2, .ok v) → P (BitVec.ofNat 64 v))
      ∧ (op = 0x23 → f3 = 3 → ∀ d2, d1.droneStore i (a + ((f7 ++ rd).signExtend 64 : DWord)).toNat 8 b.toNat = (d2, .ok ()) →
          DevEvent s (.droneInstruction die k) (fun d => d.mem = d2.mem ∧ (d.drone i).pc = c.pc + BitVec.ofNat 64 len ∧ ∀ n, (d.drone i).getX n = c.getX n)))
    ∧ (∀ d1 len raw, s.dev.droneFetch i c.pc.toNat = (d1, .ok (none, len, raw)) → DevEvent s (.droneInstruction die k) (fun d =>
        (d.drone i).pc = c.getC 0x305 &&& ~~~3 ∧ (d.drone i).getC 0x342 = 2 ∧ (d.drone i).getC 0x341 = c.pc ∧ (d.drone i).machine = true))

/-- Mailbox registers of drone cores (R297) and the ends of episodes (R296, R395). -/
def Obligations.DronesAndEpisodes : Prop := DroneBoxes ∧ EpisodeEnds

end
end

