-- ==== Sys2Proof/Laws/Map.lean ====
section
/-!
SUPPORT. The laws of sparse maps and of memory: a read after a write, and the canonical form that every write keeps.
-/
namespace Sys2Proof

section
variable {α : Type}

theorem look_drop1 (d : α) (m : SMap α) (k j : Nat) : look d (drop1 m k) j = if j = k then d else look d m j := by
  induction m with
  | nil => simp [drop1, look]
  | cons e m ih =>
    obtain ⟨i, v⟩ := e
    by_cases hik : i = k
    · subst hik
      simp only [drop1, if_true, ih, look]
      by_cases hj : j = i
      · simp [hj]
      · simp [hj, Ne.symm hj]
    · simp only [drop1, if_neg hik, look]
      by_cases hij : i = j
      · subst hij; simp [hik]
      · simp only [if_neg hij, ih]

theorem look_insert1 (d : α) (m : SMap α) (k : Nat) (v : α) (j : Nat) (hk : k ∉ keysOf m) :
    look d (insert1 m k v) j = if j = k then v else look d m j := by
  induction m with
  | nil =>
    by_cases h : j = k
    · simp [insert1, look, h]
    · simp [insert1, look, h, Ne.symm h]
  | cons e m ih =>
    obtain ⟨i, w⟩ := e
    simp only [keysOf, List.map_cons, List.mem_cons, not_or] at hk
    by_cases h : k < i
    · simp only [insert1, if_pos h, look]
      by_cases hj : j = k
      · simp [hj]
      · simp [hj, Ne.symm hj]
    · simp only [insert1, if_neg h, look, ih hk.2]
      by_cases hij : i = j
      · subst hij; simp [Ne.symm hk.1]
      · simp only [if_neg hij]

theorem key_drop1 (m : SMap α) (k : Nat) : k ∉ keysOf (drop1 m k) := by
  induction m with
  | nil => simp [drop1, keysOf]
  | cons e m ih =>
    obtain ⟨i, v⟩ := e
    simp only [drop1]
    split
    · exact ih
    · simp only [keysOf, List.map_cons, List.mem_cons, not_or]
      exact ⟨fun h => by simp_all, ih⟩

variable [DecidableEq α]

/-- A read after a write of one key. -/
theorem look_put (d : α) (m : SMap α) (k : Nat) (v : α) (j : Nat) : look d (put d m k v) j = if j = k then v else look d m j := by
  unfold put
  split
  · rw [look_drop1]; split <;> simp_all
  · rw [look_insert1 d _ k v j (key_drop1 m k), look_drop1]
    split <;> simp_all

@[simp] theorem look_put_same (d : α) (m : SMap α) (k : Nat) (v : α) : look d (put d m k v) k = v := by simp [look_put]

theorem look_put_other (d : α) (m : SMap α) (k : Nat) (v : α) (j : Nat) (h : j ≠ k) : look d (put d m k v) j = look d m j := by
  simp [look_put, h]

/-! ### The canonical form -/

/-- Whether a key lies above a bound, if there is one. -/
def above (lo : Option Nat) (k : Nat) : Prop := ∀ l, lo = some l → l < k

theorem canonFrom_cons (d : α) (lo : Option Nat) (k : Nat) (v : α) (m : SMap α) :
    canonFrom d lo ((k, v) :: m) = true ↔ above lo k ∧ v ≠ d ∧ canonFrom d (some k) m = true := by
  cases lo <;> simp [canonFrom, above, and_assoc]

theorem canonFrom_weaken (d : α) {lo lo' : Option Nat} (m : SMap α) (h : canonFrom d lo m = true)
    (hl : ∀ k, above lo k → above lo' k) : canonFrom d lo' m = true := by
  cases m with
  | nil => simp [canonFrom]
  | cons e m =>
    obtain ⟨k, v⟩ := e
    rw [canonFrom_cons] at h ⊢
    exact ⟨hl k h.1, h.2⟩

theorem canonFrom_drop1 (d : α) (lo : Option Nat) (m : SMap α) (k : Nat) (h : canonFrom d lo m = true) :
    canonFrom d lo (drop1 m k) = true := by
  induction m generalizing lo with
  | nil => simpa [drop1] using h
  | cons e m ih =>
    obtain ⟨i, v⟩ := e
    rw [canonFrom_cons] at h
    simp only [drop1]
    split
    · exact canonFrom_weaken d _ (ih _ h.2.2) (fun k' hk l hl => Nat.lt_trans (h.1 l hl) (hk i rfl))
    · rw [canonFrom_cons]; exact ⟨h.1, h.2.1, ih _ h.2.2⟩

theorem canonFrom_insert1 (d : α) (lo : Option Nat) (m : SMap α) (k : Nat) (v : α) (h : canonFrom d lo m = true)
    (hv : v ≠ d) (hk : k ∉ keysOf m) (hlo : above lo k) : canonFrom d lo (insert1 m k v) = true := by
  induction m generalizing lo with
  | nil => simp only [insert1]; rw [canonFrom_cons]; exact ⟨hlo, hv, by simp [canonFrom]⟩
  | cons e m ih =>
    obtain ⟨i, w⟩ := e
    rw [canonFrom_cons] at h
    simp only [keysOf, List.map_cons, List.mem_cons, not_or] at hk
    simp only [insert1]
    split
    · rw [canonFrom_cons, canonFrom_cons]
      exact ⟨hlo, hv, fun l hl => by simp_all, h.2⟩
    · rw [canonFrom_cons]
      exact ⟨h.1, h.2.1, ih _ h.2.2 hk.2 (fun l hl => by cases hl; omega)⟩

/-- A write of one key keeps the canonical form. -/
theorem canon_put (d : α) (m : SMap α) (k : Nat) (v : α) (h : canon d m = true) : canon d (put d m k v) = true := by
  unfold put
  split
  · exact canonFrom_drop1 d _ m k h
  · next hv => exact canonFrom_insert1 d _ _ k v (canonFrom_drop1 d _ m k h) hv (key_drop1 m k) (fun l hl => by simp at hl)

theorem canonFrom_mapVals (d : α) (f : Nat → α → α) (lo : Option Nat) (m : SMap α) (h : canonFrom d lo m = true) :
    canonFrom d lo (mapVals d f m) = true := by
  induction m generalizing lo with
  | nil => simpa [mapVals] using h
  | cons e m ih =>
    obtain ⟨i, v⟩ := e
    rw [canonFrom_cons] at h
    simp only [mapVals]
    split
    · exact canonFrom_weaken d _ (ih _ h.2.2) (fun k' hk l hl => Nat.lt_trans (h.1 l hl) (hk i rfl))
    · next hv => rw [canonFrom_cons]; exact ⟨h.1, hv, ih _ h.2.2⟩

/-- A change of every listed value keeps the canonical form. -/
theorem canon_mapVals (d : α) (f : Nat → α → α) (m : SMap α) (h : canon d m = true) : canon d (mapVals d f m) = true :=
  canonFrom_mapVals d f none m h

end

/-! ### Memory -/

theorem byte_setByte (m : Memory) (a : Nat) (b : Byte) (x : Nat) : (m.setByte a b).byte x = if x = a then b else m.byte x :=
  look_put unwritten m a b x

@[simp] theorem wf_nil : Memory.wf [] = true := rfl

theorem wf_setByte (m : Memory) (a : Nat) (b : Byte) (h : m.wf = true) : (m.setByte a b).wf = true :=
  canon_put unwritten m a b h

theorem wf_write (n : Nat) : ∀ (m : Memory) (a v : Nat), m.wf = true → (m.write a n v).wf = true := by
  induction n with
  | zero => intro m a v h; exact h
  | succ n ih => intro m a v h; exact ih _ _ _ (wf_setByte m a _ h)

theorem wf_writeBytes (bs : List Byte) : ∀ (m : Memory) (a : Nat), m.wf = true → (m.writeBytes a bs).wf = true := by
  induction bs with
  | nil => intro m a h; exact h
  | cons b bs ih => intro m a h; exact ih _ _ (wf_setByte m a b h)

/-- A byte after a write of a list of bytes: the byte written there, or what it was. -/
theorem byte_writeBytes (bs : List Byte) : ∀ (m : Memory) (a x : Nat),
    (m.writeBytes a bs).byte x = if a ≤ x then (bs[x - a]?).getD (m.byte x) else m.byte x := by
  induction bs with
  | nil => intro m a x; simp [Memory.writeBytes]
  | cons b bs ih =>
    intro m a x
    rw [Memory.writeBytes, ih]
    rcases Nat.lt_trichotomy x a with h | h | h
    · rw [if_neg (by omega), if_neg (by omega), byte_setByte, if_neg (by omega)]
    · subst h
      rw [if_neg (by omega), if_pos (Nat.le_refl _), byte_setByte, if_pos rfl]; simp
    · rw [if_pos (by omega), if_pos (by omega), byte_setByte, if_neg (by omega)]
      have : x - a = (x - (a + 1)) + 1 := by omega
      rw [this, List.getElem?_cons_succ]

/-- Every byte outside a write reads as before. -/
theorem byte_writeBytes_outside (m : Memory) (a : Nat) (bs : List Byte) (x : Nat) (h : x < a ∨ a + bs.length ≤ x) :
    (m.writeBytes a bs).byte x = m.byte x := by
  rw [byte_writeBytes]
  split
  · rw [List.getElem?_eq_none (by omega)]; rfl
  · rfl

theorem byte_write (n : Nat) : ∀ (m : Memory) (a v x : Nat),
    (m.write a n v).byte x = if a ≤ x ∧ x < a + n then BitVec.ofNat 8 (v / 256 ^ (x - a)) else m.byte x := by
  induction n with
  | zero => intro m a v x; rw [if_neg (by omega)]; rfl
  | succ n ih =>
    intro m a v x
    rw [Memory.write, ih]
    rcases Nat.lt_trichotomy x a with h | h | h
    · rw [if_neg (by omega), if_neg (by omega), byte_setByte, if_neg (by omega)]
    · subst h
      rw [if_neg (by omega), if_pos (by omega), byte_setByte, if_pos rfl]; simp
    · by_cases hx : x < a + (n + 1)
      · rw [if_pos (by omega), if_pos (by omega), Nat.div_div_eq_div_mul]
        have : x - a = (x - (a + 1)) + 1 := by omega
        rw [this, Nat.pow_succ, Nat.mul_comm]
      · rw [if_neg (by omega), if_neg (by omega), byte_setByte, if_neg (by omega)]

/-- Bytes read after they were written are those written. -/
theorem readBytes_writeBytes (bs : List Byte) (m : Memory) (a : Nat) : (m.writeBytes a bs).readBytes a bs.length = bs := by
  have gen : ∀ (n k : Nat) (hk : k + n = bs.length), (m.writeBytes a bs).readBytes (a + k) n = bs.drop k := by
    intro n
    induction n with
    | zero => intro k hk; simp only [Memory.readBytes]; rw [List.drop_eq_nil_of_le (by omega)]
    | succ n ih =>
      intro k hk
      have e : (m.writeBytes a bs).readBytes (a + k + 1) n = bs.drop (k + 1) := ih (k + 1) (by omega)
      rw [Memory.readBytes, e, byte_writeBytes, if_pos (by omega), Nat.add_sub_cancel_left,
        List.getElem?_eq_getElem (by omega), Option.getD_some, ← List.drop_eq_getElem_cons]
  simpa using gen bs.length 0 (by omega)

end Sys2Proof
end

