-- ==== Sys2Proof/Laws/State.lean ====
section
/-!
SUPPORT. What each named update of the compute side leaves alone, field by field, so that no later proof unfolds a
record update.
-/
namespace Sys2Proof.Machine

section
variable (d : Dev) (g : Nat) (f : Group → Group)
@[simp] theorem modGroup_cfg : (d.modGroup g f).cfg = d.cfg := rfl
@[simp] theorem modGroup_now : (d.modGroup g f).now = d.now := rfl
@[simp] theorem modGroup_free : (d.modGroup g f).free = d.free := rfl
@[simp] theorem modGroup_nextId : (d.modGroup g f).nextId = d.nextId := rfl
@[simp] theorem modGroup_cur : (d.modGroup g f).cur = d.cur := rfl
@[simp] theorem modGroup_rested : (d.modGroup g f).rested = d.rested := rfl
@[simp] theorem modGroup_past : (d.modGroup g f).past = d.past := rfl
@[simp] theorem modGroup_fences : (d.modGroup g f).fences = d.fences := rfl
@[simp] theorem modGroup_lags : (d.modGroup g f).lags = d.lags := rfl
@[simp] theorem modGroup_lastWarp : (d.modGroup g f).lastWarp = d.lastWarp := rfl
@[simp] theorem modGroup_grids : (d.modGroup g f).grids = d.grids := rfl
@[simp] theorem modGroup_queues : (d.modGroup g f).queues = d.queues := rfl
@[simp] theorem modGroup_dists : (d.modGroup g f).dists = d.dists := rfl
@[simp] theorem modGroup_mem : (d.modGroup g f).mem = d.mem := rfl
@[simp] theorem modGroup_hive : (d.modGroup g f).hive = d.hive := rfl
@[simp] theorem modGroup_l1 : (d.modGroup g f).l1 = d.l1 := rfl
@[simp] theorem modGroup_tlb : (d.modGroup g f).tlb = d.tlb := rfl
@[simp] theorem modGroup_ibuf : (d.modGroup g f).ibuf = d.ibuf := rfl
@[simp] theorem modGroup_bad : (d.modGroup g f).bad = d.bad := rfl
@[simp] theorem modGroup_owner : (d.modGroup g f).owner = d.owner := rfl
@[simp] theorem modGroup_badReg : (d.modGroup g f).badReg = d.badReg := rfl
@[simp] theorem modGroup_badTile : (d.modGroup g f).badTile = d.badTile := rfl
@[simp] theorem modGroup_tlbinv : (d.modGroup g f).tlbinv = d.tlbinv := rfl
@[simp] theorem modGroup_sems : (d.modGroup g f).sems = d.sems := rfl
@[simp] theorem modGroup_semKnow : (d.modGroup g f).semKnow = d.semKnow := rfl
@[simp] theorem modGroup_ops : (d.modGroup g f).ops = d.ops := rfl
@[simp] theorem modGroup_segs : (d.modGroup g f).segs = d.segs := rfl
@[simp] theorem modGroup_slots : (d.modGroup g f).slots = d.slots := rfl
@[simp] theorem modGroup_stages : (d.modGroup g f).stages = d.stages := rfl
@[simp] theorem modGroup_draws : (d.modGroup g f).draws = d.draws := rfl
@[simp] theorem modGroup_drones : (d.modGroup g f).drones = d.drones := rfl
@[simp] theorem modGroup_boxes : (d.modGroup g f).boxes = d.boxes := rfl
@[simp] theorem modGroup_polver : (d.modGroup g f).polver = d.polver := rfl
@[simp] theorem modGroup_polKnow : (d.modGroup g f).polKnow = d.polKnow := rfl
@[simp] theorem modGroup_vfs : (d.modGroup g f).vfs = d.vfs := rfl
@[simp] theorem modGroup_parts : (d.modGroup g f).parts = d.parts := rfl
@[simp] theorem modGroup_clus : (d.modGroup g f).clus = d.clus := rfl
@[simp] theorem modGroup_evsel : (d.modGroup g f).evsel = d.evsel := rfl
@[simp] theorem modGroup_evcnt : (d.modGroup g f).evcnt = d.evcnt := rfl
@[simp] theorem modGroup_evovf : (d.modGroup g f).evovf = d.evovf := rfl
@[simp] theorem modGroup_ovfs : (d.modGroup g f).ovfs = d.ovfs := rfl
@[simp] theorem modGroup_odd : (d.modGroup g f).odd = d.odd := rfl
@[simp] theorem modGroup_watch : (d.modGroup g f).watch = d.watch := rfl
@[simp] theorem modGroup_hits : (d.modGroup g f).hits = d.hits := rfl
@[simp] theorem modGroup_late : (d.modGroup g f).late = d.late := rfl
@[simp] theorem modGroup_downDie : (d.modGroup g f).downDie = d.downDie := rfl
@[simp] theorem modGroup_downNode : (d.modGroup g f).downNode = d.downNode := rfl
@[simp] theorem modGroup_bienoHeld : (d.modGroup g f).bienoHeld = d.bienoHeld := rfl
@[simp] theorem modGroup_halted : (d.modGroup g f).halted = d.halted := rfl
@[simp] theorem modGroup_power : (d.modGroup g f).power = d.power := rfl
@[simp] theorem modGroup_flits : (d.modGroup g f).flits = d.flits := rfl
end

section
variable (d : Dev) (g wi : Nat) (f : Warp → Warp)
@[simp] theorem modWarp_cfg : (d.modWarp g wi f).cfg = d.cfg := rfl
@[simp] theorem modWarp_now : (d.modWarp g wi f).now = d.now := rfl
@[simp] theorem modWarp_free : (d.modWarp g wi f).free = d.free := rfl
@[simp] theorem modWarp_nextId : (d.modWarp g wi f).nextId = d.nextId := rfl
@[simp] theorem modWarp_cur : (d.modWarp g wi f).cur = d.cur := rfl
@[simp] theorem modWarp_rested : (d.modWarp g wi f).rested = d.rested := rfl
@[simp] theorem modWarp_past : (d.modWarp g wi f).past = d.past := rfl
@[simp] theorem modWarp_fences : (d.modWarp g wi f).fences = d.fences := rfl
@[simp] theorem modWarp_lags : (d.modWarp g wi f).lags = d.lags := rfl
@[simp] theorem modWarp_lastWarp : (d.modWarp g wi f).lastWarp = d.lastWarp := rfl
@[simp] theorem modWarp_grids : (d.modWarp g wi f).grids = d.grids := rfl
@[simp] theorem modWarp_queues : (d.modWarp g wi f).queues = d.queues := rfl
@[simp] theorem modWarp_dists : (d.modWarp g wi f).dists = d.dists := rfl
@[simp] theorem modWarp_mem : (d.modWarp g wi f).mem = d.mem := rfl
@[simp] theorem modWarp_hive : (d.modWarp g wi f).hive = d.hive := rfl
@[simp] theorem modWarp_l1 : (d.modWarp g wi f).l1 = d.l1 := rfl
@[simp] theorem modWarp_tlb : (d.modWarp g wi f).tlb = d.tlb := rfl
@[simp] theorem modWarp_ibuf : (d.modWarp g wi f).ibuf = d.ibuf := rfl
@[simp] theorem modWarp_bad : (d.modWarp g wi f).bad = d.bad := rfl
@[simp] theorem modWarp_owner : (d.modWarp g wi f).owner = d.owner := rfl
@[simp] theorem modWarp_badReg : (d.modWarp g wi f).badReg = d.badReg := rfl
@[simp] theorem modWarp_badTile : (d.modWarp g wi f).badTile = d.badTile := rfl
@[simp] theorem modWarp_tlbinv : (d.modWarp g wi f).tlbinv = d.tlbinv := rfl
@[simp] theorem modWarp_sems : (d.modWarp g wi f).sems = d.sems := rfl
@[simp] theorem modWarp_semKnow : (d.modWarp g wi f).semKnow = d.semKnow := rfl
@[simp] theorem modWarp_ops : (d.modWarp g wi f).ops = d.ops := rfl
@[simp] theorem modWarp_segs : (d.modWarp g wi f).segs = d.segs := rfl
@[simp] theorem modWarp_slots : (d.modWarp g wi f).slots = d.slots := rfl
@[simp] theorem modWarp_stages : (d.modWarp g wi f).stages = d.stages := rfl
@[simp] theorem modWarp_draws : (d.modWarp g wi f).draws = d.draws := rfl
@[simp] theorem modWarp_drones : (d.modWarp g wi f).drones = d.drones := rfl
@[simp] theorem modWarp_boxes : (d.modWarp g wi f).boxes = d.boxes := rfl
@[simp] theorem modWarp_polver : (d.modWarp g wi f).polver = d.polver := rfl
@[simp] theorem modWarp_polKnow : (d.modWarp g wi f).polKnow = d.polKnow := rfl
@[simp] theorem modWarp_vfs : (d.modWarp g wi f).vfs = d.vfs := rfl
@[simp] theorem modWarp_parts : (d.modWarp g wi f).parts = d.parts := rfl
@[simp] theorem modWarp_clus : (d.modWarp g wi f).clus = d.clus := rfl
@[simp] theorem modWarp_evsel : (d.modWarp g wi f).evsel = d.evsel := rfl
@[simp] theorem modWarp_evcnt : (d.modWarp g wi f).evcnt = d.evcnt := rfl
@[simp] theorem modWarp_evovf : (d.modWarp g wi f).evovf = d.evovf := rfl
@[simp] theorem modWarp_ovfs : (d.modWarp g wi f).ovfs = d.ovfs := rfl
@[simp] theorem modWarp_odd : (d.modWarp g wi f).odd = d.odd := rfl
@[simp] theorem modWarp_watch : (d.modWarp g wi f).watch = d.watch := rfl
@[simp] theorem modWarp_hits : (d.modWarp g wi f).hits = d.hits := rfl
@[simp] theorem modWarp_late : (d.modWarp g wi f).late = d.late := rfl
@[simp] theorem modWarp_downDie : (d.modWarp g wi f).downDie = d.downDie := rfl
@[simp] theorem modWarp_downNode : (d.modWarp g wi f).downNode = d.downNode := rfl
@[simp] theorem modWarp_bienoHeld : (d.modWarp g wi f).bienoHeld = d.bienoHeld := rfl
@[simp] theorem modWarp_halted : (d.modWarp g wi f).halted = d.halted := rfl
@[simp] theorem modWarp_power : (d.modWarp g wi f).power = d.power := rfl
@[simp] theorem modWarp_flits : (d.modWarp g wi f).flits = d.flits := rfl
end

section
variable (d : Dev) (g : Nat) (f : Grid → Grid)
@[simp] theorem modGrid_cfg : (d.modGrid g f).cfg = d.cfg := rfl
@[simp] theorem modGrid_now : (d.modGrid g f).now = d.now := rfl
@[simp] theorem modGrid_free : (d.modGrid g f).free = d.free := rfl
@[simp] theorem modGrid_nextId : (d.modGrid g f).nextId = d.nextId := rfl
@[simp] theorem modGrid_cur : (d.modGrid g f).cur = d.cur := rfl
@[simp] theorem modGrid_rested : (d.modGrid g f).rested = d.rested := rfl
@[simp] theorem modGrid_past : (d.modGrid g f).past = d.past := rfl
@[simp] theorem modGrid_fences : (d.modGrid g f).fences = d.fences := rfl
@[simp] theorem modGrid_lags : (d.modGrid g f).lags = d.lags := rfl
@[simp] theorem modGrid_groups : (d.modGrid g f).groups = d.groups := rfl
@[simp] theorem modGrid_lastWarp : (d.modGrid g f).lastWarp = d.lastWarp := rfl
@[simp] theorem modGrid_queues : (d.modGrid g f).queues = d.queues := rfl
@[simp] theorem modGrid_dists : (d.modGrid g f).dists = d.dists := rfl
@[simp] theorem modGrid_mem : (d.modGrid g f).mem = d.mem := rfl
@[simp] theorem modGrid_hive : (d.modGrid g f).hive = d.hive := rfl
@[simp] theorem modGrid_l1 : (d.modGrid g f).l1 = d.l1 := rfl
@[simp] theorem modGrid_tlb : (d.modGrid g f).tlb = d.tlb := rfl
@[simp] theorem modGrid_ibuf : (d.modGrid g f).ibuf = d.ibuf := rfl
@[simp] theorem modGrid_bad : (d.modGrid g f).bad = d.bad := rfl
@[simp] theorem modGrid_owner : (d.modGrid g f).owner = d.owner := rfl
@[simp] theorem modGrid_badReg : (d.modGrid g f).badReg = d.badReg := rfl
@[simp] theorem modGrid_badTile : (d.modGrid g f).badTile = d.badTile := rfl
@[simp] theorem modGrid_tlbinv : (d.modGrid g f).tlbinv = d.tlbinv := rfl
@[simp] theorem modGrid_sems : (d.modGrid g f).sems = d.sems := rfl
@[simp] theorem modGrid_semKnow : (d.modGrid g f).semKnow = d.semKnow := rfl
@[simp] theorem modGrid_ops : (d.modGrid g f).ops = d.ops := rfl
@[simp] theorem modGrid_segs : (d.modGrid g f).segs = d.segs := rfl
@[simp] theorem modGrid_slots : (d.modGrid g f).slots = d.slots := rfl
@[simp] theorem modGrid_stages : (d.modGrid g f).stages = d.stages := rfl
@[simp] theorem modGrid_draws : (d.modGrid g f).draws = d.draws := rfl
@[simp] theorem modGrid_drones : (d.modGrid g f).drones = d.drones := rfl
@[simp] theorem modGrid_boxes : (d.modGrid g f).boxes = d.boxes := rfl
@[simp] theorem modGrid_polver : (d.modGrid g f).polver = d.polver := rfl
@[simp] theorem modGrid_polKnow : (d.modGrid g f).polKnow = d.polKnow := rfl
@[simp] theorem modGrid_vfs : (d.modGrid g f).vfs = d.vfs := rfl
@[simp] theorem modGrid_parts : (d.modGrid g f).parts = d.parts := rfl
@[simp] theorem modGrid_clus : (d.modGrid g f).clus = d.clus := rfl
@[simp] theorem modGrid_evsel : (d.modGrid g f).evsel = d.evsel := rfl
@[simp] theorem modGrid_evcnt : (d.modGrid g f).evcnt = d.evcnt := rfl
@[simp] theorem modGrid_evovf : (d.modGrid g f).evovf = d.evovf := rfl
@[simp] theorem modGrid_ovfs : (d.modGrid g f).ovfs = d.ovfs := rfl
@[simp] theorem modGrid_odd : (d.modGrid g f).odd = d.odd := rfl
@[simp] theorem modGrid_watch : (d.modGrid g f).watch = d.watch := rfl
@[simp] theorem modGrid_hits : (d.modGrid g f).hits = d.hits := rfl
@[simp] theorem modGrid_late : (d.modGrid g f).late = d.late := rfl
@[simp] theorem modGrid_downDie : (d.modGrid g f).downDie = d.downDie := rfl
@[simp] theorem modGrid_downNode : (d.modGrid g f).downNode = d.downNode := rfl
@[simp] theorem modGrid_bienoHeld : (d.modGrid g f).bienoHeld = d.bienoHeld := rfl
@[simp] theorem modGrid_halted : (d.modGrid g f).halted = d.halted := rfl
@[simp] theorem modGrid_power : (d.modGrid g f).power = d.power := rfl
@[simp] theorem modGrid_flits : (d.modGrid g f).flits = d.flits := rfl
end

section
variable (d : Dev) (g : Nat) (f : Draw → Draw)
@[simp] theorem modDraw_cfg : (d.modDraw g f).cfg = d.cfg := rfl
@[simp] theorem modDraw_now : (d.modDraw g f).now = d.now := rfl
@[simp] theorem modDraw_free : (d.modDraw g f).free = d.free := rfl
@[simp] theorem modDraw_nextId : (d.modDraw g f).nextId = d.nextId := rfl
@[simp] theorem modDraw_cur : (d.modDraw g f).cur = d.cur := rfl
@[simp] theorem modDraw_rested : (d.modDraw g f).rested = d.rested := rfl
@[simp] theorem modDraw_past : (d.modDraw g f).past = d.past := rfl
@[simp] theorem modDraw_fences : (d.modDraw g f).fences = d.fences := rfl
@[simp] theorem modDraw_lags : (d.modDraw g f).lags = d.lags := rfl
@[simp] theorem modDraw_groups : (d.modDraw g f).groups = d.groups := rfl
@[simp] theorem modDraw_lastWarp : (d.modDraw g f).lastWarp = d.lastWarp := rfl
@[simp] theorem modDraw_grids : (d.modDraw g f).grids = d.grids := rfl
@[simp] theorem modDraw_queues : (d.modDraw g f).queues = d.queues := rfl
@[simp] theorem modDraw_dists : (d.modDraw g f).dists = d.dists := rfl
@[simp] theorem modDraw_mem : (d.modDraw g f).mem = d.mem := rfl
@[simp] theorem modDraw_hive : (d.modDraw g f).hive = d.hive := rfl
@[simp] theorem modDraw_l1 : (d.modDraw g f).l1 = d.l1 := rfl
@[simp] theorem modDraw_tlb : (d.modDraw g f).tlb = d.tlb := rfl
@[simp] theorem modDraw_ibuf : (d.modDraw g f).ibuf = d.ibuf := rfl
@[simp] theorem modDraw_bad : (d.modDraw g f).bad = d.bad := rfl
@[simp] theorem modDraw_owner : (d.modDraw g f).owner = d.owner := rfl
@[simp] theorem modDraw_badReg : (d.modDraw g f).badReg = d.badReg := rfl
@[simp] theorem modDraw_badTile : (d.modDraw g f).badTile = d.badTile := rfl
@[simp] theorem modDraw_tlbinv : (d.modDraw g f).tlbinv = d.tlbinv := rfl
@[simp] theorem modDraw_sems : (d.modDraw g f).sems = d.sems := rfl
@[simp] theorem modDraw_semKnow : (d.modDraw g f).semKnow = d.semKnow := rfl
@[simp] theorem modDraw_ops : (d.modDraw g f).ops = d.ops := rfl
@[simp] theorem modDraw_segs : (d.modDraw g f).segs = d.segs := rfl
@[simp] theorem modDraw_slots : (d.modDraw g f).slots = d.slots := rfl
@[simp] theorem modDraw_stages : (d.modDraw g f).stages = d.stages := rfl
@[simp] theorem modDraw_drones : (d.modDraw g f).drones = d.drones := rfl
@[simp] theorem modDraw_boxes : (d.modDraw g f).boxes = d.boxes := rfl
@[simp] theorem modDraw_polver : (d.modDraw g f).polver = d.polver := rfl
@[simp] theorem modDraw_polKnow : (d.modDraw g f).polKnow = d.polKnow := rfl
@[simp] theorem modDraw_vfs : (d.modDraw g f).vfs = d.vfs := rfl
@[simp] theorem modDraw_parts : (d.modDraw g f).parts = d.parts := rfl
@[simp] theorem modDraw_clus : (d.modDraw g f).clus = d.clus := rfl
@[simp] theorem modDraw_evsel : (d.modDraw g f).evsel = d.evsel := rfl
@[simp] theorem modDraw_evcnt : (d.modDraw g f).evcnt = d.evcnt := rfl
@[simp] theorem modDraw_evovf : (d.modDraw g f).evovf = d.evovf := rfl
@[simp] theorem modDraw_ovfs : (d.modDraw g f).ovfs = d.ovfs := rfl
@[simp] theorem modDraw_odd : (d.modDraw g f).odd = d.odd := rfl
@[simp] theorem modDraw_watch : (d.modDraw g f).watch = d.watch := rfl
@[simp] theorem modDraw_hits : (d.modDraw g f).hits = d.hits := rfl
@[simp] theorem modDraw_late : (d.modDraw g f).late = d.late := rfl
@[simp] theorem modDraw_downDie : (d.modDraw g f).downDie = d.downDie := rfl
@[simp] theorem modDraw_downNode : (d.modDraw g f).downNode = d.downNode := rfl
@[simp] theorem modDraw_bienoHeld : (d.modDraw g f).bienoHeld = d.bienoHeld := rfl
@[simp] theorem modDraw_halted : (d.modDraw g f).halted = d.halted := rfl
@[simp] theorem modDraw_power : (d.modDraw g f).power = d.power := rfl
@[simp] theorem modDraw_flits : (d.modDraw g f).flits = d.flits := rfl
end

section
variable (d : Dev) (q : Nat) (f : Queue → Queue)
@[simp] theorem modQueue_cfg : (d.modQueue q f).cfg = d.cfg := rfl
@[simp] theorem modQueue_now : (d.modQueue q f).now = d.now := rfl
@[simp] theorem modQueue_free : (d.modQueue q f).free = d.free := rfl
@[simp] theorem modQueue_nextId : (d.modQueue q f).nextId = d.nextId := rfl
@[simp] theorem modQueue_cur : (d.modQueue q f).cur = d.cur := rfl
@[simp] theorem modQueue_rested : (d.modQueue q f).rested = d.rested := rfl
@[simp] theorem modQueue_past : (d.modQueue q f).past = d.past := rfl
@[simp] theorem modQueue_fences : (d.modQueue q f).fences = d.fences := rfl
@[simp] theorem modQueue_lags : (d.modQueue q f).lags = d.lags := rfl
@[simp] theorem modQueue_groups : (d.modQueue q f).groups = d.groups := rfl
@[simp] theorem modQueue_lastWarp : (d.modQueue q f).lastWarp = d.lastWarp := rfl
@[simp] theorem modQueue_grids : (d.modQueue q f).grids = d.grids := rfl
@[simp] theorem modQueue_dists : (d.modQueue q f).dists = d.dists := rfl
@[simp] theorem modQueue_mem : (d.modQueue q f).mem = d.mem := rfl
@[simp] theorem modQueue_hive : (d.modQueue q f).hive = d.hive := rfl
@[simp] theorem modQueue_l1 : (d.modQueue q f).l1 = d.l1 := rfl
@[simp] theorem modQueue_tlb : (d.modQueue q f).tlb = d.tlb := rfl
@[simp] theorem modQueue_ibuf : (d.modQueue q f).ibuf = d.ibuf := rfl
@[simp] theorem modQueue_bad : (d.modQueue q f).bad = d.bad := rfl
@[simp] theorem modQueue_owner : (d.modQueue q f).owner = d.owner := rfl
@[simp] theorem modQueue_badReg : (d.modQueue q f).badReg = d.badReg := rfl
@[simp] theorem modQueue_badTile : (d.modQueue q f).badTile = d.badTile := rfl
@[simp] theorem modQueue_tlbinv : (d.modQueue q f).tlbinv = d.tlbinv := rfl
@[simp] theorem modQueue_sems : (d.modQueue q f).sems = d.sems := rfl
@[simp] theorem modQueue_semKnow : (d.modQueue q f).semKnow = d.semKnow := rfl
@[simp] theorem modQueue_ops : (d.modQueue q f).ops = d.ops := rfl
@[simp] theorem modQueue_segs : (d.modQueue q f).segs = d.segs := rfl
@[simp] theorem modQueue_slots : (d.modQueue q f).slots = d.slots := rfl
@[simp] theorem modQueue_stages : (d.modQueue q f).stages = d.stages := rfl
@[simp] theorem modQueue_draws : (d.modQueue q f).draws = d.draws := rfl
@[simp] theorem modQueue_drones : (d.modQueue q f).drones = d.drones := rfl
@[simp] theorem modQueue_boxes : (d.modQueue q f).boxes = d.boxes := rfl
@[simp] theorem modQueue_polver : (d.modQueue q f).polver = d.polver := rfl
@[simp] theorem modQueue_polKnow : (d.modQueue q f).polKnow = d.polKnow := rfl
@[simp] theorem modQueue_vfs : (d.modQueue q f).vfs = d.vfs := rfl
@[simp] theorem modQueue_parts : (d.modQueue q f).parts = d.parts := rfl
@[simp] theorem modQueue_clus : (d.modQueue q f).clus = d.clus := rfl
@[simp] theorem modQueue_evsel : (d.modQueue q f).evsel = d.evsel := rfl
@[simp] theorem modQueue_evcnt : (d.modQueue q f).evcnt = d.evcnt := rfl
@[simp] theorem modQueue_evovf : (d.modQueue q f).evovf = d.evovf := rfl
@[simp] theorem modQueue_ovfs : (d.modQueue q f).ovfs = d.ovfs := rfl
@[simp] theorem modQueue_odd : (d.modQueue q f).odd = d.odd := rfl
@[simp] theorem modQueue_watch : (d.modQueue q f).watch = d.watch := rfl
@[simp] theorem modQueue_hits : (d.modQueue q f).hits = d.hits := rfl
@[simp] theorem modQueue_late : (d.modQueue q f).late = d.late := rfl
@[simp] theorem modQueue_downDie : (d.modQueue q f).downDie = d.downDie := rfl
@[simp] theorem modQueue_downNode : (d.modQueue q f).downNode = d.downNode := rfl
@[simp] theorem modQueue_bienoHeld : (d.modQueue q f).bienoHeld = d.bienoHeld := rfl
@[simp] theorem modQueue_halted : (d.modQueue q f).halted = d.halted := rfl
@[simp] theorem modQueue_power : (d.modQueue q f).power = d.power := rfl
@[simp] theorem modQueue_flits : (d.modQueue q f).flits = d.flits := rfl
end

section
variable (d : Dev) (id : Nat) (f : Op → Op)
@[simp] theorem modOp_cfg : (d.modOp id f).cfg = d.cfg := rfl
@[simp] theorem modOp_now : (d.modOp id f).now = d.now := rfl
@[simp] theorem modOp_free : (d.modOp id f).free = d.free := rfl
@[simp] theorem modOp_nextId : (d.modOp id f).nextId = d.nextId := rfl
@[simp] theorem modOp_cur : (d.modOp id f).cur = d.cur := rfl
@[simp] theorem modOp_rested : (d.modOp id f).rested = d.rested := rfl
@[simp] theorem modOp_past : (d.modOp id f).past = d.past := rfl
@[simp] theorem modOp_fences : (d.modOp id f).fences = d.fences := rfl
@[simp] theorem modOp_lags : (d.modOp id f).lags = d.lags := rfl
@[simp] theorem modOp_groups : (d.modOp id f).groups = d.groups := rfl
@[simp] theorem modOp_lastWarp : (d.modOp id f).lastWarp = d.lastWarp := rfl
@[simp] theorem modOp_grids : (d.modOp id f).grids = d.grids := rfl
@[simp] theorem modOp_queues : (d.modOp id f).queues = d.queues := rfl
@[simp] theorem modOp_dists : (d.modOp id f).dists = d.dists := rfl
@[simp] theorem modOp_mem : (d.modOp id f).mem = d.mem := rfl
@[simp] theorem modOp_hive : (d.modOp id f).hive = d.hive := rfl
@[simp] theorem modOp_l1 : (d.modOp id f).l1 = d.l1 := rfl
@[simp] theorem modOp_tlb : (d.modOp id f).tlb = d.tlb := rfl
@[simp] theorem modOp_ibuf : (d.modOp id f).ibuf = d.ibuf := rfl
@[simp] theorem modOp_bad : (d.modOp id f).bad = d.bad := rfl
@[simp] theorem modOp_owner : (d.modOp id f).owner = d.owner := rfl
@[simp] theorem modOp_badReg : (d.modOp id f).badReg = d.badReg := rfl
@[simp] theorem modOp_badTile : (d.modOp id f).badTile = d.badTile := rfl
@[simp] theorem modOp_tlbinv : (d.modOp id f).tlbinv = d.tlbinv := rfl
@[simp] theorem modOp_sems : (d.modOp id f).sems = d.sems := rfl
@[simp] theorem modOp_semKnow : (d.modOp id f).semKnow = d.semKnow := rfl
@[simp] theorem modOp_segs : (d.modOp id f).segs = d.segs := rfl
@[simp] theorem modOp_slots : (d.modOp id f).slots = d.slots := rfl
@[simp] theorem modOp_stages : (d.modOp id f).stages = d.stages := rfl
@[simp] theorem modOp_draws : (d.modOp id f).draws = d.draws := rfl
@[simp] theorem modOp_drones : (d.modOp id f).drones = d.drones := rfl
@[simp] theorem modOp_boxes : (d.modOp id f).boxes = d.boxes := rfl
@[simp] theorem modOp_polver : (d.modOp id f).polver = d.polver := rfl
@[simp] theorem modOp_polKnow : (d.modOp id f).polKnow = d.polKnow := rfl
@[simp] theorem modOp_vfs : (d.modOp id f).vfs = d.vfs := rfl
@[simp] theorem modOp_parts : (d.modOp id f).parts = d.parts := rfl
@[simp] theorem modOp_clus : (d.modOp id f).clus = d.clus := rfl
@[simp] theorem modOp_evsel : (d.modOp id f).evsel = d.evsel := rfl
@[simp] theorem modOp_evcnt : (d.modOp id f).evcnt = d.evcnt := rfl
@[simp] theorem modOp_evovf : (d.modOp id f).evovf = d.evovf := rfl
@[simp] theorem modOp_ovfs : (d.modOp id f).ovfs = d.ovfs := rfl
@[simp] theorem modOp_odd : (d.modOp id f).odd = d.odd := rfl
@[simp] theorem modOp_watch : (d.modOp id f).watch = d.watch := rfl
@[simp] theorem modOp_hits : (d.modOp id f).hits = d.hits := rfl
@[simp] theorem modOp_late : (d.modOp id f).late = d.late := rfl
@[simp] theorem modOp_downDie : (d.modOp id f).downDie = d.downDie := rfl
@[simp] theorem modOp_downNode : (d.modOp id f).downNode = d.downNode := rfl
@[simp] theorem modOp_bienoHeld : (d.modOp id f).bienoHeld = d.bienoHeld := rfl
@[simp] theorem modOp_halted : (d.modOp id f).halted = d.halted := rfl
@[simp] theorem modOp_power : (d.modOp id f).power = d.power := rfl
@[simp] theorem modOp_flits : (d.modOp id f).flits = d.flits := rfl
end

section
variable (d : Dev) (id : Nat)
@[simp] theorem dropOp_cfg : (d.dropOp id).cfg = d.cfg := rfl
@[simp] theorem dropOp_now : (d.dropOp id).now = d.now := rfl
@[simp] theorem dropOp_free : (d.dropOp id).free = d.free := rfl
@[simp] theorem dropOp_nextId : (d.dropOp id).nextId = d.nextId := rfl
@[simp] theorem dropOp_cur : (d.dropOp id).cur = d.cur := rfl
@[simp] theorem dropOp_rested : (d.dropOp id).rested = d.rested := rfl
@[simp] theorem dropOp_past : (d.dropOp id).past = d.past := rfl
@[simp] theorem dropOp_fences : (d.dropOp id).fences = d.fences := rfl
@[simp] theorem dropOp_lags : (d.dropOp id).lags = d.lags := rfl
@[simp] theorem dropOp_groups : (d.dropOp id).groups = d.groups := rfl
@[simp] theorem dropOp_lastWarp : (d.dropOp id).lastWarp = d.lastWarp := rfl
@[simp] theorem dropOp_grids : (d.dropOp id).grids = d.grids := rfl
@[simp] theorem dropOp_queues : (d.dropOp id).queues = d.queues := rfl
@[simp] theorem dropOp_dists : (d.dropOp id).dists = d.dists := rfl
@[simp] theorem dropOp_mem : (d.dropOp id).mem = d.mem := rfl
@[simp] theorem dropOp_hive : (d.dropOp id).hive = d.hive := rfl
@[simp] theorem dropOp_l1 : (d.dropOp id).l1 = d.l1 := rfl
@[simp] theorem dropOp_tlb : (d.dropOp id).tlb = d.tlb := rfl
@[simp] theorem dropOp_ibuf : (d.dropOp id).ibuf = d.ibuf := rfl
@[simp] theorem dropOp_bad : (d.dropOp id).bad = d.bad := rfl
@[simp] theorem dropOp_owner : (d.dropOp id).owner = d.owner := rfl
@[simp] theorem dropOp_badReg : (d.dropOp id).badReg = d.badReg := rfl
@[simp] theorem dropOp_badTile : (d.dropOp id).badTile = d.badTile := rfl
@[simp] theorem dropOp_tlbinv : (d.dropOp id).tlbinv = d.tlbinv := rfl
@[simp] theorem dropOp_sems : (d.dropOp id).sems = d.sems := rfl
@[simp] theorem dropOp_semKnow : (d.dropOp id).semKnow = d.semKnow := rfl
@[simp] theorem dropOp_segs : (d.dropOp id).segs = d.segs := rfl
@[simp] theorem dropOp_slots : (d.dropOp id).slots = d.slots := rfl
@[simp] theorem dropOp_stages : (d.dropOp id).stages = d.stages := rfl
@[simp] theorem dropOp_draws : (d.dropOp id).draws = d.draws := rfl
@[simp] theorem dropOp_drones : (d.dropOp id).drones = d.drones := rfl
@[simp] theorem dropOp_boxes : (d.dropOp id).boxes = d.boxes := rfl
@[simp] theorem dropOp_polver : (d.dropOp id).polver = d.polver := rfl
@[simp] theorem dropOp_polKnow : (d.dropOp id).polKnow = d.polKnow := rfl
@[simp] theorem dropOp_vfs : (d.dropOp id).vfs = d.vfs := rfl
@[simp] theorem dropOp_parts : (d.dropOp id).parts = d.parts := rfl
@[simp] theorem dropOp_clus : (d.dropOp id).clus = d.clus := rfl
@[simp] theorem dropOp_evsel : (d.dropOp id).evsel = d.evsel := rfl
@[simp] theorem dropOp_evcnt : (d.dropOp id).evcnt = d.evcnt := rfl
@[simp] theorem dropOp_evovf : (d.dropOp id).evovf = d.evovf := rfl
@[simp] theorem dropOp_ovfs : (d.dropOp id).ovfs = d.ovfs := rfl
@[simp] theorem dropOp_odd : (d.dropOp id).odd = d.odd := rfl
@[simp] theorem dropOp_watch : (d.dropOp id).watch = d.watch := rfl
@[simp] theorem dropOp_hits : (d.dropOp id).hits = d.hits := rfl
@[simp] theorem dropOp_late : (d.dropOp id).late = d.late := rfl
@[simp] theorem dropOp_downDie : (d.dropOp id).downDie = d.downDie := rfl
@[simp] theorem dropOp_downNode : (d.dropOp id).downNode = d.downNode := rfl
@[simp] theorem dropOp_bienoHeld : (d.dropOp id).bienoHeld = d.bienoHeld := rfl
@[simp] theorem dropOp_halted : (d.dropOp id).halted = d.halted := rfl
@[simp] theorem dropOp_power : (d.dropOp id).power = d.power := rfl
@[simp] theorem dropOp_flits : (d.dropOp id).flits = d.flits := rfl
end

section
variable (d : Dev) (src : Origin) (done : Nat) (k : OpKind)
@[simp] theorem fork_cfg : (d.fork src done k).cfg = d.cfg := rfl
@[simp] theorem fork_now : (d.fork src done k).now = d.now := rfl
@[simp] theorem fork_free : (d.fork src done k).free = d.free := rfl
@[simp] theorem fork_cur : (d.fork src done k).cur = d.cur := rfl
@[simp] theorem fork_rested : (d.fork src done k).rested = d.rested := rfl
@[simp] theorem fork_past : (d.fork src done k).past = d.past := rfl
@[simp] theorem fork_fences : (d.fork src done k).fences = d.fences := rfl
@[simp] theorem fork_lags : (d.fork src done k).lags = d.lags := rfl
@[simp] theorem fork_groups : (d.fork src done k).groups = d.groups := rfl
@[simp] theorem fork_lastWarp : (d.fork src done k).lastWarp = d.lastWarp := rfl
@[simp] theorem fork_grids : (d.fork src done k).grids = d.grids := rfl
@[simp] theorem fork_queues : (d.fork src done k).queues = d.queues := rfl
@[simp] theorem fork_dists : (d.fork src done k).dists = d.dists := rfl
@[simp] theorem fork_mem : (d.fork src done k).mem = d.mem := rfl
@[simp] theorem fork_hive : (d.fork src done k).hive = d.hive := rfl
@[simp] theorem fork_l1 : (d.fork src done k).l1 = d.l1 := rfl
@[simp] theorem fork_tlb : (d.fork src done k).tlb = d.tlb := rfl
@[simp] theorem fork_ibuf : (d.fork src done k).ibuf = d.ibuf := rfl
@[simp] theorem fork_bad : (d.fork src done k).bad = d.bad := rfl
@[simp] theorem fork_owner : (d.fork src done k).owner = d.owner := rfl
@[simp] theorem fork_badReg : (d.fork src done k).badReg = d.badReg := rfl
@[simp] theorem fork_badTile : (d.fork src done k).badTile = d.badTile := rfl
@[simp] theorem fork_tlbinv : (d.fork src done k).tlbinv = d.tlbinv := rfl
@[simp] theorem fork_sems : (d.fork src done k).sems = d.sems := rfl
@[simp] theorem fork_semKnow : (d.fork src done k).semKnow = d.semKnow := rfl
@[simp] theorem fork_segs : (d.fork src done k).segs = d.segs := rfl
@[simp] theorem fork_slots : (d.fork src done k).slots = d.slots := rfl
@[simp] theorem fork_stages : (d.fork src done k).stages = d.stages := rfl
@[simp] theorem fork_draws : (d.fork src done k).draws = d.draws := rfl
@[simp] theorem fork_drones : (d.fork src done k).drones = d.drones := rfl
@[simp] theorem fork_boxes : (d.fork src done k).boxes = d.boxes := rfl
@[simp] theorem fork_polver : (d.fork src done k).polver = d.polver := rfl
@[simp] theorem fork_polKnow : (d.fork src done k).polKnow = d.polKnow := rfl
@[simp] theorem fork_vfs : (d.fork src done k).vfs = d.vfs := rfl
@[simp] theorem fork_parts : (d.fork src done k).parts = d.parts := rfl
@[simp] theorem fork_clus : (d.fork src done k).clus = d.clus := rfl
@[simp] theorem fork_evsel : (d.fork src done k).evsel = d.evsel := rfl
@[simp] theorem fork_evcnt : (d.fork src done k).evcnt = d.evcnt := rfl
@[simp] theorem fork_evovf : (d.fork src done k).evovf = d.evovf := rfl
@[simp] theorem fork_ovfs : (d.fork src done k).ovfs = d.ovfs := rfl
@[simp] theorem fork_odd : (d.fork src done k).odd = d.odd := rfl
@[simp] theorem fork_watch : (d.fork src done k).watch = d.watch := rfl
@[simp] theorem fork_hits : (d.fork src done k).hits = d.hits := rfl
@[simp] theorem fork_late : (d.fork src done k).late = d.late := rfl
@[simp] theorem fork_downDie : (d.fork src done k).downDie = d.downDie := rfl
@[simp] theorem fork_downNode : (d.fork src done k).downNode = d.downNode := rfl
@[simp] theorem fork_bienoHeld : (d.fork src done k).bienoHeld = d.bienoHeld := rfl
@[simp] theorem fork_halted : (d.fork src done k).halted = d.halted := rfl
@[simp] theorem fork_power : (d.fork src done k).power = d.power := rfl
@[simp] theorem fork_flits : (d.fork src done k).flits = d.flits := rfl
end

section
variable (d : Dev) (die i : Nat) (s : Seg)
@[simp] theorem setSeg_cfg : (d.setSeg die i s).cfg = d.cfg := rfl
@[simp] theorem setSeg_now : (d.setSeg die i s).now = d.now := rfl
@[simp] theorem setSeg_free : (d.setSeg die i s).free = d.free := rfl
@[simp] theorem setSeg_nextId : (d.setSeg die i s).nextId = d.nextId := rfl
@[simp] theorem setSeg_cur : (d.setSeg die i s).cur = d.cur := rfl
@[simp] theorem setSeg_rested : (d.setSeg die i s).rested = d.rested := rfl
@[simp] theorem setSeg_past : (d.setSeg die i s).past = d.past := rfl
@[simp] theorem setSeg_fences : (d.setSeg die i s).fences = d.fences := rfl
@[simp] theorem setSeg_lags : (d.setSeg die i s).lags = d.lags := rfl
@[simp] theorem setSeg_groups : (d.setSeg die i s).groups = d.groups := rfl
@[simp] theorem setSeg_lastWarp : (d.setSeg die i s).lastWarp = d.lastWarp := rfl
@[simp] theorem setSeg_grids : (d.setSeg die i s).grids = d.grids := rfl
@[simp] theorem setSeg_queues : (d.setSeg die i s).queues = d.queues := rfl
@[simp] theorem setSeg_dists : (d.setSeg die i s).dists = d.dists := rfl
@[simp] theorem setSeg_mem : (d.setSeg die i s).mem = d.mem := rfl
@[simp] theorem setSeg_hive : (d.setSeg die i s).hive = d.hive := rfl
@[simp] theorem setSeg_l1 : (d.setSeg die i s).l1 = d.l1 := rfl
@[simp] theorem setSeg_tlb : (d.setSeg die i s).tlb = d.tlb := rfl
@[simp] theorem setSeg_ibuf : (d.setSeg die i s).ibuf = d.ibuf := rfl
@[simp] theorem setSeg_bad : (d.setSeg die i s).bad = d.bad := rfl
@[simp] theorem setSeg_owner : (d.setSeg die i s).owner = d.owner := rfl
@[simp] theorem setSeg_badReg : (d.setSeg die i s).badReg = d.badReg := rfl
@[simp] theorem setSeg_badTile : (d.setSeg die i s).badTile = d.badTile := rfl
@[simp] theorem setSeg_tlbinv : (d.setSeg die i s).tlbinv = d.tlbinv := rfl
@[simp] theorem setSeg_sems : (d.setSeg die i s).sems = d.sems := rfl
@[simp] theorem setSeg_semKnow : (d.setSeg die i s).semKnow = d.semKnow := rfl
@[simp] theorem setSeg_ops : (d.setSeg die i s).ops = d.ops := rfl
@[simp] theorem setSeg_slots : (d.setSeg die i s).slots = d.slots := rfl
@[simp] theorem setSeg_stages : (d.setSeg die i s).stages = d.stages := rfl
@[simp] theorem setSeg_draws : (d.setSeg die i s).draws = d.draws := rfl
@[simp] theorem setSeg_drones : (d.setSeg die i s).drones = d.drones := rfl
@[simp] theorem setSeg_boxes : (d.setSeg die i s).boxes = d.boxes := rfl
@[simp] theorem setSeg_polver : (d.setSeg die i s).polver = d.polver := rfl
@[simp] theorem setSeg_polKnow : (d.setSeg die i s).polKnow = d.polKnow := rfl
@[simp] theorem setSeg_vfs : (d.setSeg die i s).vfs = d.vfs := rfl
@[simp] theorem setSeg_parts : (d.setSeg die i s).parts = d.parts := rfl
@[simp] theorem setSeg_clus : (d.setSeg die i s).clus = d.clus := rfl
@[simp] theorem setSeg_evsel : (d.setSeg die i s).evsel = d.evsel := rfl
@[simp] theorem setSeg_evcnt : (d.setSeg die i s).evcnt = d.evcnt := rfl
@[simp] theorem setSeg_evovf : (d.setSeg die i s).evovf = d.evovf := rfl
@[simp] theorem setSeg_ovfs : (d.setSeg die i s).ovfs = d.ovfs := rfl
@[simp] theorem setSeg_odd : (d.setSeg die i s).odd = d.odd := rfl
@[simp] theorem setSeg_watch : (d.setSeg die i s).watch = d.watch := rfl
@[simp] theorem setSeg_hits : (d.setSeg die i s).hits = d.hits := rfl
@[simp] theorem setSeg_late : (d.setSeg die i s).late = d.late := rfl
@[simp] theorem setSeg_downDie : (d.setSeg die i s).downDie = d.downDie := rfl
@[simp] theorem setSeg_downNode : (d.setSeg die i s).downNode = d.downNode := rfl
@[simp] theorem setSeg_bienoHeld : (d.setSeg die i s).bienoHeld = d.bienoHeld := rfl
@[simp] theorem setSeg_halted : (d.setSeg die i s).halted = d.halted := rfl
@[simp] theorem setSeg_power : (d.setSeg die i s).power = d.power := rfl
@[simp] theorem setSeg_flits : (d.setSeg die i s).flits = d.flits := rfl
end

section
variable (d : Dev) (who : Who) (pa : Nat) (bs : List Byte)
@[simp] theorem poke_cfg : (d.poke who pa bs).cfg = d.cfg := rfl
@[simp] theorem poke_now : (d.poke who pa bs).now = d.now := rfl
@[simp] theorem poke_free : (d.poke who pa bs).free = d.free := rfl
@[simp] theorem poke_nextId : (d.poke who pa bs).nextId = d.nextId := rfl
@[simp] theorem poke_cur : (d.poke who pa bs).cur = d.cur := rfl
@[simp] theorem poke_rested : (d.poke who pa bs).rested = d.rested := rfl
@[simp] theorem poke_fences : (d.poke who pa bs).fences = d.fences := rfl
@[simp] theorem poke_lags : (d.poke who pa bs).lags = d.lags := rfl
@[simp] theorem poke_groups : (d.poke who pa bs).groups = d.groups := rfl
@[simp] theorem poke_lastWarp : (d.poke who pa bs).lastWarp = d.lastWarp := rfl
@[simp] theorem poke_grids : (d.poke who pa bs).grids = d.grids := rfl
@[simp] theorem poke_queues : (d.poke who pa bs).queues = d.queues := rfl
@[simp] theorem poke_dists : (d.poke who pa bs).dists = d.dists := rfl
@[simp] theorem poke_hive : (d.poke who pa bs).hive = d.hive := rfl
@[simp] theorem poke_tlb : (d.poke who pa bs).tlb = d.tlb := rfl
@[simp] theorem poke_badReg : (d.poke who pa bs).badReg = d.badReg := rfl
@[simp] theorem poke_badTile : (d.poke who pa bs).badTile = d.badTile := rfl
@[simp] theorem poke_tlbinv : (d.poke who pa bs).tlbinv = d.tlbinv := rfl
@[simp] theorem poke_sems : (d.poke who pa bs).sems = d.sems := rfl
@[simp] theorem poke_semKnow : (d.poke who pa bs).semKnow = d.semKnow := rfl
@[simp] theorem poke_ops : (d.poke who pa bs).ops = d.ops := rfl
@[simp] theorem poke_segs : (d.poke who pa bs).segs = d.segs := rfl
@[simp] theorem poke_slots : (d.poke who pa bs).slots = d.slots := rfl
@[simp] theorem poke_stages : (d.poke who pa bs).stages = d.stages := rfl
@[simp] theorem poke_draws : (d.poke who pa bs).draws = d.draws := rfl
@[simp] theorem poke_boxes : (d.poke who pa bs).boxes = d.boxes := rfl
@[simp] theorem poke_polver : (d.poke who pa bs).polver = d.polver := rfl
@[simp] theorem poke_polKnow : (d.poke who pa bs).polKnow = d.polKnow := rfl
@[simp] theorem poke_vfs : (d.poke who pa bs).vfs = d.vfs := rfl
@[simp] theorem poke_parts : (d.poke who pa bs).parts = d.parts := rfl
@[simp] theorem poke_clus : (d.poke who pa bs).clus = d.clus := rfl
@[simp] theorem poke_evsel : (d.poke who pa bs).evsel = d.evsel := rfl
@[simp] theorem poke_evcnt : (d.poke who pa bs).evcnt = d.evcnt := rfl
@[simp] theorem poke_evovf : (d.poke who pa bs).evovf = d.evovf := rfl
@[simp] theorem poke_ovfs : (d.poke who pa bs).ovfs = d.ovfs := rfl
@[simp] theorem poke_odd : (d.poke who pa bs).odd = d.odd := rfl
@[simp] theorem poke_watch : (d.poke who pa bs).watch = d.watch := rfl
@[simp] theorem poke_late : (d.poke who pa bs).late = d.late := rfl
@[simp] theorem poke_downDie : (d.poke who pa bs).downDie = d.downDie := rfl
@[simp] theorem poke_downNode : (d.poke who pa bs).downNode = d.downNode := rfl
@[simp] theorem poke_bienoHeld : (d.poke who pa bs).bienoHeld = d.bienoHeld := rfl
@[simp] theorem poke_halted : (d.poke who pa bs).halted = d.halted := rfl
@[simp] theorem poke_power : (d.poke who pa bs).power = d.power := rfl
@[simp] theorem poke_flits : (d.poke who pa bs).flits = d.flits := rfl
end

section
variable (d : Dev) (who : Who) (a : Nat) (bs : List Byte)
@[simp] theorem pokeHive_cfg : (d.pokeHive who a bs).cfg = d.cfg := rfl
@[simp] theorem pokeHive_now : (d.pokeHive who a bs).now = d.now := rfl
@[simp] theorem pokeHive_free : (d.pokeHive who a bs).free = d.free := rfl
@[simp] theorem pokeHive_nextId : (d.pokeHive who a bs).nextId = d.nextId := rfl
@[simp] theorem pokeHive_cur : (d.pokeHive who a bs).cur = d.cur := rfl
@[simp] theorem pokeHive_rested : (d.pokeHive who a bs).rested = d.rested := rfl
@[simp] theorem pokeHive_fences : (d.pokeHive who a bs).fences = d.fences := rfl
@[simp] theorem pokeHive_lags : (d.pokeHive who a bs).lags = d.lags := rfl
@[simp] theorem pokeHive_groups : (d.pokeHive who a bs).groups = d.groups := rfl
@[simp] theorem pokeHive_lastWarp : (d.pokeHive who a bs).lastWarp = d.lastWarp := rfl
@[simp] theorem pokeHive_grids : (d.pokeHive who a bs).grids = d.grids := rfl
@[simp] theorem pokeHive_queues : (d.pokeHive who a bs).queues = d.queues := rfl
@[simp] theorem pokeHive_dists : (d.pokeHive who a bs).dists = d.dists := rfl
@[simp] theorem pokeHive_mem : (d.pokeHive who a bs).mem = d.mem := rfl
@[simp] theorem pokeHive_l1 : (d.pokeHive who a bs).l1 = d.l1 := rfl
@[simp] theorem pokeHive_tlb : (d.pokeHive who a bs).tlb = d.tlb := rfl
@[simp] theorem pokeHive_ibuf : (d.pokeHive who a bs).ibuf = d.ibuf := rfl
@[simp] theorem pokeHive_owner : (d.pokeHive who a bs).owner = d.owner := rfl
@[simp] theorem pokeHive_badReg : (d.pokeHive who a bs).badReg = d.badReg := rfl
@[simp] theorem pokeHive_badTile : (d.pokeHive who a bs).badTile = d.badTile := rfl
@[simp] theorem pokeHive_tlbinv : (d.pokeHive who a bs).tlbinv = d.tlbinv := rfl
@[simp] theorem pokeHive_sems : (d.pokeHive who a bs).sems = d.sems := rfl
@[simp] theorem pokeHive_semKnow : (d.pokeHive who a bs).semKnow = d.semKnow := rfl
@[simp] theorem pokeHive_ops : (d.pokeHive who a bs).ops = d.ops := rfl
@[simp] theorem pokeHive_segs : (d.pokeHive who a bs).segs = d.segs := rfl
@[simp] theorem pokeHive_slots : (d.pokeHive who a bs).slots = d.slots := rfl
@[simp] theorem pokeHive_stages : (d.pokeHive who a bs).stages = d.stages := rfl
@[simp] theorem pokeHive_draws : (d.pokeHive who a bs).draws = d.draws := rfl
@[simp] theorem pokeHive_drones : (d.pokeHive who a bs).drones = d.drones := rfl
@[simp] theorem pokeHive_boxes : (d.pokeHive who a bs).boxes = d.boxes := rfl
@[simp] theorem pokeHive_polver : (d.pokeHive who a bs).polver = d.polver := rfl
@[simp] theorem pokeHive_polKnow : (d.pokeHive who a bs).polKnow = d.polKnow := rfl
@[simp] theorem pokeHive_vfs : (d.pokeHive who a bs).vfs = d.vfs := rfl
@[simp] theorem pokeHive_parts : (d.pokeHive who a bs).parts = d.parts := rfl
@[simp] theorem pokeHive_clus : (d.pokeHive who a bs).clus = d.clus := rfl
@[simp] theorem pokeHive_evsel : (d.pokeHive who a bs).evsel = d.evsel := rfl
@[simp] theorem pokeHive_evcnt : (d.pokeHive who a bs).evcnt = d.evcnt := rfl
@[simp] theorem pokeHive_evovf : (d.pokeHive who a bs).evovf = d.evovf := rfl
@[simp] theorem pokeHive_ovfs : (d.pokeHive who a bs).ovfs = d.ovfs := rfl
@[simp] theorem pokeHive_odd : (d.pokeHive who a bs).odd = d.odd := rfl
@[simp] theorem pokeHive_watch : (d.pokeHive who a bs).watch = d.watch := rfl
@[simp] theorem pokeHive_late : (d.pokeHive who a bs).late = d.late := rfl
@[simp] theorem pokeHive_downDie : (d.pokeHive who a bs).downDie = d.downDie := rfl
@[simp] theorem pokeHive_downNode : (d.pokeHive who a bs).downNode = d.downNode := rfl
@[simp] theorem pokeHive_bienoHeld : (d.pokeHive who a bs).bienoHeld = d.bienoHeld := rfl
@[simp] theorem pokeHive_halted : (d.pokeHive who a bs).halted = d.halted := rfl
@[simp] theorem pokeHive_power : (d.pokeHive who a bs).power = d.power := rfl
@[simp] theorem pokeHive_flits : (d.pokeHive who a bs).flits = d.flits := rfl
end

section
variable (d : Dev)
@[simp] theorem fresh_cfg : d.fresh.1.cfg = d.cfg := rfl
@[simp] theorem fresh_now : d.fresh.1.now = d.now := rfl
@[simp] theorem fresh_nextId : d.fresh.1.nextId = d.nextId := rfl
@[simp] theorem fresh_cur : d.fresh.1.cur = d.cur := rfl
@[simp] theorem fresh_rested : d.fresh.1.rested = d.rested := rfl
@[simp] theorem fresh_past : d.fresh.1.past = d.past := rfl
@[simp] theorem fresh_fences : d.fresh.1.fences = d.fences := rfl
@[simp] theorem fresh_lags : d.fresh.1.lags = d.lags := rfl
@[simp] theorem fresh_groups : d.fresh.1.groups = d.groups := rfl
@[simp] theorem fresh_lastWarp : d.fresh.1.lastWarp = d.lastWarp := rfl
@[simp] theorem fresh_grids : d.fresh.1.grids = d.grids := rfl
@[simp] theorem fresh_queues : d.fresh.1.queues = d.queues := rfl
@[simp] theorem fresh_dists : d.fresh.1.dists = d.dists := rfl
@[simp] theorem fresh_mem : d.fresh.1.mem = d.mem := rfl
@[simp] theorem fresh_hive : d.fresh.1.hive = d.hive := rfl
@[simp] theorem fresh_l1 : d.fresh.1.l1 = d.l1 := rfl
@[simp] theorem fresh_tlb : d.fresh.1.tlb = d.tlb := rfl
@[simp] theorem fresh_ibuf : d.fresh.1.ibuf = d.ibuf := rfl
@[simp] theorem fresh_bad : d.fresh.1.bad = d.bad := rfl
@[simp] theorem fresh_owner : d.fresh.1.owner = d.owner := rfl
@[simp] theorem fresh_badReg : d.fresh.1.badReg = d.badReg := rfl
@[simp] theorem fresh_badTile : d.fresh.1.badTile = d.badTile := rfl
@[simp] theorem fresh_tlbinv : d.fresh.1.tlbinv = d.tlbinv := rfl
@[simp] theorem fresh_sems : d.fresh.1.sems = d.sems := rfl
@[simp] theorem fresh_semKnow : d.fresh.1.semKnow = d.semKnow := rfl
@[simp] theorem fresh_ops : d.fresh.1.ops = d.ops := rfl
@[simp] theorem fresh_segs : d.fresh.1.segs = d.segs := rfl
@[simp] theorem fresh_slots : d.fresh.1.slots = d.slots := rfl
@[simp] theorem fresh_stages : d.fresh.1.stages = d.stages := rfl
@[simp] theorem fresh_draws : d.fresh.1.draws = d.draws := rfl
@[simp] theorem fresh_drones : d.fresh.1.drones = d.drones := rfl
@[simp] theorem fresh_boxes : d.fresh.1.boxes = d.boxes := rfl
@[simp] theorem fresh_polver : d.fresh.1.polver = d.polver := rfl
@[simp] theorem fresh_polKnow : d.fresh.1.polKnow = d.polKnow := rfl
@[simp] theorem fresh_vfs : d.fresh.1.vfs = d.vfs := rfl
@[simp] theorem fresh_parts : d.fresh.1.parts = d.parts := rfl
@[simp] theorem fresh_clus : d.fresh.1.clus = d.clus := rfl
@[simp] theorem fresh_evsel : d.fresh.1.evsel = d.evsel := rfl
@[simp] theorem fresh_evcnt : d.fresh.1.evcnt = d.evcnt := rfl
@[simp] theorem fresh_evovf : d.fresh.1.evovf = d.evovf := rfl
@[simp] theorem fresh_ovfs : d.fresh.1.ovfs = d.ovfs := rfl
@[simp] theorem fresh_odd : d.fresh.1.odd = d.odd := rfl
@[simp] theorem fresh_watch : d.fresh.1.watch = d.watch := rfl
@[simp] theorem fresh_hits : d.fresh.1.hits = d.hits := rfl
@[simp] theorem fresh_late : d.fresh.1.late = d.late := rfl
@[simp] theorem fresh_downDie : d.fresh.1.downDie = d.downDie := rfl
@[simp] theorem fresh_downNode : d.fresh.1.downNode = d.downNode := rfl
@[simp] theorem fresh_bienoHeld : d.fresh.1.bienoHeld = d.bienoHeld := rfl
@[simp] theorem fresh_halted : d.fresh.1.halted = d.halted := rfl
@[simp] theorem fresh_power : d.fresh.1.power = d.power := rfl
@[simp] theorem fresh_flits : d.fresh.1.flits = d.flits := rfl
end

/-- A change of the compute side answers a next state. -/
theorem onDev_next (s : State) (f : Dev → Dev) : s.onDev f = .next { s with dev := f s.dev } := rfl
/-- A change of both sides answers a next state. -/
theorem onAll_next (s : State) (f : Dev → Mgmt → Dev × Mgmt) :
    s.onAll f = .next { s with dev := (f s.dev s.mg).1, mg := (f s.dev s.mg).2 } := rfl

end Sys2Proof.Machine
end

