-- ==== Sys2Proof/Laws/Warp.lean ====
section
/-!
SUPPORT. Sets of lanes, the warp at hand, and the laws of its registers and program counters.
-/
namespace Sys2Proof.Machine

/-! ### Sets of lanes -/

theorem mem_lanesOf (s : LaneSet) (L : Nat) : L ∈ lanesOf s ↔ s.getLsbD L = true := by
  simp only [lanesOf, List.mem_filter, List.mem_range, and_iff_right_iff_imp]
  exact fun h => BitVec.lt_of_getLsbD h

theorem getLsbD_laneBit (L k : Nat) (h : k < 32) : (laneBit L).getLsbD k = decide (L = k) := by
  unfold laneBit
  rw [BitVec.getLsbD_shiftLeft, BitVec.getLsbD_one]
  simp only [h, decide_true, Bool.true_and]
  by_cases e : L = k
  · subst e; simp
  · simp only [e, decide_false]
    by_cases hk : k < L
    · simp [hk]
    · have : ¬ (k - L = 0) := by omega
      simp [this]

theorem getLsbD_foldl_or (ls : List Nat) (s : LaneSet) (k : Nat) (h : k < 32) :
    (ls.foldl (fun s L => s ||| laneBit L) s).getLsbD k = (s.getLsbD k || decide (k ∈ ls)) := by
  induction ls generalizing s with
  | nil => simp
  | cons L ls ih =>
    rw [List.foldl_cons, ih, BitVec.getLsbD_or, getLsbD_laneBit L k h]
    by_cases e : L = k
    · subst e; simp
    · have : ¬ k = L := fun h => e h.symm
      simp [e, this]

/-- A lane lies in the set of a list when it is one of the list. -/
theorem getLsbD_setOf (ls : List Nat) (k : Nat) (h : k < 32) : (setOf ls).getLsbD k = decide (k ∈ ls) := by
  unfold setOf; rw [getLsbD_foldl_or _ _ _ h]; simp

/-- The set of the lanes of a set is the set. -/
theorem setOf_lanesOf (s : LaneSet) : setOf (lanesOf s) = s := by
  apply BitVec.eq_of_getLsbD_eq
  intro k h
  rw [getLsbD_setOf _ _ h]
  simp [mem_lanesOf]

theorem lanesOf_zero : lanesOf 0 = [] := by decide

theorem lt_of_lane {s : LaneSet} {L : Nat} (h : s.getLsbD L = true) : L < 32 := BitVec.lt_of_getLsbD h

theorem ne_zero_of_lane {s : LaneSet} {L : Nat} (h : s.getLsbD L = true) : s ≠ 0 := by
  intro e; subst e; simp at h

theorem headD_mem {α : Type} (a : α) (l : List α) (h : l ≠ []) : l.headD a ∈ l := by
  cases l with
  | nil => exact absurd rfl h
  | cons b l => simp

/-- The lowest lane of a set that is not empty lies in it. -/
theorem lowest_mem {s : LaneSet} (h : s ≠ 0) : s.getLsbD (lowest s) = true := by
  have hl : lanesOf s ≠ [] := by
    intro e
    apply h
    rw [← setOf_lanesOf s, e]; rfl
  exact (mem_lanesOf s _).1 (headD_mem 0 _ hl)

/-! ### The warp at hand -/

theorem group?_modGroup (d : Dev) (g : Nat) (f : Group → Group) (hf : ∀ x, (f x).id = x.id) (h : Nat) :
    (d.modGroup g f).group? h = (d.group? h).map (fun x => if h = g then f x else x) := by
  have key : ∀ l : List Group, (l.map (fun x => if x.id = g then f x else x)).find? (·.id == h)
      = (l.find? (·.id == h)).map (fun x => if h = g then f x else x) := by
    intro l
    induction l with
    | nil => rfl
    | cons x l ih =>
      have e : (if x.id = g then f x else x).id = x.id := by split <;> simp [hf]
      rw [List.map_cons, List.find?_cons, List.find?_cons, e]
      by_cases hx : x.id = h
      · subst hx; simp
      · simp only [beq_eq_false_iff_ne.2 hx]; exact ih
  exact key d.groups

theorem modWarp_id (x : Group) (wi : Nat) (f : Warp → Warp) : (x.modWarp wi f).id = x.id := rfl

theorem group?_modWarp (d : Dev) (g wi : Nat) (f : Warp → Warp) (h : Nat) :
    (d.modWarp g wi f).group? h = (d.group? h).map (fun x => if h = g then x.modWarp wi f else x) :=
  group?_modGroup d g (fun x => x.modWarp wi f) (fun _ => rfl) h

/-- The warps after a change of one. -/
theorem warp?_modWarp (d : Dev) (g wi : Nat) (f : Warp → Warp) (h wj : Nat) :
    (d.modWarp g wi f).warp? h wj = (d.warp? h wj).map (fun w => if h = g ∧ wj = wi then f w else w) := by
  unfold Dev.warp?
  rw [group?_modWarp]
  cases hg : d.group? h with
  | none => rfl
  | some x =>
    simp only [Option.map_some, Option.bind_some]
    by_cases e : h = g
    · simp only [e, if_true, true_and, Group.modWarp]
      rw [List.getElem?_modify]
      by_cases hw : wi = wj
      · subst hw; simp
      · have : ¬ wj = wi := fun h => hw h.symm
        simp [hw, this]
    · simp [e]

@[simp] theorem warp?_modWarp_same (d : Dev) (g wi : Nat) (f : Warp → Warp) :
    (d.modWarp g wi f).warp? g wi = (d.warp? g wi).map f := by
  rw [warp?_modWarp]; simp

/-- Warps depend on the groups alone. -/
theorem warp?_congr {d e : Dev} (h : d.groups = e.groups) (g wi : Nat) : d.warp? g wi = e.warp? g wi := by
  unfold Dev.warp? Dev.group?; rw [h]

theorem group?_congr {d e : Dev} (h : d.groups = e.groups) (g : Nat) : d.group? g = e.group? g := by
  unfold Dev.group?; rw [h]

/-- A first issue reads its warp as it stands. -/
theorem asIssued_first (d : Dev) (w : Warp) : d.asIssued 0 w = w := by
  unfold Dev.asIssued
  have : d.rested.find? (fun r => (0 : Nat) != 0 && r.arr == 0) = none := by
    rw [List.find?_eq_none]; intro r _; simp
  rw [this]

/-- What the issue at hand says of the device. -/
theorem ix_spec {d : Dev} {x : Ix} (h : d.ix = some x) (h0 : x.arr = 0) :
    d.group? x.g = some x.x ∧ d.warp? x.g x.wi = some x.w ∧ (∀ L, x.iss.getLsbD L = true → x.w.live.getLsbD L = true)
      ∧ ∃ c, d.cur = some c ∧ c.g = x.g ∧ c.w = x.wi ∧ c.pc = x.pc ∧ c.word = x.word ∧ x.iss = c.lanes &&& x.w.live := by
  unfold Dev.ix at h
  split at h
  · cases h
  · next c hc =>
    split at h
    · next y w hg hw =>
      cases h
      replace h0 : c.arr = 0 := h0
      simp only [h0, asIssued_first]
      refine ⟨hg, hw, ?_, c, hc, rfl, rfl, rfl, rfl, rfl⟩
      intro L hL
      rw [BitVec.getLsbD_and] at hL
      simp_all
    · cases h

theorem guard_sub_iss {x : Ix} {o : OpW} {L : Nat} (h : (x.guard o).getLsbD L = true) : x.iss.getLsbD L = true := by
  unfold Ix.guard at h
  simp only [BitVec.getLsbD_and, Bool.and_eq_true] at h
  exact h.1

/-! ### Counting and posting leave the groups alone -/

theorem send_groups (d : Dev) (who : Who) (pa : Nat) (bs : List Byte) : (d.send who pa bs).groups = d.groups := by
  unfold Dev.send; split <;> simp

/-- Counting events leaves the groups alone. -/
@[simp] theorem count_groups (d : Dev) (die f src n : Nat) : (d.count die f src n).groups = d.groups := by
  unfold Dev.count
  dsimp only
  repeat' split
  all_goals rfl

/-- Counting events changes the counters and notes their overflows (R323). -/
theorem count_frame (d : Dev) (die f src n : Nat) :
    d.count die f src n = { d with evcnt := (d.count die f src n).evcnt, evovf := (d.count die f src n).evovf, ovfs := (d.count die f src n).ovfs } := by
  unfold Dev.count
  dsimp only
  repeat' split
  all_goals rfl

/-! ### Registers -/

theorem getD_map_range (f : Nat → Word) (L : Nat) (h : L < 32) : ((List.range 32).map f).getD L 0 = f L := by
  simp [List.getD_eq_getElem?_getD, h]

theorem lookup_map_mk (ls : List Nat) (f : Nat → Word) (L : Nat) (h : L ∈ ls) : (ls.map (fun L => (L, f L))).lookup L = some (f L) := by
  induction ls with
  | nil => cases h
  | cons a ls ih =>
    rw [List.map_cons, List.lookup_cons]
    by_cases e : L = a
    · subst e; simp
    · have : (L == a) = false := by simp [e]
      rw [this]
      exact ih ((List.mem_cons.1 h).resolve_left e)

theorem lookup_map_mk_none (ls : List Nat) (f : Nat → Word) (L : Nat) (h : L ∉ ls) : (ls.map (fun L => (L, f L))).lookup L = none := by
  induction ls with
  | nil => rfl
  | cons a ls ih =>
    simp only [List.mem_cons, not_or] at h
    rw [List.map_cons, List.lookup_cons]
    have : (L == a) = false := by simp [h.1]
    rw [this]
    exact ih h.2

end Sys2Proof.Machine
end

