-- ==== Sys2Proof/Laws/Reg.lean ====
section
/-!
SUPPORT. What a write of registers does, and the one lemma about register instructions: the destination, the frame, the
program counters (`regOpAlso_writes`).
-/
namespace Sys2Proof.Machine

/-! ### Reads after writes of vector registers -/

/-- A write of registers opens and closes no bank. -/
@[simp] theorem opened_write (w : Warp) (v : SMap VReg) (p : SMap (List Word)) : Warp.opened { w with v := v, prop := p } = w.opened := rfl
@[simp] theorem opened_writeV (w : Warp) (v : SMap VReg) : Warp.opened { w with v := v } = w.opened := rfl

/-- A read after a write in shape G. -/
theorem readV_writeG (w : Warp) (n : Nat) (ls : List Nat) (f : Nat → Word) (m L : Nat) (hL : L < 32) :
    (w.writeG n (ls.map (fun L => (L, f L)))).readV m L = if m = n ∧ L ∈ ls then f L else w.readV m L := by
  have val : ∀ old, ((ls.map (fun L => (L, f L))).lookup L).getD old = if L ∈ ls then f L else old := by
    intro old
    by_cases h : L ∈ ls
    · rw [lookup_map_mk ls f L h]; simp [h]
    · rw [lookup_map_mk_none ls f L h]; simp [h]
  unfold Warp.writeG
  dsimp only
  by_cases hm : m = n
  · subst hm
    by_cases hb : banked m = true
    · by_cases hk : w.opened.getLsbD L = true
      · have hne : (w.opened != 0) = true := by simpa using ne_zero_of_lane hk
        simp only [hb, hne, Bool.and_self, if_true, Warp.readV, opened_write, hk, look_put_same, getD_map_range _ L hL, val]
        split <;> simp_all
      · by_cases hne : (w.opened != 0) = true
        · simp only [hb, hne, Bool.and_self, if_true, Warp.readV, opened_write, hk, Bool.and_false, look_put_same, VReg.at, getD_map_range _ L hL, val]
          split <;> simp_all
        · simp only [hb, hne, Bool.and_false, Warp.readV, hk, VReg.at]
          split <;> simp_all
    · simp only [hb, Bool.false_and, Warp.readV, VReg.at]
      split <;> simp_all
  · simp only [hm, false_and, if_false]
    split
    · simp only [Warp.readV, opened_write, look_put_other _ _ _ _ _ hm]
    · simp only [Warp.readV, opened_write, look_put_other _ _ _ _ _ hm]

/-- What a shape says of the words of a full write. -/
def ShapeSays (sh : Shape) (ls : List Nat) (f : Nat → Word) : Prop :=
  (sh = .u → ∀ L ∈ ls, ∀ L' ∈ ls, f L = f L') ∧ (∀ b t, sh = .a b t → ∀ L ∈ ls, f L = b + BitVec.ofNat 32 L * t)

theorem shapeSays_g (ls : List Nat) (f : Nat → Word) : ShapeSays .g ls f := by
  constructor
  · intro h; cases h
  · intro b t h; cases h

/-- A read in a live lane after a write that is full unless its shape is G. -/
theorem readV_writeV (w : Warp) (n : Nat) (sh : Shape) (ls : List Nat) (f : Nat → Word) (m L : Nat)
    (hL : w.live.getLsbD L = true) (hsh : ShapeSays sh ls f) (hfull : sh ≠ .g → ∀ L, w.live.getLsbD L = true → L ∈ ls) :
    (w.writeV n sh (ls.map (fun L => (L, f L)))).readV m L = if m = n ∧ L ∈ ls then f L else w.readV m L := by
  have hlt := lt_of_lane hL
  unfold Warp.writeV
  split
  · exact readV_writeG w n ls f m L hlt
  · next hb =>
    have unb : (banked n && w.opened.getLsbD L) = false := by
      rw [Bool.and_eq_false_iff]
      by_cases h : banked n = true
      · right
        by_cases hk : w.opened.getLsbD L = true
        · exact absurd (by rw [h, Bool.true_and]; exact bne_iff_ne.2 (ne_zero_of_lane hk) : (banked n && w.opened != 0) = true) hb
        · simpa using hk
      · left; simpa using h
    cases sh with
    | g => exact readV_writeG w n ls f m L hlt
    | u =>
      have hin := hfull (by simp) L hL
      by_cases hm : m = n
      · subst hm
        simp only [Warp.readV, opened_writeV, unb, look_put_same, VReg.at, hin, and_self, if_true]
        cases ls with
        | nil => cases hin
        | cons a ls => simpa using hsh.1 rfl a (by simp) L hin
      · simp only [Warp.readV, opened_writeV, look_put_other _ _ _ _ _ hm, hm, false_and, if_false]
    | a b t =>
      have hin := hfull (by simp) L hL
      by_cases hm : m = n
      · subst hm
        have := hsh.2 b t rfl L hin
        simp only [Warp.readV, opened_writeV, unb, look_put_same, hin, and_self, if_true]
        by_cases h0 : t = 0
        · subst h0; simpa [VReg.at] using this.symm
        · rw [if_neg h0]; exact this.symm
      · simp only [Warp.readV, opened_writeV, look_put_other _ _ _ _ _ hm, hm, false_and, if_false]

/-- A write of a vector register touches the vector and proposal registers alone. -/
theorem writeV_frame (w : Warp) (n : Nat) (sh : Shape) (vals : List (Nat × Word)) :
    ∃ v p, w.writeV n sh vals = { w with v := v, prop := p } := by
  have g : ∃ v p, w.writeG n vals = { w with v := v, prop := p } := by
    unfold Warp.writeG; dsimp only; split <;> exact ⟨_, _, rfl⟩
  unfold Warp.writeV
  split
  · exact g
  · cases sh
    · exact ⟨_, w.prop, rfl⟩
    · exact ⟨_, w.prop, rfl⟩
    · exact g

theorem readV_of_frame {w w' : Warp} {v : SMap VReg} {p : SMap (List Word)} (h : w' = { w with v := v, prop := p }) :
    w'.bank = w.bank ∧ w'.live = w.live ∧ w'.s = w.s ∧ w'.p = w.p ∧ w'.pc = w.pc := by
  subst h; exact ⟨rfl, rfl, rfl, rfl, rfl⟩

/-! ### Images -/

/-- The integer a value reads as is the value, modulo the width. -/
theorem tyInt_mod (t : Ty) (x : DWord) : tyInt t x % (2 ^ t.width : Int) = (x.toNat : Int) % (2 ^ t.width : Int) := by
  unfold tyInt
  dsimp only
  have e : ((x.toNat % 2 ^ t.width : Nat) : Int) = (x.toNat : Int) % (2 ^ t.width : Int) := by simp
  split
  · rw [e, Int.sub_emod_right, Int.emod_emod_of_dvd _ (Int.dvd_refl _)]
  · rw [e, Int.emod_emod_of_dvd _ (Int.dvd_refl _)]

theorem tyWidth_pos (t : Ty) : 0 < t.width := by cases t <;> decide

/-- A value of a 64-bit type is its own image. -/
theorem tyImage_64 (t : Ty) (h : t.is64 = true) (x : DWord) : tyImage t x = x := by
  have hw : t.width = 64 := by simpa [Ty.is64] using h
  apply BitVec.eq_of_toNat_eq
  have := tyInt_mod t x
  rw [hw] at this
  have hx := x.isLt
  unfold tyImage
  rw [BitVec.toNat_ofInt]
  simp only [Int.reducePow, Nat.reducePow] at *
  omega

/-- The lowest bit of an image is that of the value. -/
theorem tyImage_bit0 (t : Ty) (x : DWord) : (tyImage t x).getLsbD 0 = x.getLsbD 0 := by
  have h2 : (2 : Int) ∣ 2 ^ t.width := by
    obtain ⟨j, hj⟩ := Nat.exists_eq_succ_of_ne_zero (Nat.pos_iff_ne_zero.1 (tyWidth_pos t))
    exact ⟨2 ^ j, by rw [hj, Int.pow_succ, Int.mul_comm]⟩
  have h := congrArg (· % (2 : Int)) (tyInt_mod t x)
  simp only [Int.emod_emod_of_dvd _ h2] at h
  have e : (tyImage t x).toNat % 2 = x.toNat % 2 := by
    unfold tyImage
    rw [BitVec.toNat_ofInt]
    simp only [Nat.reducePow]
    omega
  simp only [BitVec.getLsbD, Nat.testBit_zero, e]

/-! ### Writes of a destination -/

/-- What a full write of shape `sh` at a type says of the images of the lanes. -/
structure ImgShape (t : Ty) (sh : Shape) (ok : LaneSet) (val : Nat → DWord) : Prop where
  u : sh = .u → ∀ L, ok.getLsbD L = true → ∀ L', ok.getLsbD L' = true → val L = val L'
  a : ∀ b k, sh = .a b k → t.is64 = false ∧ ∀ L, ok.getLsbD L = true → (tyImage t (val L)).setWidth 32 = b + BitVec.ofNat 32 L * k

/-- The full shape of a write: its shape where every live lane is written. -/
theorem shapeFor_full {x : Ix} {sh : Shape} {ok : LaneSet} (h : x.shapeFor sh ok ≠ .g) : ok = x.w.live ∧ x.shapeFor sh ok = sh := by
  unfold Ix.shapeFor at *
  split at h
  · next e => exact ⟨by simpa using e, by simp [e]⟩
  · exact absurd rfl h

theorem lo_hi (t : Ty) (h : t.is64 = true) (x : DWord) : x.extractLsb' 32 32 ++ (tyImage t x).setWidth 32 = x := by
  rw [tyImage_64 t h]
  apply BitVec.eq_of_getLsbD_eq
  intro i hi
  rw [BitVec.getLsbD_append]
  by_cases hlt : i < 32
  · simp [hlt]
  · have h1 : i - 32 < 32 := by omega
    have h2 : 32 + (i - 32) = i := by omega
    simp [hlt, h1, h2]

/-- The lanes written hold their images, and nothing else of the warp changes. -/
theorem writeD_spec (w : Warp) (o : Opnd) (t : Ty) (ok : LaneSet) (sh : Shape) (val : Nat → DWord)
    (hsub : ∀ L, ok.getLsbD L = true → w.live.getLsbD L = true)
    (hfull : sh ≠ .g → ok = w.live) (hs : ImgShape t sh ok val)
    (hsc : o.kind = .s → ∀ L, ok.getLsbD L = true → ∀ L', ok.getLsbD L' = true → val L = val L') :
    (∀ L, ok.getLsbD L = true → Holds (w.writeD o t ok sh val) t o L (tyImage t (val L)))
      ∧ KeptRegs w (w.writeD o t ok sh val) (useAt t o) ok 0 ∧ (w.writeD o t ok sh val).pc = w.pc := by
  have kept0 : ∀ e, KeptRegs w w (useAt t o) e 0 := fun e =>
    ⟨fun _ _ _ _ => rfl, fun _ _ => rfl, fun _ _ _ _ => rfl, fun L _ => by simp, rfl⟩
  by_cases h0 : ok = 0
  · subst h0
    have e : w.writeD o t 0 sh val = w := by simp [Warp.writeD]
    rw [e]
    exact ⟨fun L h => by simp at h, kept0 _, rfl⟩
  have memok : ∀ L, L ∈ lanesOf ok ↔ ok.getLsbD L = true := fun L => mem_lanesOf ok L
  have full : sh ≠ .g → ∀ L, w.live.getLsbD L = true → L ∈ lanesOf ok := by
    intro h L hL; rw [memok, hfull h]; exact hL
  have slo : ShapeSays sh (lanesOf ok) (fun L => (tyImage t (val L)).setWidth 32) := by
    constructor
    · intro h L hL L' hL'
      simp only [hs.u h L ((memok L).1 hL) L' ((memok L').1 hL')]
    · intro b k h L hL
      exact (hs.a b k h).2 L ((memok L).1 hL)
  have shi : t.is64 = true → ShapeSays sh (lanesOf ok) (fun L => (val L).extractLsb' 32 32) := by
    intro h64
    constructor
    · intro h L hL L' hL'
      simp only [hs.u h L ((memok L).1 hL) L' ((memok L').1 hL')]
    · intro b k h
      have := (hs.a b k h).1
      simp [h64] at this
  cases o with
  | v n =>
    by_cases h64 : t.is64 = true
    · -- a pair
      obtain ⟨v1, p1, e1⟩ := writeV_frame w n.toNat sh ((lanesOf ok).map (fun L => (L, (tyImage t (val L)).setWidth 32)))
      obtain ⟨v2, p2, e2⟩ := writeV_frame (w.writeV n.toNat sh ((lanesOf ok).map (fun L => (L, (tyImage t (val L)).setWidth 32))))
        (n.toNat + 1) sh ((lanesOf ok).map (fun L => (L, (val L).extractLsb' 32 32)))
      have ew : w.writeD (.v n) t ok sh val = (w.writeV n.toNat sh ((lanesOf ok).map (fun L => (L, (tyImage t (val L)).setWidth 32)))).writeV
          (n.toNat + 1) sh ((lanesOf ok).map (fun L => (L, (val L).extractLsb' 32 32))) := by
        unfold Warp.writeD; rw [if_neg h0]; dsimp only; rw [if_pos h64]; rfl
      have live1 : (w.writeV n.toNat sh ((lanesOf ok).map (fun L => (L, (tyImage t (val L)).setWidth 32)))).live = w.live := by rw [e1]
      have rd : ∀ m L, w.live.getLsbD L = true → (w.writeD (.v n) t ok sh val).readV m L =
          if m = n.toNat + 1 ∧ L ∈ lanesOf ok then (val L).extractLsb' 32 32
          else if m = n.toNat ∧ L ∈ lanesOf ok then (tyImage t (val L)).setWidth 32 else w.readV m L := by
        intro m L hL
        rw [ew, readV_writeV _ _ _ _ _ _ _ (by rw [live1]; exact hL) (shi h64) (by rw [live1]; exact full),
          readV_writeV _ _ _ _ _ _ _ hL slo full]
      refine ⟨?_, ?_, ?_⟩
      · intro L hL
        have hl := hsub L hL
        simp only [Holds, h64, if_true, Warp.readPair]
        rw [rd _ _ hl, rd _ _ hl, if_pos ⟨rfl, (memok L).2 hL⟩, if_neg (by omega), if_pos ⟨rfl, (memok L).2 hL⟩,
          lo_hi t h64, tyImage_64 t h64]
      · constructor
        · intro m L hL hd
          rw [rd m L hL]
          have hd' : ¬ (n.toNat ≤ m ∧ m < n.toNat + 2) ∨ L ∉ lanesOf ok := by
            rcases hd with h | h
            · left; simpa [useHasV, useAt, h64, Opnd.kind] using h
            · right; rw [memok]; simp [h]
          rcases hd' with h | h
          · rw [if_neg (by omega), if_neg (by omega)]
          · rw [if_neg (by simp [h]), if_neg (by simp [h])]
        · intro m _; rw [ew, e2]; show (Warp.writeV _ _ _ _).readS m = _; rw [e1]; rfl
        · intro m L _ _; rw [ew, e2]; show (look 0 (Warp.writeV _ _ _ _).p m).getLsbD L = _; rw [e1]
        · intro L _; rw [ew, e2]; show look 0 (Warp.writeV _ _ _ _).rngctr L = _; rw [e1]; simp
        · rw [ew, e2, e1]
      · rw [ew, e2]; show (Warp.writeV _ _ _ _).pc = _; rw [e1]
    · -- one word
      obtain ⟨v1, p1, e1⟩ := writeV_frame w n.toNat sh ((lanesOf ok).map (fun L => (L, (tyImage t (val L)).setWidth 32)))
      have ew : w.writeD (.v n) t ok sh val = w.writeV n.toNat sh ((lanesOf ok).map (fun L => (L, (tyImage t (val L)).setWidth 32))) := by
        unfold Warp.writeD; rw [if_neg h0]; dsimp only; rw [if_neg h64]; rfl
      have rd : ∀ m L, w.live.getLsbD L = true → (w.writeD (.v n) t ok sh val).readV m L =
          if m = n.toNat ∧ L ∈ lanesOf ok then (tyImage t (val L)).setWidth 32 else w.readV m L := by
        intro m L hL
        rw [ew, readV_writeV _ _ _ _ _ _ _ hL slo full]
      refine ⟨?_, ?_, ?_⟩
      · intro L hL
        simp only [Holds]
        rw [if_neg h64, rd _ _ (hsub L hL), if_pos ⟨rfl, (memok L).2 hL⟩]
      · constructor
        · intro m L hL hd
          rw [rd m L hL]
          have hd' : ¬ (n.toNat ≤ m ∧ m < n.toNat + 1) ∨ L ∉ lanesOf ok := by
            rcases hd with h | h
            · left; simpa [useHasV, useAt, h64] using h
            · right; rw [memok]; simp [h]
          rcases hd' with h | h
          · rw [if_neg (by omega)]
          · rw [if_neg (by simp [h])]
        · intro m _; rw [ew, e1]; rfl
        · intro m L _ _; rw [ew, e1]
        · intro L _; rw [ew, e1]; simp
        · rw [ew, e1]
      · rw [ew, e1]
  | s n =>
    have ew : w.writeD (.s n) t ok sh val = w.writeS n.toNat (tyImage t (val (lowest ok))) := by unfold Warp.writeD; rw [if_neg h0]
    refine ⟨?_, ?_, ?_⟩
    · intro L hL
      have : val (lowest ok) = val L := hsc rfl _ (lowest_mem h0) _ hL
      simp [Holds, ew, Warp.writeS, Warp.readS, this]
    · constructor
      · intro m L _ _; rw [ew]; rfl
      · intro m hm
        rw [ew]
        simp only [Warp.writeS, Warp.readS]
        rw [look_put_other]
        intro e; subst e; simp [useHasS, useAt, Opnd.kind] at hm
      · intro m L _ _; rw [ew]; rfl
      · intro L _; rw [ew]; simp [Warp.writeS]
      · rw [ew]; rfl
    · rw [ew]; rfl
  | p n =>
    have ew : w.writeD (.p n) t ok sh val = w.writeP n.toNat ok (setOf ((lanesOf ok).filter (fun L => (val L).getLsbD 0))) := by
      unfold Warp.writeD; rw [if_neg h0]
    have rd : ∀ m L, L < 32 → (look 0 (w.writeD (.p n) t ok sh val).p m).getLsbD L =
        if m = n.toNat ∧ ok.getLsbD L = true then (val L).getLsbD 0 else (look 0 w.p m).getLsbD L := by
      intro m L hL
      rw [ew]
      simp only [Warp.writeP, look_put]
      by_cases hm : m = n.toNat
      · subst hm
        simp only [if_true, true_and, BitVec.getLsbD_or, BitVec.getLsbD_and, BitVec.getLsbD_not, hL, decide_true, Bool.true_and,
          getLsbD_setOf _ _ hL, List.mem_filter, memok]
        by_cases hk : ok.getLsbD L = true <;> simp [hk]
      · simp [hm]
    refine ⟨?_, ?_, ?_⟩
    · intro L hL
      simp only [Holds]
      rw [rd _ _ (lt_of_lane hL), if_pos ⟨rfl, hL⟩, tyImage_bit0]
    · constructor
      · intro m L _ _; rw [ew]; rfl
      · intro m _; rw [ew]; rfl
      · intro m L hL hd
        rw [rd m L hL, if_neg]
        rintro ⟨rfl, h⟩
        rcases hd with hd | hd
        · simp [useHasP, useAt, Opnd.kind] at hd
        · simp [h] at hd
      · intro L _; rw [ew]; simp [Warp.writeP]
      · rw [ew]; rfl
    · rw [ew]; rfl
  | m _ => rw [Warp.writeD, if_neg h0]; exact ⟨fun _ _ => trivial, kept0 _, rfl⟩
  | q _ => rw [Warp.writeD, if_neg h0]; exact ⟨fun _ _ => trivial, kept0 _, rfl⟩
  | zero => rw [Warp.writeD, if_neg h0]; exact ⟨fun _ _ => trivial, kept0 _, rfl⟩
  | lane => rw [Warp.writeD, if_neg h0]; exact ⟨fun _ _ => trivial, kept0 _, rfl⟩
  | tid => rw [Warp.writeD, if_neg h0]; exact ⟨fun _ _ => trivial, kept0 _, rfl⟩
  | wid => rw [Warp.writeD, if_neg h0]; exact ⟨fun _ _ => trivial, kept0 _, rfl⟩
  | gid => rw [Warp.writeD, if_neg h0]; exact ⟨fun _ _ => trivial, kept0 _, rfl⟩
  | nthr => rw [Warp.writeD, if_neg h0]; exact ⟨fun _ _ => trivial, kept0 _, rfl⟩
  | pcv => rw [Warp.writeD, if_neg h0]; exact ⟨fun _ _ => trivial, kept0 _, rfl⟩
  | imm => rw [Warp.writeD, if_neg h0]; exact ⟨fun _ _ => trivial, kept0 _, rfl⟩

/-! ### Program counters -/

theorem pcOf_foldl (ls : List Nat) (f : Nat → Addr) (m : SMap Addr) (L : Nat) :
    look 0 (ls.foldl (fun m L => put 0 m L (f L)) m) L = if L ∈ ls then f L else look 0 m L := by
  induction ls generalizing m with
  | nil => simp
  | cons a ls ih =>
    rw [List.foldl_cons, ih, look_put]
    by_cases h1 : L ∈ ls <;> by_cases h2 : L = a <;> simp_all

theorem pcOf_setPc (w : Warp) (ls : List Nat) (f : Nat → Addr) (L : Nat) : (w.setPc ls f).pcOf L = if L ∈ ls then f L else w.pcOf L :=
  pcOf_foldl ls f w.pc L

/-- A lane that steps past its instruction stands 8 bytes further. -/
theorem pcOf_stepPc (w : Warp) (ls : LaneSet) (L : Nat) : (w.stepPc ls).pcOf L = if ls.getLsbD L then w.pcOf L + 8 else w.pcOf L := by
  unfold Warp.stepPc
  rw [pcOf_setPc]
  simp only [mem_lanesOf]

theorem stepPc_frame (w : Warp) (ls : LaneSet) : w.stepPc ls = { w with pc := (w.stepPc ls).pc } := rfl

/-! ### The end of an issue without faults -/

/-- An issue that ends without a fault: the counters, and the lanes that do not stay step. -/
theorem finish_nil (d : Dev) (x : Ix) (ran stay : LaneSet) :
    d.finish x ran stay [] = (if x.arr != 0 then d else d.count x.x.die x.x.vf 3 (lanesOf ran).length).modWarp x.g x.wi
      (fun w => w.stepPc (x.iss &&& ~~~stay &&& w.live)) := by
  have e : x.iss &&& ~~~stay &&& ~~~(setOf (([] : List (Nat × Flt)).map (·.1))) = x.iss &&& ~~~stay := by
    have : ~~~(setOf (([] : List (Nat × Flt)).map (·.1))) = BitVec.allOnes 32 := by decide
    rw [this, BitVec.and_allOnes]
  unfold Dev.finish
  simp only [e]
  rfl

theorem mend_nil (d : Dev) (x : Ix) (ds : List Use) (ls : LaneSet) (h : d.badReg = []) : d.mend x ds ls = d := by
  unfold Dev.mend; rw [h]

theorem regFault_nil (d : Dev) (x : Ix) (us : List Use) (L : Nat) (h : d.badReg = []) : d.regFault x us L = none := by
  unfold Dev.regFault; rw [h]

/-- A warp with no bad register word has no bad guard word. -/
theorem guardBad_nil (d : Dev) (x : Ix) (o : OpW) (hbad : d.badReg = []) : d.guardBad x o = false := by
  simp [Dev.guardBad, regFault_nil _ _ _ _ hbad]

/-- The checks of an instruction whose registers are allocated and sound and that no lane's own check stops. -/
theorem plan_clear (d : Dev) (x : Ix) (o : OpW) (ds srcs : List Use) (pre : Nat → Option Flt) (gw : LaneSet → Bool) (als : List Use) (ts : List Nat)
    (hbad : d.badReg = []) (hal : allocFault x.x.lr (ds ++ srcs ++ als) ts = none)
    (hpre : ∀ L, (x.guard o).getLsbD L = true → pre L = none)
    (hcomp : ds.any x.x.lr.isCompact = true → gw (x.guard o) = true → x.guard o = 0) :
    d.plan x o ds srcs pre gw als ts = ⟨x.guard o, []⟩ := by
  have hchk : ∀ us, ∀ L ∈ lanesOf (x.guard o), d.laneCheck x us pre L = none := by
    intro us L hL
    unfold Dev.laneCheck
    rw [regFault_nil _ _ _ _ hbad]
    exact hpre L ((mem_lanesOf _ _).1 hL)
  have h1 : ∀ us, (lanesOf (x.guard o)).filterMap (fun L => (d.laneCheck x us pre L).map (fun f => (L, f))) = [] := by
    intro us
    rw [List.filterMap_eq_nil_iff]
    intro L hL
    rw [hchk us L hL]; rfl
  have h2 : ∀ us, (lanesOf (x.guard o)).filter (fun L => (d.laneCheck x us pre L).isNone) = lanesOf (x.guard o) := by
    intro us
    rw [List.filter_eq_self]
    intro L hL
    rw [hchk us L hL]; rfl
  unfold Dev.plan
  have hg := guardBad_nil d x o hbad
  simp only [hal, h1, h2, hg, setOf_lanesOf, Bool.false_eq_true, if_false]
  by_cases h : (ds.any x.x.lr.isCompact && gw (x.guard o)) = true
  · rw [if_pos h]
    rw [Bool.and_eq_true] at h
    rw [hcomp h.1 h.2]
    rfl
  · rw [if_neg h]

/-! ### The one lemma about register instructions -/

/-- The change that an issue without faults makes: the warp, the counters, the steps. -/
def ended (d : Dev) (x : Ix) (n : Nat) (f : Warp → Warp) (stay : LaneSet) : Dev :=
  (if x.arr != 0 then d.modWarp x.g x.wi f else (d.modWarp x.g x.wi f).count x.x.die x.x.vf 3 n).modWarp x.g x.wi
    (fun w => w.stepPc (x.iss &&& ~~~stay &&& w.live))

theorem ended_groups (d : Dev) (x : Ix) (n : Nat) (f : Warp → Warp) (stay : LaneSet) :
    (ended d x n f stay).groups = ((d.modWarp x.g x.wi f).modWarp x.g x.wi (fun w => w.stepPc (x.iss &&& ~~~stay &&& w.live))).groups := by
  unfold ended
  unfold Dev.modWarp Dev.modGroup
  split <;> simp

/-- The issuing warp after an issue without faults. -/
theorem ended_warp {d : Dev} {x : Ix} (hix : d.ix = some x) (h0 : x.arr = 0) (n : Nat) (f : Warp → Warp) (stay : LaneSet) :
    (ended d x n f stay).warp? x.g x.wi = some ((f x.w).stepPc (x.iss &&& ~~~stay &&& (f x.w).live)) := by
  obtain ⟨hg, hw, -, -⟩ := ix_spec hix h0
  rw [warp?_congr (ended_groups d x n f stay)]
  simp [hw]

/-- What an issue without faults leaves alone. -/
theorem ended_kept {s : State} {x : Ix} (hix : s.dev.ix = some x) (h0 : x.arr = 0) (n : Nat) (f : Warp → Warp) (stay : LaneSet) :
    KeptElse s { s with dev := ended s.dev x n f stay } x := by
  obtain ⟨hg, hw, -, -⟩ := ix_spec hix h0
  have hgr := ended_groups s.dev x n f stay
  refine ⟨rfl, ?_, ?_, ?_, ?_⟩
  · show { ended s.dev x n f stay with groups := s.dev.groups, evcnt := s.dev.evcnt, evovf := s.dev.evovf, ovfs := s.dev.ovfs } = s.dev
    unfold ended
    split
    · rfl
    · rw [count_frame (s.dev.modWarp x.g x.wi f) x.x.die x.x.vf 3 n]; rfl
  · intro g hne
    show Dev.group? (ended _ _ _ _ _) g = _
    rw [group?_congr hgr, group?_modWarp, group?_modWarp]
    simp [hne]
  · show (Dev.group? (ended _ _ _ _ _) x.g).map _ = _
    rw [group?_congr hgr, group?_modWarp, group?_modWarp, hg]
    simp [Group.modWarp]
  · intro wi hne
    show Dev.warp? (ended _ _ _ _ _) x.g wi = _
    rw [warp?_congr hgr, warp?_modWarp, warp?_modWarp]
    simp [hne]

/-- The issuing lanes of a warp whose program counters `f` leaves alone have stepped. -/
theorem ended_stepped {d : Dev} {x : Ix} (hix : d.ix = some x) (h0 : x.arr = 0) (w : Warp) (hpc : w.pc = x.w.pc) (hlive : w.live = x.w.live) :
    Stepped x (w.stepPc (x.iss &&& ~~~0 &&& w.live)) := by
  obtain ⟨-, -, hsub, -⟩ := ix_spec hix h0
  intro L hL
  rw [pcOf_stepPc]
  have e : w.pcOf L = x.w.pcOf L := by unfold Warp.pcOf; rw [hpc]
  rw [e]
  simp only [BitVec.getLsbD_and, BitVec.getLsbD_not, hL, decide_true, hlive]
  by_cases h : x.iss.getLsbD L = true
  · simp [h, hsub L h]
  · simp [h]

/-- What `regOpAlso` does when nothing stops it. -/
theorem regOpAlso_eq {d : Dev} {x : Ix} {o : OpW} {t : Ty} {srcs als : List Use} {sh : Ix → Shape} {pre : Ix → Nat → Option Flt}
    {val : Ix → LaneSet → Nat → DWord} {also : LaneSet → Warp → Warp} (hix : d.ix = some x) (hbad : d.badReg = [])
    (hal : allocFault x.x.lr ([useAt t o.d] ++ srcs ++ als) [] = none)
    (hpre : ∀ L, (x.guard o).getLsbD L = true → pre x L = none)
    (hcomp : x.x.lr.isCompact (useAt t o.d) = true → x.shapeFor (sh x) (x.guard o) = .g → x.guard o = 0) :
    d.regOpAlso o t srcs sh pre val also als = ended d x (lanesOf (x.guard o)).length
      (fun w => also (x.guard o) (w.writeD o.d t (x.guard o) (x.shapeFor (sh x) (x.guard o)) (val x (x.guard o)))) 0 := by
  unfold Dev.regOpAlso
  rw [hix]
  dsimp only
  rw [plan_clear d x o [useAt t o.d] srcs (pre x) _ als [] hbad hal hpre (by
    intro h1 h2
    simp only [List.any_cons, List.any_nil, Bool.or_false] at h1
    exact hcomp h1 (by simpa using h2))]
  dsimp only
  rw [mend_nil _ _ _ _ (by simpa using hbad), finish_nil]
  rfl

/-- A register instruction that nothing stops: the destination holds each lane's image, the lanes step, and nothing else
changes but the counters and, where it draws, the generator's counters. -/
theorem regOpAlso_writes {s : State} {x : Ix} {o : OpW} {t : Ty} {srcs als : List Use} {sh : Ix → Shape} {pre : Ix → Nat → Option Flt}
    {val : Ix → LaneSet → Nat → DWord} {also : LaneSet → Warp → Warp} {drew : LaneSet} {i : Instr}
    (hi : exec i s = s.onDev (fun d => d.regOpAlso o t srcs sh pre val also als))
    (hix : s.dev.ix = some x) (h0 : x.arr = 0) (hbad : s.dev.badReg = [])
    (hal : allocFault x.x.lr ([useAt t o.d] ++ srcs ++ als) [] = none)
    (hpre : ∀ L, (x.guard o).getLsbD L = true → pre x L = none)
    (hcomp : x.x.lr.isCompact (useAt t o.d) = true → x.shapeFor (sh x) (x.guard o) = .g → x.guard o = 0)
    (hs : x.guard o = x.w.live → ImgShape t (sh x) (x.guard o) (val x (x.guard o)))
    (hsc : o.d.kind = .s → ∀ L, (x.guard o).getLsbD L = true → ∀ L', (x.guard o).getLsbD L' = true →
      val x (x.guard o) L = val x (x.guard o) L')
    (halso : ∀ w, also (x.guard o) w = { w with rngctr := (also (x.guard o) w).rngctr })
    (hrng : ∀ w L, L < 32 → look 0 (also (x.guard o) w).rngctr L = look 0 w.rngctr L + (if drew.getLsbD L then 1 else 0)) :
    Writes s i x o t (fun L => tyImage t (val x (x.guard o) L)) ∧ WritesOnly s i x o t drew := by
  have hsub : ∀ L, (x.guard o).getLsbD L = true → x.w.live.getLsbD L = true :=
    fun L h => (ix_spec hix h0).2.2.1 L (guard_sub_iss h)
  have himg : ImgShape t (x.shapeFor (sh x) (x.guard o)) (x.guard o) (val x (x.guard o)) := by
    by_cases h : x.shapeFor (sh x) (x.guard o) = .g
    · rw [h]; exact ⟨fun e => absurd e (by decide), fun _ _ e => absurd e (by simp)⟩
    · rw [(shapeFor_full h).2]; exact hs (shapeFor_full h).1
  obtain ⟨hH, hK, hpc⟩ := writeD_spec x.w o.d t (x.guard o) (x.shapeFor (sh x) (x.guard o)) (val x (x.guard o)) hsub
    (fun h => (shapeFor_full h).1) himg hsc
  have e := regOpAlso_eq (val := val) (also := also) hix hbad hal hpre hcomp
  have ew := ended_warp hix h0 (lanesOf (x.guard o)).length
    (fun w => also (x.guard o) (w.writeD o.d t (x.guard o) (x.shapeFor (sh x) (x.guard o)) (val x (x.guard o)))) 0
  have hnext := hi
  rw [State.onDev, e] at hnext
  generalize hw1 : x.w.writeD o.d t (x.guard o) (x.shapeFor (sh x) (x.guard o)) (val x (x.guard o)) = w1 at hH hK hpc ew
  have hrest := hK.rest
  have hlive : w1.live = x.w.live := by rw [← hrest]
  have h2 := halso w1
  generalize hw2 : also (x.guard o) w1 = w2 at h2 ew
  have hrg := hrng w1
  rw [hw2] at hrg
  constructor
  · refine ⟨_, _, hnext, ew, ended_stepped hix h0 w2 (by rw [h2, hpc]) (by rw [h2, hlive]), ?_⟩
    intro L hL
    have := hH L hL
    unfold Holds at *
    cases ho : o.d with
    | v n =>
      rw [ho] at this
      dsimp only at *
      split
      · next h => rw [if_pos h] at this; rw [← this, h2]; rfl
      · next h => rw [if_neg h] at this; rw [← this, h2]; rfl
    | s n => rw [ho] at this; dsimp only at *; rw [← this, h2]; rfl
    | p n => rw [ho] at this; dsimp only at *; rw [← this, h2]; rfl
    | _ => trivial
  · refine ⟨_, _, hnext, ew, ?_, ended_kept hix h0 _ _ _⟩
    constructor
    · intro n L hl hd; rw [← hK.vec n L hl hd, h2]; rfl
    · intro n hd; rw [← hK.sca n hd, h2]; rfl
    · intro n L hl hd; rw [← hK.pred n L hl hd, h2]; rfl
    · intro L hl
      show look 0 w2.rngctr L = _
      rw [hrg L hl]
      have := hK.rng L hl
      rw [this]
      simp
    · have : ({ w2.stepPc (x.iss &&& ~~~0 &&& w2.live) with pc := x.w.pc, v := x.w.v, prop := x.w.prop, s := x.w.s, p := x.w.p, rngctr := x.w.rngctr } : Warp)
          = { w1 with pc := x.w.pc, v := x.w.v, prop := x.w.prop, s := x.w.s, p := x.w.p, rngctr := x.w.rngctr } := by
        rw [h2]; rfl
      rw [this]; exact hrest

end Sys2Proof.Machine
end

