-- ==== Sys2Proof/Laws/Source.lean ====
section
/-!
SUPPORT. What the shape of a source says of its value in each lane (R64, R65), and what the encoding checks say of the
operands of a word (R40, R41).
-/
namespace Sys2Proof

/-! ### The encoding checks -/

theorem firstBad_none (l : List (Bool × Cause)) : firstBad l = none ↔ ∀ e ∈ l, e.1 = false := by
  induction l with
  | nil => simp [firstBad]
  | cons e l ih =>
    obtain ⟨b, c⟩ := e
    cases b <;> simp [firstBad, ih]

/-- Whether an operand reads the same in every lane by its kind alone. -/
def Opnd.laneFree (o : Opnd) : Bool := !([Kind.v, .p, .m, .l].contains o.kind)

/-- A scalar-side F-form word that passes its checks has no lane source (R41, 0x014). -/
theorem FSpec.scalar_sources {sp : FSpec} {f : FWord} (h : sp.check f = none) (hs : sp.isScalar f = true) :
    (sp.a ≠ [] → f.a.laneFree = true) ∧ (sp.b ≠ [] → f.b.laneFree = true) ∧ (sp.c ≠ [] → f.c.laneFree = true) := by
  unfold FSpec.check at h
  rw [firstBad_none] at h
  have h2 := h (laneBad (sp.isScalar f) sp.a f.a || laneBad (sp.isScalar f) sp.b f.b || laneBad (sp.isScalar f) sp.c f.c, 0x014) (by simp)
  simp only [Bool.or_eq_false_iff, laneBad, hs, Bool.true_and] at h2
  obtain ⟨⟨ha, hb⟩, hc⟩ := h2
  refine ⟨fun e => ?_, fun e => ?_, fun e => ?_⟩
  · have : sp.a.isEmpty = false := by simpa using e
    simpa [Opnd.laneFree, this] using ha
  · have : sp.b.isEmpty = false := by simpa using e
    simpa [Opnd.laneFree, this] using hb
  · have : sp.c.isEmpty = false := by simpa using e
    simpa [Opnd.laneFree, this] using hc

/-- A scalar-side L-form word that passes its checks has no lane source. -/
theorem LSpec.scalar_source {sp : LSpec} {f : LWord} (h : sp.check f = none) (hs : f.d.kind = .s) (e : sp.a ≠ []) : f.a.laneFree = true := by
  unfold LSpec.check at h
  rw [firstBad_none] at h
  have h2 := h (laneBad (f.d.kind == .s) sp.a f.a, 0x014) (by simp)
  have he : sp.a.isEmpty = false := by simpa using e
  simpa [laneBad, hs, he, Opnd.laneFree] using h2

/-- An F-form word that passes its checks has a type its instruction accepts (0x018). -/
theorem FSpec.type_ok {sp : FSpec} {f : FWord} (h : sp.check f = none) : sp.tyBad = false := by
  unfold FSpec.check at h
  rw [firstBad_none] at h
  exact h (sp.tyBad, 0x018) (by simp)

/-- An L-form word that passes its checks has a type its instruction accepts. -/
theorem LSpec.type_ok {sp : LSpec} {f : LWord} (h : sp.check f = none) : sp.tyBad = false := by
  unfold LSpec.check at h
  rw [firstBad_none] at h
  exact h (sp.tyBad, 0x018) (by simp)

/-- The destination of an F-form word that passes its checks is of a kind its position accepts (R40). -/
theorem FSpec.dst_ok {sp : FSpec} {f : FWord} (h : sp.check f = none) : dstBad sp.d f.d = false := by
  unfold FSpec.check at h
  rw [firstBad_none] at h
  have := h _ (List.mem_cons_self ..)
  simp only [Bool.or_eq_false_iff] at this
  exact this.1.1.1.1.2

namespace Machine

/-! ### Sources -/

theorem eraseDups_le_one {l : List Addr} (h : l.eraseDups.length ≤ 1) : ∀ a ∈ l, ∀ b ∈ l, a = b := by
  cases l with
  | nil => intro a ha; cases ha
  | cons c l =>
    rw [List.eraseDups_cons, List.length_cons] at h
    have h0 : (l.filter (fun b => !b == c)).eraseDups = [] := List.eq_nil_of_length_eq_zero (by omega)
    have h1 : l.filter (fun b => !b == c) = [] := by
      cases hl : l.filter (fun b => !b == c) with
      | nil => rfl
      | cons e t => rw [hl, List.eraseDups_cons] at h0; cases h0
    have all : ∀ a ∈ c :: l, a = c := by
      intro a ha
      rcases List.mem_cons.1 ha with rfl | ha
      · rfl
      · rw [List.filter_eq_nil_iff] at h1
        simpa using h1 a ha
    intro a ha b hb
    rw [all a ha, all b hb]

/-- A register of shape U reads the same in every lane. -/
theorem readV_of_u {w : Warp} {n : Nat} (h : w.shapeV n = .u) (L L' : Nat) : w.readV n L = w.readV n L' := by
  unfold Warp.shapeV at h
  split at h
  · cases h
  · next hb =>
    have unb : ∀ L, (banked n && w.opened.getLsbD L) = false := by
      intro L
      cases hk : (banked n && w.opened.getLsbD L)
      · rfl
      · rw [Bool.and_eq_true] at hk
        exact absurd (by rw [hk.1, Bool.true_and]; exact bne_iff_ne.2 (ne_zero_of_lane hk.2)) hb
    simp only [Warp.readV, unb]
    cases hr : look (VReg.u 0) w.v n with
    | u x => rfl
    | a b t => rw [hr] at h; cases h
    | g ws => rw [hr] at h; cases h

/-- A register of an affine shape reads base + lane × stride in every lane. -/
theorem readV_of_a {w : Warp} {n : Nat} {b t : Word} (h : w.shapeV n = .a b t) (L : Nat) :
    w.readV n L = b + BitVec.ofNat 32 L * t := by
  unfold Warp.shapeV at h
  split at h
  · cases h
  · next hb =>
    have unb : (banked n && w.opened.getLsbD L) = false := by
      cases hk : (banked n && w.opened.getLsbD L)
      · rfl
      · rw [Bool.and_eq_true] at hk
        exact absurd (by rw [hk.1, Bool.true_and]; exact bne_iff_ne.2 (ne_zero_of_lane hk.2)) hb
    simp only [Warp.readV, unb]
    cases hr : look (VReg.u 0) w.v n with
    | u x => rw [hr] at h; cases h
    | a b' t' => rw [hr] at h; cases h; rfl
    | g ws => rw [hr] at h; cases h

/-- An operand that names no lane reads the same in every lane. -/
theorem val_laneFree {f : Opnd} (h : f.laneFree = true) (x : Ix) (o : OpW) (t : Ty) (L L' : Nat) : x.val o t f L = x.val o t f L' := by
  cases f <;> first | (simp [Opnd.laneFree, Opnd.kind] at h; done) | (unfold Ix.val; rfl)

/-- A source of shape U reads the same in every live lane (R65). -/
theorem val_of_u {x : Ix} {f : Opnd} {t : Ty} (h : x.shapeOf f (useAt t f).2 = .u) (o : OpW) {L L' : Nat}
    (hL : x.w.live.getLsbD L = true) (hL' : x.w.live.getLsbD L' = true) : x.val o t f L = x.val o t f L' := by
  cases f with
  | v n =>
    unfold Ix.val
    dsimp only
    by_cases h64 : t.is64 = true
    · rw [if_pos h64, if_pos h64]
      have h2 : (useAt t (.v n)).2 = 2 := by simp [useAt, h64, Opnd.kind]
      rw [h2] at h
      simp only [Ix.shapeOf, if_neg (by decide : ¬ (2 : Nat) = 1)] at h
      split at h
      · next hall =>
        rw [List.all_eq_true] at hall
        have h0 : x.w.shapeV n.toNat = .u := by simpa using hall 0 (by simp)
        have h1 : x.w.shapeV (n.toNat + 1) = .u := by simpa using hall 1 (by simp)
        simp only [Warp.readPair]
        rw [readV_of_u h0 L L', readV_of_u h1 L L']
      · cases h
    · rw [if_neg h64, if_neg h64]
      have h2 : (useAt t (.v n)).2 = 1 := by simp [useAt, h64]
      rw [h2] at h
      simp only [Ix.shapeOf, if_true] at h
      rw [readV_of_u h L L']
  | p n => simp [Ix.shapeOf] at h
  | lane => simp [Ix.shapeOf] at h
  | tid => simp [Ix.shapeOf] at h
  | pcv =>
    unfold Ix.val
    dsimp only
    have hlen : ((lanesOf x.w.live).map x.w.pcOf).eraseDups.length ≤ 1 := by
      simp only [Ix.shapeOf] at h
      by_cases hlen : ((lanesOf x.w.live).map x.w.pcOf).eraseDups.length ≤ 1
      · exact hlen
      · rw [if_neg hlen] at h; cases h
    have := eraseDups_le_one hlen (x.w.pcOf L) (List.mem_map_of_mem ((mem_lanesOf _ _).2 hL)) (x.w.pcOf L')
      (List.mem_map_of_mem ((mem_lanesOf _ _).2 hL'))
    rw [this]
  | _ => rfl

/-- Sources of shape U one by one. -/
theorem shapeAll_u {x : Ix} {srcs : List Use} (h : x.shapeAll srcs = .u) {u : Use} (hu : u ∈ srcs) : x.shapeOf u.1 u.2 = .u := by
  unfold Ix.shapeAll at h
  split at h
  · next hall =>
    rw [List.all_eq_true] at hall
    simpa using hall u hu
  · cases h

theorem shapeAll_not_a {x : Ix} {srcs : List Use} {b t : Word} : x.shapeAll srcs ≠ .a b t := by
  unfold Ix.shapeAll; split <;> simp

/-- The image shape of a result that is a function of the values of its sources (R65's last row). -/
theorem imgShape_all {x : Ix} {srcs : List Use} {t : Ty} {ok : LaneSet} {val : Nat → DWord}
    (hsub : ∀ L, ok.getLsbD L = true → x.w.live.getLsbD L = true)
    (hv : x.shapeAll srcs = .u → ∀ L, x.w.live.getLsbD L = true → ∀ L', x.w.live.getLsbD L' = true → val L = val L') :
    ImgShape t (x.shapeAll srcs) ok val :=
  ⟨fun h L hL L' hL' => hv h L (hsub L hL) L' (hsub L' hL'), fun _ _ h => absurd h shapeAll_not_a⟩

/-- The word of a source of an affine shape at a 32-bit type. -/
theorem val_of_a {x : Ix} {f : Opnd} {b t : Word} (h : x.shapeOf f 1 = .a b t) (o : OpW) {ty : Ty} (hty : ty.width = 32) {L : Nat}
    (hL : x.w.live.getLsbD L = true) : (x.val o ty f L).setWidth 32 = b + BitVec.ofNat 32 L * t := by
  have h64 : ty.is64 = false := by simp [Ty.is64, hty]
  have trunc : ∀ y : DWord, (tyTrunc ty y).setWidth 32 = y.setWidth 32 := by
    intro y
    apply BitVec.eq_of_toNat_eq
    simp only [tyTrunc, hty, BitVec.toNat_setWidth, BitVec.toNat_ofNat]
    have := y.isLt
    omega
  unfold Ix.val
  rw [trunc]
  cases f with
  | v n =>
    simp only [Ix.shapeOf, if_true] at h
    simp only [h64, Bool.false_eq_true, if_false]
    rw [readV_of_a h L]
    simp
  | p n => simp [Ix.shapeOf] at h
  | lane =>
    simp only [Ix.shapeOf, Shape.a.injEq] at h
    obtain ⟨rfl, rfl⟩ := h
    apply BitVec.eq_of_toNat_eq
    simp
  | tid =>
    simp only [Ix.shapeOf, Shape.a.injEq] at h
    obtain ⟨rfl, rfl⟩ := h
    apply BitVec.eq_of_toNat_eq
    have := lt_of_lane hL
    simp
  | pcv => simp only [Ix.shapeOf] at h; split at h <;> cases h
  | _ => simp [Ix.shapeOf] at h

end Machine
end Sys2Proof
end

