-- ==== Sys2Proof/Laws/Act.lean ====
section
/-!
SUPPORT. What an instruction does when nothing stops it: the lane-wise actions and the scalar-side actions of the model,
each said once for an issue that is clear to run.
-/
namespace Sys2Proof.Machine

/-- A lane-wise action that no check stops: its own effect, then the end of the issue. -/
theorem laneAct_clear {d : Dev} {x : Ix} {o : OpW} {ds srcs : List Use} {pre : Ix → Nat → Option Flt}
    {act : Dev → Ix → LaneSet → Dev × LaneSet} {gw : Ix → LaneSet → Bool} (hix : d.ix = some x) (hbad : d.badReg = [])
    (hal : allocFault x.x.lr (ds ++ srcs) [] = none) (hpre : ∀ L, (x.guard o).getLsbD L = true → pre x L = none)
    (hcomp : ds.any x.x.lr.isCompact = true → gw x (x.guard o) = true → x.guard o = 0) :
    d.laneAct o ds srcs pre act gw = (act d x (x.guard o)).1.finish x (x.guard o) (act d x (x.guard o)).2 [] := by
  unfold Dev.laneAct
  rw [hix]
  dsimp only
  rw [plan_clear d x o ds srcs (pre x) (gw x) [] [] hbad (by simpa using hal) hpre hcomp]

/-- A scalar-side action whose guard holds in no issuing lane only steps them (R59). -/
theorem scalarAct_none {d : Dev} {x : Ix} {o : OpW} {ds srcs : List Use} {act : Dev → Ix → Dev × Scalar} {ts : List Nat}
    (hix : d.ix = some x) (hbad : d.badReg = []) (he : x.guard o = 0) : d.scalarAct o ds srcs act ts = d.finish x 0 0 [] := by
  unfold Dev.scalarAct
  rw [hix]
  simp [he, guardBad_nil d x o hbad]

/-- A scalar-side action that no check stops and that completes. -/
theorem scalarAct_done {d d' : Dev} {x : Ix} {o : OpW} {ds srcs : List Use} {act : Dev → Ix → Dev × Scalar} {ts : List Nat}
    (hix : d.ix = some x) (hbad : d.badReg = []) (hbad' : d'.badReg = []) (hal : allocFault x.x.lr (ds ++ srcs) ts = none)
    (he : x.guard o ≠ 0) (hact : act d x = (d', .done)) :
    d.scalarAct o ds srcs act ts = d'.finish x (x.guard o) 0 [] := by
  unfold Dev.scalarAct
  rw [hix]
  dsimp only
  rw [if_neg (fun h => he (of_decide_eq_true ((Bool.and_eq_true _ _).mp h).1)), plan_clear d x o ds srcs (fun _ => none) (fun _ => false) [] ts hbad (by simpa using hal) (fun _ _ => rfl) (by simp)]
  dsimp only
  rw [if_neg he, hact]
  dsimp only
  rw [mend_nil _ _ _ _ hbad']

/-- A scalar-side action that no check stops and that rests. -/
theorem scalarAct_rest {d d' : Dev} {x : Ix} {o : OpW} {ds srcs : List Use} {act : Dev → Ix → Dev × Scalar} {ts : List Nat} {why : RestWhy}
    (hix : d.ix = some x) (hbad : d.badReg = []) (hal : allocFault x.x.lr (ds ++ srcs) ts = none)
    (he : x.guard o ≠ 0) (hact : act d x = (d', .rest why)) :
    d.scalarAct o ds srcs act ts = (d'.rest x (x.guard o) why).finish x (x.guard o) (x.guard o) [] := by
  unfold Dev.scalarAct
  rw [hix]
  dsimp only
  rw [if_neg (fun h => he (of_decide_eq_true ((Bool.and_eq_true _ _).mp h).1)), plan_clear d x o ds srcs (fun _ => none) (fun _ => false) [] ts hbad (by simpa using hal) (fun _ _ => rfl) (by simp)]
  dsimp only
  rw [if_neg he, hact]

/-- The end of an issue whose only effect is on its own warp. -/
theorem finish_warp (d : Dev) (x : Ix) (f : Warp → Warp) (ran stay : LaneSet) :
    (d.modWarp x.g x.wi f).finish x ran stay [] = ended d x (lanesOf ran).length f stay := by
  rw [finish_nil]; rfl

theorem modWarp_self (d : Dev) (g wi : Nat) : d.modWarp g wi (fun w => w) = d := by
  unfold Dev.modWarp Dev.modGroup Group.modWarp
  have : d.groups.map (fun x => if x.id = g then { x with warps := x.warps.modify wi (fun w => w) } else x) = d.groups := by
    conv => rhs; rw [← List.map_id d.groups]
    apply List.map_congr_left
    intro x _
    split
    · have : x.warps.modify wi (fun w => w) = x.warps := by
        apply List.ext_getElem?
        intro i
        rw [List.getElem?_modify]
        split <;> simp
      rw [this]; rfl
    · rfl
  rw [this]

theorem finish_none (d : Dev) (x : Ix) (ran stay : LaneSet) :
    d.finish x ran stay [] = ended d x (lanesOf ran).length (fun w => w) stay := by
  have := finish_warp d x (fun w => w) ran stay
  rwa [modWarp_self] at this

/-- An instruction whose effect on the device is `ended`: the new warp, and nothing else but the counters. -/
theorem ended_onWarp {s : State} {x : Ix} {i : Instr} {n : Nat} {f : Warp → Warp} {stay : LaneSet} {P : Warp → Prop}
    (hi : exec i s = .next { s with dev := ended s.dev x n f stay }) (hix : s.dev.ix = some x) (h0 : x.arr = 0)
    (hP : P ((f x.w).stepPc (x.iss &&& ~~~stay &&& (f x.w).live))) : OnWarp s i x P :=
  ⟨_, _, hi, ended_warp hix h0 n f stay, ended_kept hix h0 n f stay, hP⟩

/-- A lane-wise instruction that only changes its own warp. -/
theorem laneAct_onWarp {s : State} {x : Ix} {i : Instr} {o : OpW} {ds srcs : List Use} {pre : Ix → Nat → Option Flt}
    {act : Dev → Ix → LaneSet → Dev × LaneSet} {gw : Ix → LaneSet → Bool} {f : Warp → Warp} {stay : LaneSet} {P : Warp → Prop}
    (hi : exec i s = s.onDev (fun d => d.laneAct o ds srcs pre act gw)) (hc : Clear s x (ds ++ srcs))
    (hpre : ∀ L, (x.guard o).getLsbD L = true → pre x L = none)
    (hcomp : ds.any x.x.lr.isCompact = true → gw x (x.guard o) = true → x.guard o = 0)
    (hact : act s.dev x (x.guard o) = (s.dev.modWarp x.g x.wi f, stay))
    (hP : P ((f x.w).stepPc (x.iss &&& ~~~stay &&& (f x.w).live))) : OnWarp s i x P := by
  refine ended_onWarp (n := (lanesOf (x.guard o)).length) (f := f) (stay := stay) ?_ hc.ix hc.first hP
  rw [hi, State.onDev, laneAct_clear hc.ix hc.good hc.alloc hpre hcomp, hact, finish_warp]

end Sys2Proof.Machine
end

