-- ==== Sys2Proof/Laws/Encode.lean ====
section
/-!
SUPPORT. The fields of a word and the word of the fields: each is read back as it was laid down.
-/
namespace Sys2Proof

@[simp] theorem Opnd.ofField_field (o : Opnd) : Opnd.ofField o.field = o := by
  cases o with
  | v n => revert n; decide
  | s n => revert n; decide
  | p n => revert n; decide
  | m n => revert n; decide
  | q n => revert n; decide
  | _ => decide

@[simp] theorem Opnd.field_ofField (x : BitVec 7) : (Opnd.ofField x).field = x := by revert x; decide

@[simp] theorem Ty.ofCode_code (t : Ty) : Ty.ofCode t.code = t := by cases t <;> rfl

@[simp] theorem Ty.code_ofCode (x : BitVec 4) : (Ty.ofCode x).code = x := by revert x; decide

@[simp] theorem HalfOp.ofField_field (o : HalfOp) : HalfOp.ofField o.field = some o := by cases o <;> rfl

/-- A field of the right part of an append. -/
theorem extract_right {n m : Nat} (x : BitVec n) (y : BitVec m) (s l : Nat) (h : s + l ≤ m) : (x ++ y).extractLsb' s l = y.extractLsb' s l := by
  apply BitVec.eq_of_getLsbD_eq
  intro i hi
  have : s + i < m := by omega
  simp [BitVec.getLsbD_append, this]

/-- A field of the left part of an append. -/
theorem extract_left {n m : Nat} (x : BitVec n) (y : BitVec m) (s l : Nat) (h : m ≤ s) : (x ++ y).extractLsb' s l = x.extractLsb' (s - m) l := by
  apply BitVec.eq_of_getLsbD_eq
  intro i hi
  have h1 : ¬ (s + i < m) := by omega
  have h2 : s + i - m = s - m + i := by omega
  simp [BitVec.getLsbD_append, h1, h2]

theorem extract_self {n : Nat} (x : BitVec n) : x.extractLsb' 0 n = x := by
  apply BitVec.eq_of_getLsbD_eq
  intro i hi
  simp [hi]

/-- Two fields that lie beside each other are one field. -/
theorem append_extract {n : Nat} (w : BitVec n) (s m l k : Nat) (h : k = s + m) :
    w.extractLsb' k l ++ w.extractLsb' s m = w.extractLsb' s (l + m) := by
  subst h
  apply BitVec.eq_of_getLsbD_eq
  intro i hi
  simp only [BitVec.getLsbD_append, BitVec.getLsbD_extractLsb']
  by_cases h : i < m
  · have : i < l + m := by omega
    simp [h, this]
  · have h1 : i - m < l := by omega
    have h2 : s + m + (i - m) = s + i := by omega
    simp [h, h1, h2, hi]

/-- The fields of an F-form word, laid down and read back (R36). -/
theorem fbits_fields (o : BitVec 9) (f : FWord) :
    (f.bits o).extractLsb' 62 2 = 0 ∧ (f.bits o).extractLsb' 53 9 = o ∧ FWord.ofBits (f.bits o) = f := by
  have e : ∀ (d a b c : BitVec 7) (n : BitVec 1) (p : BitVec 3) (t s : BitVec 4) (i : BitVec 13),
      let w := (0#2 ++ o ++ d ++ a ++ b ++ c ++ n ++ p ++ t ++ s ++ i)
      w.extractLsb' 62 2 = 0 ∧ w.extractLsb' 53 9 = o ∧ w.extractLsb' 46 7 = d ∧ w.extractLsb' 39 7 = a ∧ w.extractLsb' 32 7 = b
        ∧ w.extractLsb' 25 7 = c ∧ w.extractLsb' 24 1 = n ∧ w.extractLsb' 21 3 = p ∧ w.extractLsb' 17 4 = t ∧ w.extractLsb' 13 4 = s
        ∧ w.extractLsb' 0 13 = i := by
    intro d a b c n p t s i w
    refine ⟨?_, ?_, ?_, ?_, ?_, ?_, ?_, ?_, ?_, ?_, ?_⟩ <;>
      (repeat rw [extract_left _ _ _ _ (by decide)]) <;> (try rw [extract_right _ _ _ _ (by decide)]) <;> exact extract_self _
  obtain ⟨h0, h1, h2, h3, h4, h5, h6, h7, h8, h9, h10⟩ :=
    e f.d.field f.a.field f.b.field f.c.field (BitVec.ofBool f.neg) f.pidx f.ty.code f.sub f.imm
  refine ⟨h0, h1, ?_⟩
  unfold FWord.ofBits FWord.bits
  rw [show ((0#2 ++ o ++ f.d.field ++ f.a.field ++ f.b.field ++ f.c.field ++ BitVec.ofBool f.neg ++ f.pidx ++ f.ty.code ++ f.sub ++ f.imm).extractLsb' 46 7) = f.d.field from h2,
    h3, h4, h5, h6, h7, h8, h9, h10]
  simp only [Opnd.ofField_field, Ty.ofCode_code]
  cases f with
  | mk d a b c n p t s i => cases n <;> rfl

/-- The fields of an L-form word, laid down and read back (R37). -/
theorem lbits_fields (o : BitVec 9) (f : LWord) :
    (f.bits o).extractLsb' 62 2 = 2 ∧ (f.bits o).extractLsb' 53 9 = o ∧ LWord.ofBits (f.bits o) = f := by
  have e : ∀ (d a : BitVec 7) (t : BitVec 4) (s : BitVec 3) (i : BitVec 32),
      let w := (2#2 ++ o ++ d ++ a ++ t ++ s ++ i)
      w.extractLsb' 62 2 = 2 ∧ w.extractLsb' 53 9 = o ∧ w.extractLsb' 46 7 = d ∧ w.extractLsb' 39 7 = a ∧ w.extractLsb' 35 4 = t
        ∧ w.extractLsb' 32 3 = s ∧ w.extractLsb' 0 32 = i := by
    intro d a t s i w
    refine ⟨?_, ?_, ?_, ?_, ?_, ?_, ?_⟩ <;>
      (repeat rw [extract_left _ _ _ _ (by decide)]) <;> (try rw [extract_right _ _ _ _ (by decide)]) <;> exact extract_self _
  obtain ⟨h0, h1, h2, h3, h4, h5, h6⟩ := e f.d.field f.a.field f.ty.code f.sub f.imm
  refine ⟨h0, h1, ?_⟩
  unfold LWord.ofBits LWord.bits
  rw [h2, h3, h4, h5, h6]
  simp only [Opnd.ofField_field, Ty.ofCode_code]

/-- The fields of a half, laid down and read back (R38). -/
theorem half_fields (h : Half) : HalfOp.ofField (h.bits.extractLsb' 24 7) = some h.op ∧ Half.ofBits h.op h.bits = h
    ∧ hmodBad h.bits = false ∧ halfFieldBad h.bits = false := by
  have e : ∀ (o : BitVec 7) (d s : BitVec 6) (m : BitVec 4) (i : BitVec 8),
      let w := (o ++ d ++ s ++ m ++ i)
      w.extractLsb' 24 7 = o ∧ w.extractLsb' 18 6 = d ∧ w.extractLsb' 12 6 = s ∧ w.extractLsb' 8 4 = m ∧ w.extractLsb' 0 8 = i
        ∧ w.extractLsb' 11 1 = m.extractLsb' 3 1 ∧ w.extractLsb' 8 3 = m.extractLsb' 0 3 := by
    intro o d s m i w
    refine ⟨?_, ?_, ?_, ?_, ?_, ?_, ?_⟩
    · rw [extract_left _ _ _ _ (by decide), extract_left _ _ _ _ (by decide), extract_left _ _ _ _ (by decide), extract_left _ _ _ _ (by decide)]
      exact extract_self _
    · rw [extract_left _ _ _ _ (by decide), extract_left _ _ _ _ (by decide), extract_left _ _ _ _ (by decide), extract_right _ _ _ _ (by decide)]
      exact extract_self _
    · rw [extract_left _ _ _ _ (by decide), extract_left _ _ _ _ (by decide), extract_right _ _ _ _ (by decide)]
      exact extract_self _
    · exact (extract_left _ _ 8 4 (by decide)).trans ((extract_right _ _ _ _ (by decide)).trans (extract_self _))
    · rw [extract_right _ _ _ _ (by decide)]
      exact extract_self _
    · exact (extract_left _ _ 11 1 (by decide)).trans (extract_right _ _ _ _ (by decide))
    · exact (extract_left _ _ 8 3 (by decide)).trans (extract_right _ _ _ _ (by decide))
  have bad : ∀ x : BitVec 31, hmodBad x = (x.extractLsb' 8 3 != 0) := fun _ => rfl
  cases h with
  | mk op d s =>
    cases s with
    | reg n =>
      have hb : Half.bits ⟨op, d, .reg n⟩ = op.field ++ d ++ n ++ 0#4 ++ 0#8 := rfl
      obtain ⟨h1, h2, h3, h4, h5, h6, h7⟩ := e op.field d n 0#4 0#8
      rw [← hb] at h1 h2 h3 h5 h6 h7
      generalize Half.bits ⟨op, d, .reg n⟩ = w at *
      have k : w.extractLsb' 11 1 = 0 := h6.trans (by decide)
      refine ⟨by rw [h1]; exact HalfOp.ofField_field op, ?_, ?_, ?_⟩
      · simp [Half.ofBits, h2, h3, k]
      · rw [bad, h7]; decide
      · simp [halfFieldBad, h5, k]
    | imm i =>
      have hb : Half.bits ⟨op, d, .imm i⟩ = op.field ++ d ++ 0#6 ++ 8#4 ++ i := rfl
      obtain ⟨h1, h2, h3, h4, h5, h6, h7⟩ := e op.field d 0#6 8#4 i
      rw [← hb] at h1 h2 h3 h5 h6 h7
      generalize Half.bits ⟨op, d, .imm i⟩ = w at *
      have k : w.extractLsb' 11 1 = 1 := h6.trans (by decide)
      refine ⟨by rw [h1]; exact HalfOp.ofField_field op, ?_, ?_, ?_⟩
      · simp [Half.ofBits, h2, h5, k]
      · rw [bad, h7]; decide
      · simp [halfFieldBad, h3, k]

/-- The halves of a pair's word. -/
theorem pair_fields (a b : BitVec 31) : ((1#2 ++ a ++ b).extractLsb' 62 2 = 1) ∧ ((1#2 ++ a ++ b).extractLsb' 31 31 = a)
    ∧ ((1#2 ++ a ++ b).extractLsb' 0 31 = b) := by
  refine ⟨?_, ?_, ?_⟩ <;>
    (repeat rw [extract_left _ _ _ _ (by decide)]) <;> (try rw [extract_right _ _ _ _ (by decide)]) <;> exact extract_self _

/-- The word of the fields that an F-form word holds is the word. -/
theorem fbits_ofBits (w : BitVec 64) (h : w.extractLsb' 62 2 = 0) : (FWord.ofBits w).bits (w.extractLsb' 53 9) = w := by
  unfold FWord.ofBits FWord.bits
  have en : BitVec.ofBool (w.extractLsb' 24 1 == 1) = w.extractLsb' 24 1 := by
    generalize w.extractLsb' 24 1 = y; revert y; decide
  simp only [Opnd.field_ofField, Ty.code_ofCode, en]
  rw [show (0#2 : BitVec 2) = w.extractLsb' 62 2 from h.symm]
  rw [append_extract w 53 9 2 62 rfl, append_extract w 46 7 11 53 rfl, append_extract w 39 7 18 46 rfl, append_extract w 32 7 25 39 rfl,
    append_extract w 25 7 32 32 rfl, append_extract w 24 1 39 25 rfl, append_extract w 21 3 40 24 rfl, append_extract w 17 4 43 21 rfl,
    append_extract w 13 4 47 17 rfl, append_extract w 0 13 51 13 rfl]
  exact extract_self w

/-- The word of the fields that an L-form word holds is the word. -/
theorem lbits_ofBits (w : BitVec 64) (h : w.extractLsb' 62 2 = 2) : (LWord.ofBits w).bits (w.extractLsb' 53 9) = w := by
  unfold LWord.ofBits LWord.bits
  simp only [Opnd.field_ofField, Ty.code_ofCode]
  rw [show (2#2 : BitVec 2) = w.extractLsb' 62 2 from h.symm]
  rw [append_extract w 53 9 2 62 rfl, append_extract w 46 7 11 53 rfl, append_extract w 39 7 18 46 rfl, append_extract w 35 4 25 39 rfl,
    append_extract w 32 3 29 35 rfl, append_extract w 0 32 32 32 rfl]
  exact extract_self w

end Sys2Proof
end

