-- ==== Sys2Proof/Laws/Lag.lean ====
section
/-!
SUPPORT. What performing the loads that a warp still has to perform can do: nothing where it has none, and nothing to memory in any case.
-/
namespace Sys2Proof.Machine

/-- With no load kept back, performing a warp's loads changes nothing. -/
@[simp] theorem settleLoads_nil (d : Dev) (g wi : Nat) (h : d.lags = []) : d.settleLoads g wi = d := by simp [Dev.settleLoads, h]

/-- With no load kept back, no instruction waits for one. -/
@[simp] theorem settleFor_nil (d : Dev) (g wi : Nat) (i : Instr) (h : d.lags = []) : d.settleFor g wi i = d := by
  simp [Dev.settleFor, h]

/-- The same for the end of a group. -/
@[simp] theorem settleGroup_nil (d : Dev) (x : Group) (h : d.lags = []) : d.settleGroup x = d := by
  unfold Dev.settleGroup
  induction List.range x.warps.length with
  | nil => rfl
  | cons a l ih => rw [List.foldl_cons, settleLoads_nil d _ _ h, ih]

/-- Looking at one write changes the device's supply of free values alone. -/
theorem glanceStep_free (a n : Nat) (seen : List Nat) (g : Glance) (w : Write) :
    ∃ k, (g.step a n seen w).d = { g.d with free := k } := by
  unfold Glance.step
  dsimp only
  split
  · exact ⟨g.d.free, rfl⟩
  · split <;> exact ⟨g.d.free + 1, rfl⟩

/-- A lane's read changes the device's supply of free values alone. -/
theorem glimpse_free (d : Dev) (know seen : List Nat) (a n : Nat) (now : List Byte) :
    ∃ k, (d.glimpse know seen a n now).1 = { d with free := k } := by
  have h : ∀ (ws : List Write) (g : Glance), ∃ k, (ws.foldl (Glance.step a n seen) g).d = { g.d with free := k } := by
    intro ws
    induction ws with
    | nil => intro g; exact ⟨g.d.free, rfl⟩
    | cons w ws ih =>
      intro g
      obtain ⟨k, hk⟩ := ih (g.step a n seen w)
      obtain ⟨j, hj⟩ := glanceStep_free a n seen g w
      exact ⟨k, by rw [List.foldl_cons, hk, hj]⟩
  unfold Dev.glimpse
  dsimp only
  split <;> exact h _ _

@[simp] theorem glimpse_mem (d : Dev) (know seen : List Nat) (a n : Nat) (now : List Byte) :
    (d.glimpse know seen a n now).1.mem = d.mem := by
  obtain ⟨k, hk⟩ := glimpse_free d know seen a n now
  rw [hk]

/-- Performing a load writes a register, never memory. -/
@[simp] theorem land_mem (d : Dev) (l : Lag) : (d.land l).mem = d.mem := by simp [Dev.land]

/-- Performing a warp's loads never changes memory. -/
theorem settleLoads_mem (d : Dev) (g wi : Nat) : (d.settleLoads g wi).mem = d.mem := by
  have h : ∀ (ls : List Lag) (d : Dev), (ls.foldl Dev.land d).mem = d.mem := by
    intro ls
    induction ls with
    | nil => intro d; rfl
    | cons l ls ih => intro d; rw [List.foldl_cons, ih, land_mem]
  unfold Dev.settleLoads
  split
  · rfl
  · rw [h]

end Sys2Proof.Machine
end

