-- ==== Sys2Proof/Laws/PerInstr.lean ====
section
/-!
SUPPORT. What is said of every instruction as syntax: its word, where it has one, passes the first two checks of R51 (a
form of R35 that is not reserved, an opcode slot of R49 or R50 that holds an instruction).
-/
namespace Sys2Proof.Laws.Encodes

/-- The first two checks of R51 pass on the word of an instruction. -/
def Statement (i : Instr) : Prop :=
  ∀ w, encode i = some w →
    w.extractLsb' 62 2 = 0 ∧ (opF (w.extractLsb' 53 9)).isSome = true ∨ w.extractLsb' 62 2 = 1
      ∨ w.extractLsb' 62 2 = 2 ∧ (opL (w.extractLsb' 53 9)).isSome = true

theorem of_f {i : Instr} (o : BitVec 9) (f : FWord) (e : encode i = some (f.bits o)) (h : (opF o).isSome = true) : Statement i := by
  intro w hw
  rw [e] at hw
  obtain rfl := Option.some.inj hw
  obtain ⟨a, b, _⟩ := fbits_fields o f
  exact .inl ⟨a, by rw [b]; exact h⟩

theorem of_l {i : Instr} (o : BitVec 9) (f : LWord) (e : encode i = some (f.bits o)) (h : (opL o).isSome = true) : Statement i := by
  intro w hw
  rw [e] at hw
  obtain rfl := Option.some.inj hw
  obtain ⟨a, b, _⟩ := lbits_fields o f
  exact .inr (.inr ⟨a, by rw [b]; exact h⟩)

/-- The steps of the other agents have no word. -/
theorem of_none {i : Instr} (e : encode i = none) : Statement i := by
  intro w hw
  rw [e] at hw
  cases hw

theorem nop (f : FWord) : Statement (.nop f) := of_f 0x000 f rfl (by decide)
theorem bra (f : FWord) : Statement (.bra f) := of_f 0x001 f rfl (by decide)
theorem braL (f : LWord) : Statement (.braL f) := of_l 0x001 f rfl (by decide)
theorem brc (f : FWord) : Statement (.brc f) := of_f 0x002 f rfl (by decide)
theorem brcL (f : LWord) : Statement (.brcL f) := of_l 0x002 f rfl (by decide)
theorem brx (f : FWord) : Statement (.brx f) := of_f 0x003 f rfl (by decide)
theorem call (f : FWord) : Statement (.call f) := of_f 0x004 f rfl (by decide)
theorem callL (f : LWord) : Statement (.callL f) := of_l 0x004 f rfl (by decide)
theorem ret (f : FWord) : Statement (.ret f) := of_f 0x005 f rfl (by decide)
theorem exit (f : FWord) : Statement (.exit f) := of_f 0x006 f rfl (by decide)
theorem tail (f : FWord) : Statement (.tail f) := of_f 0x007 f rfl (by decide)
theorem ypt (f : FWord) : Statement (.ypt f) := of_f 0x008 f rfl (by decide)
theorem mjoin (f : FWord) : Statement (.mjoin f) := of_f 0x009 f rfl (by decide)
theorem mleave (f : FWord) : Statement (.mleave f) := of_f 0x00A f rfl (by decide)
theorem mwait (f : FWord) : Statement (.mwait f) := of_f 0x00B f rfl (by decide)
theorem mset (f : FWord) : Statement (.mset f) := of_f 0x00C f rfl (by decide)
theorem mget (f : FWord) : Statement (.mget f) := of_f 0x00D f rfl (by decide)
theorem serb (f : FWord) : Statement (.serb f) := of_f 0x00E f rfl (by decide)
theorem sere (f : FWord) : Statement (.sere f) := of_f 0x00F f rfl (by decide)
theorem rgn (f : FWord) : Statement (.rgn f) := of_f 0x010 f rfl (by decide)
theorem bar (f : FWord) : Statement (.bar f) := of_f 0x011 f rfl (by decide)
theorem bara (f : FWord) : Statement (.bara f) := of_f 0x012 f rfl (by decide)
theorem barw (f : FWord) : Statement (.barw f) := of_f 0x013 f rfl (by decide)
theorem sleep (f : FWord) : Statement (.sleep f) := of_f 0x014 f rfl (by decide)
theorem lnch (f : FWord) : Statement (.lnch f) := of_f 0x015 f rfl (by decide)
theorem semsig (f : FWord) : Statement (.semsig f) := of_f 0x016 f rfl (by decide)
theorem semwt (f : FWord) : Statement (.semwt f) := of_f 0x017 f rfl (by decide)
theorem add (f : FWord) : Statement (.add f) := of_f 0x020 f rfl (by decide)
theorem addL (f : LWord) : Statement (.addL f) := of_l 0x020 f rfl (by decide)
theorem sub (f : FWord) : Statement (.sub f) := of_f 0x021 f rfl (by decide)
theorem subL (f : LWord) : Statement (.subL f) := of_l 0x021 f rfl (by decide)
theorem mul (f : FWord) : Statement (.mul f) := of_f 0x022 f rfl (by decide)
theorem mulL (f : LWord) : Statement (.mulL f) := of_l 0x022 f rfl (by decide)
theorem mulh (f : FWord) : Statement (.mulh f) := of_f 0x023 f rfl (by decide)
theorem mad (f : FWord) : Statement (.mad f) := of_f 0x024 f rfl (by decide)
theorem div (f : FWord) : Statement (.div f) := of_f 0x025 f rfl (by decide)
theorem rem (f : FWord) : Statement (.rem f) := of_f 0x026 f rfl (by decide)
theorem min (f : FWord) : Statement (.min f) := of_f 0x027 f rfl (by decide)
theorem minL (f : LWord) : Statement (.minL f) := of_l 0x027 f rfl (by decide)
theorem max (f : FWord) : Statement (.max f) := of_f 0x028 f rfl (by decide)
theorem maxL (f : LWord) : Statement (.maxL f) := of_l 0x028 f rfl (by decide)
theorem abs (f : FWord) : Statement (.abs f) := of_f 0x029 f rfl (by decide)
theorem neg (f : FWord) : Statement (.neg f) := of_f 0x02A f rfl (by decide)
theorem and (f : FWord) : Statement (.and f) := of_f 0x02B f rfl (by decide)
theorem andL (f : LWord) : Statement (.andL f) := of_l 0x02B f rfl (by decide)
theorem or (f : FWord) : Statement (.or f) := of_f 0x02C f rfl (by decide)
theorem orL (f : LWord) : Statement (.orL f) := of_l 0x02C f rfl (by decide)
theorem xor (f : FWord) : Statement (.xor f) := of_f 0x02D f rfl (by decide)
theorem xorL (f : LWord) : Statement (.xorL f) := of_l 0x02D f rfl (by decide)
theorem not (f : FWord) : Statement (.not f) := of_f 0x02E f rfl (by decide)
theorem andn (f : FWord) : Statement (.andn f) := of_f 0x02F f rfl (by decide)
theorem andnL (f : LWord) : Statement (.andnL f) := of_l 0x02F f rfl (by decide)
theorem shl (f : FWord) : Statement (.shl f) := of_f 0x030 f rfl (by decide)
theorem shr (f : FWord) : Statement (.shr f) := of_f 0x031 f rfl (by decide)
theorem sar (f : FWord) : Statement (.sar f) := of_f 0x032 f rfl (by decide)
theorem rot (f : FWord) : Statement (.rot f) := of_f 0x033 f rfl (by decide)
theorem clz (f : FWord) : Statement (.clz f) := of_f 0x034 f rfl (by decide)
theorem popc (f : FWord) : Statement (.popc f) := of_f 0x035 f rfl (by decide)
theorem brev (f : FWord) : Statement (.brev f) := of_f 0x036 f rfl (by decide)
theorem bfe (f : FWord) : Statement (.bfe f) := of_f 0x037 f rfl (by decide)
theorem bfi (f : FWord) : Statement (.bfi f) := of_f 0x038 f rfl (by decide)
theorem sel (f : FWord) : Statement (.sel f) := of_f 0x039 f rfl (by decide)
theorem cmp (f : FWord) : Statement (.cmp f) := of_f 0x03A f rfl (by decide)
theorem cmpL (f : LWord) : Statement (.cmpL f) := of_l 0x03A f rfl (by decide)
theorem lea (f : FWord) : Statement (.lea f) := of_f 0x03B f rfl (by decide)
theorem leaL (f : LWord) : Statement (.leaL f) := of_l 0x03B f rfl (by decide)
theorem sext (f : FWord) : Statement (.sext f) := of_f 0x03C f rfl (by decide)
theorem zext (f : FWord) : Statement (.zext f) := of_f 0x03D f rfl (by decide)
theorem mov (f : FWord) : Statement (.mov f) := of_f 0x040 f rfl (by decide)
theorem li (f : FWord) : Statement (.li f) := of_f 0x041 f rfl (by decide)
theorem liL (f : LWord) : Statement (.liL f) := of_l 0x041 f rfl (by decide)
theorem shfl (f : FWord) : Statement (.shfl f) := of_f 0x042 f rfl (by decide)
theorem vote (f : FWord) : Statement (.vote f) := of_f 0x043 f rfl (by decide)
theorem bcst (f : FWord) : Statement (.bcst f) := of_f 0x044 f rfl (by decide)
theorem scan (f : FWord) : Statement (.scan f) := of_f 0x045 f rfl (by decide)
theorem vred (f : FWord) : Statement (.vred f) := of_f 0x046 f rfl (by decide)
theorem qget (f : FWord) : Statement (.qget f) := of_f 0x047 f rfl (by decide)
theorem elect (f : FWord) : Statement (.elect f) := of_f 0x048 f rfl (by decide)
theorem vshp (f : FWord) : Statement (.vshp f) := of_f 0x049 f rfl (by decide)
theorem fadd (f : FWord) : Statement (.fadd f) := of_f 0x060 f rfl (by decide)
theorem faddL (f : LWord) : Statement (.faddL f) := of_l 0x060 f rfl (by decide)
theorem fsub (f : FWord) : Statement (.fsub f) := of_f 0x061 f rfl (by decide)
theorem fsubL (f : LWord) : Statement (.fsubL f) := of_l 0x061 f rfl (by decide)
theorem fmul (f : FWord) : Statement (.fmul f) := of_f 0x062 f rfl (by decide)
theorem fmulL (f : LWord) : Statement (.fmulL f) := of_l 0x062 f rfl (by decide)
theorem ffma (f : FWord) : Statement (.ffma f) := of_f 0x063 f rfl (by decide)
theorem fdiv (f : FWord) : Statement (.fdiv f) := of_f 0x064 f rfl (by decide)
theorem fsqrt (f : FWord) : Statement (.fsqrt f) := of_f 0x065 f rfl (by decide)
theorem frcp (f : FWord) : Statement (.frcp f) := of_f 0x066 f rfl (by decide)
theorem frsq (f : FWord) : Statement (.frsq f) := of_f 0x067 f rfl (by decide)
theorem fexp2 (f : FWord) : Statement (.fexp2 f) := of_f 0x068 f rfl (by decide)
theorem flog2 (f : FWord) : Statement (.flog2 f) := of_f 0x069 f rfl (by decide)
theorem fsinpi (f : FWord) : Statement (.fsinpi f) := of_f 0x06A f rfl (by decide)
theorem fcospi (f : FWord) : Statement (.fcospi f) := of_f 0x06B f rfl (by decide)
theorem fmin (f : FWord) : Statement (.fmin f) := of_f 0x06C f rfl (by decide)
theorem fminL (f : LWord) : Statement (.fminL f) := of_l 0x06C f rfl (by decide)
theorem fmax (f : FWord) : Statement (.fmax f) := of_f 0x06D f rfl (by decide)
theorem fmaxL (f : LWord) : Statement (.fmaxL f) := of_l 0x06D f rfl (by decide)
theorem fcmp (f : FWord) : Statement (.fcmp f) := of_f 0x06E f rfl (by decide)
theorem fcmpL (f : LWord) : Statement (.fcmpL f) := of_l 0x06E f rfl (by decide)
theorem frnd (f : FWord) : Statement (.frnd f) := of_f 0x06F f rfl (by decide)
theorem fcvt (f : FWord) : Statement (.fcvt f) := of_f 0x070 f rfl (by decide)
theorem f2i (f : FWord) : Statement (.f2i f) := of_f 0x071 f rfl (by decide)
theorem i2f (f : FWord) : Statement (.i2f f) := of_f 0x072 f rfl (by decide)
theorem fclass (f : FWord) : Statement (.fclass f) := of_f 0x073 f rfl (by decide)
theorem bexp (f : FWord) : Statement (.bexp f) := of_f 0x080 f rfl (by decide)
theorem bpack (f : FWord) : Statement (.bpack f) := of_f 0x081 f rfl (by decide)
theorem bscl (f : FWord) : Statement (.bscl f) := of_f 0x082 f rfl (by decide)
theorem bhdr (f : FWord) : Statement (.bhdr f) := of_f 0x083 f rfl (by decide)
theorem ndot (f : FWord) : Statement (.ndot f) := of_f 0x084 f rfl (by decide)
theorem rnd (f : FWord) : Statement (.rnd f) := of_f 0x085 f rfl (by decide)
theorem ld (f : FWord) : Statement (.ld f) := of_f 0x0A0 f rfl (by decide)
theorem st (f : FWord) : Statement (.st f) := of_f 0x0A1 f rfl (by decide)
theorem lsp (f : FWord) : Statement (.lsp f) := of_f 0x0A2 f rfl (by decide)
theorem ssp (f : FWord) : Statement (.ssp f) := of_f 0x0A3 f rfl (by decide)
theorem lhv (f : FWord) : Statement (.lhv f) := of_f 0x0A4 f rfl (by decide)
theorem shv (f : FWord) : Statement (.shv f) := of_f 0x0A5 f rfl (by decide)
theorem atom (f : FWord) : Statement (.atom f) := of_f 0x0A6 f rfl (by decide)
theorem cas (f : FWord) : Statement (.cas f) := of_f 0x0A7 f rfl (by decide)
theorem red (f : FWord) : Statement (.red f) := of_f 0x0A8 f rfl (by decide)
theorem fence (f : FWord) : Statement (.fence f) := of_f 0x0A9 f rfl (by decide)
theorem pchk (f : FWord) : Statement (.pchk f) := of_f 0x0AA f rfl (by decide)
theorem pclr (f : FWord) : Statement (.pclr f) := of_f 0x0AB f rfl (by decide)
theorem pfch (f : FWord) : Statement (.pfch f) := of_f 0x0AC f rfl (by decide)
theorem cpy (f : FWord) : Statement (.cpy f) := of_f 0x0C0 f rfl (by decide)
theorem cjob (f : FWord) : Statement (.cjob f) := of_f 0x0C1 f rfl (by decide)
theorem cwait (f : FWord) : Statement (.cwait f) := of_f 0x0C2 f rfl (by decide)
theorem cpoll (f : FWord) : Statement (.cpoll f) := of_f 0x0C3 f rfl (by decide)
theorem coll (f : FWord) : Statement (.coll f) := of_f 0x0C4 f rfl (by decide)
theorem mmac (f : FWord) : Statement (.mmac f) := of_f 0x0E0 f rfl (by decide)
theorem mzero (f : FWord) : Statement (.mzero f) := of_f 0x0E1 f rfl (by decide)
theorem mload (f : FWord) : Statement (.mload f) := of_f 0x0E2 f rfl (by decide)
theorem mdrain (f : FWord) : Statement (.mdrain f) := of_f 0x0E3 f rfl (by decide)
theorem mstat (f : FWord) : Statement (.mstat f) := of_f 0x0E4 f rfl (by decide)
theorem sbind (f : FWord) : Statement (.sbind f) := of_f 0x100 f rfl (by decide)
theorem sld (f : FWord) : Statement (.sld f) := of_f 0x101 f rfl (by decide)
theorem sst (f : FWord) : Statement (.sst f) := of_f 0x102 f rfl (by decide)
theorem sstc (f : FWord) : Statement (.sstc f) := of_f 0x103 f rfl (by decide)
theorem sres (f : FWord) : Statement (.sres f) := of_f 0x104 f rfl (by decide)
theorem cullbf (f : FWord) : Statement (.cullbf f) := of_f 0x120 f rfl (by decide)
theorem cullfr (f : FWord) : Statement (.cullfr f) := of_f 0x121 f rfl (by decide)
theorem cullsm (f : FWord) : Statement (.cullsm f) := of_f 0x122 f rfl (by decide)
theorem cullhz (f : FWord) : Statement (.cullhz f) := of_f 0x123 f rfl (by decide)
theorem pexp (f : FWord) : Statement (.pexp f) := of_f 0x124 f rfl (by decide)
theorem isectb (f : FWord) : Statement (.isectb f) := of_f 0x125 f rfl (by decide)
theorem isectt (f : FWord) : Statement (.isectt f) := of_f 0x126 f rfl (by decide)
theorem pix (f : FWord) : Statement (.pix f) := of_f 0x127 f rfl (by decide)
theorem fdisc (f : FWord) : Statement (.fdisc f) := of_f 0x128 f rfl (by decide)
theorem fdep (f : FWord) : Statement (.fdep f) := of_f 0x129 f rfl (by decide)
theorem mbsend (f : FWord) : Statement (.mbsend f) := of_f 0x140 f rfl (by decide)
theorem mbrecv (f : FWord) : Statement (.mbrecv f) := of_f 0x141 f rfl (by decide)
theorem mbpoll (f : FWord) : Statement (.mbpoll f) := of_f 0x142 f rfl (by decide)
theorem mbver (f : FWord) : Statement (.mbver f) := of_f 0x143 f rfl (by decide)
theorem pbopen (f : FWord) : Statement (.pbopen f) := of_f 0x144 f rfl (by decide)
theorem pbx (f : FWord) : Statement (.pbx f) := of_f 0x145 f rfl (by decide)
theorem pacc (f : FWord) : Statement (.pacc f) := of_f 0x146 f rfl (by decide)
theorem pbstat (f : FWord) : Statement (.pbstat f) := of_f 0x147 f rfl (by decide)
theorem csrr (f : FWord) : Statement (.csrr f) := of_f 0x160 f rfl (by decide)
theorem csrw (f : FWord) : Statement (.csrw f) := of_f 0x161 f rfl (by decide)
theorem csrs (f : FWord) : Statement (.csrs f) := of_f 0x162 f rfl (by decide)
theorem csrc (f : FWord) : Statement (.csrc f) := of_f 0x163 f rfl (by decide)
theorem trap (f : FWord) : Statement (.trap f) := of_f 0x164 f rfl (by decide)
theorem eret (f : FWord) : Statement (.eret f) := of_f 0x165 f rfl (by decide)
theorem brk (f : FWord) : Statement (.brk f) := of_f 0x166 f rfl (by decide)
theorem pFormPair (h1 h2 : Half) : Statement (.pFormPair h1 h2) := by
  intro w hw
  obtain rfl := Option.some.inj hw
  exact .inr (.inl (pair_fields _ _).1)
theorem illegalWordIssue (e : Illegal) : Statement (.illegalWordIssue e) := of_none rfl
theorem faultServiceRewalk (g w arrival : Nat) : Statement (.faultServiceRewalk g w arrival) := of_none rfl
theorem sleepExpiry (g w : Nat) : Statement (.sleepExpiry g w) := of_none rfl
theorem laneRestRelease (g w arrival : Nat) : Statement (.laneRestRelease g w arrival) := of_none rfl
theorem hostMemoryWrite (tag : HostTag) (addr : BitVec 52) (bytes : List Byte) : Statement (.hostMemoryWrite tag addr bytes) := of_none rfl
theorem hostMemoryRead (tag : HostTag) (addr : BitVec 52) (n : Nat) : Statement (.hostMemoryRead tag addr n) := of_none rfl
theorem remoteAccess (node : Nat) (addr : BitVec 52) (rq : RemoteReq) : Statement (.remoteAccess node addr rq) := of_none rfl
theorem rdmaWrite (node : Nat) (addr : BitVec 52) (bytes : List Byte) : Statement (.rdmaWrite node addr bytes) := of_none rfl
theorem rdmaRead (node : Nat) (addr : BitVec 52) (n : Nat) : Statement (.rdmaRead node addr n) := of_none rfl
theorem rdmaSend (node qp : Nat) (bytes : List Byte) : Statement (.rdmaSend node qp bytes) := of_none rfl
theorem rdmaFetchAdd (node : Nat) (addr : BitVec 52) (x : DWord) : Statement (.rdmaFetchAdd node addr x) := of_none rfl
theorem rdmaCompareSwap (node : Nat) (addr : BitVec 52) (expected new : DWord) : Statement (.rdmaCompareSwap node addr expected new) := of_none rfl
theorem remoteAccessTimeout (node : Nat) : Statement (.remoteAccessTimeout node) := of_none rfl
theorem l1Eviction (core line : Nat) (lost : Bool) : Statement (.l1Eviction core line lost) := of_none rfl
theorem registerScrub (g w : Nat) (field : BitVec 9) (lane : Nat) (bad : Bool) : Statement (.registerScrub g w field lane bad) := of_none rfl
theorem launchRecordConsume (q : Nat) : Statement (.launchRecordConsume q) := of_none rfl
theorem placeGroup (die : Nat) : Statement (.placeGroup die) := of_none rfl
theorem groupRestore (q : Nat) : Statement (.groupRestore q) := of_none rfl
theorem groupResourceFree (g : Nat) : Statement (.groupResourceFree g) := of_none rfl
theorem queueEnable (tag q : Nat) : Statement (.queueEnable tag q) := of_none rfl
theorem queueDisableKill (tag q : Nat) : Statement (.queueDisableKill tag q) := of_none rfl
theorem preemptionRequest (tag q : Nat) : Statement (.preemptionRequest tag q) := of_none rfl
theorem preemptionWithdraw (tag q : Nat) : Statement (.preemptionWithdraw tag q) := of_none rfl
theorem preemptionDeadline (g : Nat) : Statement (.preemptionDeadline g) := of_none rfl
theorem groupSaveWrite (g : Nat) : Statement (.groupSaveWrite g) := of_none rfl
theorem saveOpsTimeout (g : Nat) : Statement (.saveOpsTimeout g) := of_none rfl
theorem queueKillComplete (q : Nat) : Statement (.queueKillComplete q) := of_none rfl
theorem killEngineTimeout (op : Nat) : Statement (.killEngineTimeout op) := of_none rfl
theorem worldSwitchRequest (c f : Nat) : Statement (.worldSwitchRequest c f) := of_none rfl
theorem worldSwitchComplete (c : Nat) : Statement (.worldSwitchComplete c) := of_none rfl
theorem revocationStart (c : Nat) : Statement (.revocationStart c) := of_none rfl
theorem revocationSaveTimeout (c : Nat) : Statement (.revocationSaveTimeout c) := of_none rfl
theorem revocationComplete (c : Nat) : Statement (.revocationComplete c) := of_none rfl
theorem layoutPrepare (tag : Nat) (gen : BitVec 32) : Statement (.layoutPrepare tag gen) := of_none rfl
theorem layoutFlip : Statement (.layoutFlip) := of_none rfl
theorem clusterLayoutApply (c : Nat) : Statement (.clusterLayoutApply c) := of_none rfl
theorem tlbInvalidate (tag : Nat) (value : DWord) : Statement (.tlbInvalidate tag value) := of_none rfl
theorem tlbInvalidateDone : Statement (.tlbInvalidateDone) := of_none rfl
theorem semaphoreWindowWrite (tag n : Nat) (value : DWord) : Statement (.semaphoreWindowWrite tag n value) := of_none rfl
theorem mailboxOpen (tag die n : Nat) : Statement (.mailboxOpen tag die n) := of_none rfl
theorem mailboxClose (tag die n : Nat) : Statement (.mailboxClose tag die n) := of_none rfl
theorem episodeStart (tag die k : Nat) : Statement (.episodeStart tag die k) := of_none rfl
theorem episodeStop (tag die k : Nat) : Statement (.episodeStop tag die k) := of_none rfl
theorem vfDisable (tag f : Nat) : Statement (.vfDisable tag f) := of_none rfl
theorem registerWindowWrite (tag : Nat) (off : BitVec 30) (value : DWord) : Statement (.registerWindowWrite tag off value) := of_none rfl
theorem attest (die : Nat) : Statement (.attest die) := of_none rfl
theorem stageImage (die : Nat) : Statement (.stageImage die) := of_none rfl
theorem selectSlot (die : Nat) : Statement (.selectSlot die) := of_none rfl
theorem watchpointArm (tag die : Nat) : Statement (.watchpointArm tag die) := of_none rfl
theorem watchpointDisarm (tag die : Nat) : Statement (.watchpointDisarm tag die) := of_none rfl
theorem linkLogRead (die : Nat) : Statement (.linkLogRead die) := of_none rfl
theorem watchpointHit : Statement (.watchpointHit) := of_none rfl
theorem copyPieceLanded (op : Nat) : Statement (.copyPieceLanded op) := of_none rfl
theorem engineStallResolved (op : Nat) : Statement (.engineStallResolved op) := of_none rfl
theorem combCollectorMove (die : Nat) : Statement (.combCollectorMove die) := of_none rfl
theorem jobCardDone (op : Nat) : Statement (.jobCardDone op) := of_none rfl
theorem collectiveDone (op : Nat) : Statement (.collectiveDone op) := of_none rfl
theorem collectiveRankTimeout (op rank : Nat) : Statement (.collectiveRankTimeout op rank) := of_none rfl
theorem mmacCommit (op : Nat) : Statement (.mmacCommit op) := of_none rfl
theorem mmacFailure (op : Nat) : Statement (.mmacFailure op) := of_none rfl
theorem mdrainDelivery (op : Nat) : Statement (.mdrainDelivery op) := of_none rfl
theorem peerAdd (op : Nat) : Statement (.peerAdd op) := of_none rfl
theorem resolveTileCoding (op : Nat) : Statement (.resolveTileCoding op) := of_none rfl
theorem mailboxDelivery (op : Nat) : Statement (.mailboxDelivery op) := of_none rfl
theorem drawReprojection (draw tile : Nat) : Statement (.drawReprojection draw tile) := of_none rfl
theorem drawRasterise (draw tile : Nat) : Statement (.drawRasterise draw tile) := of_none rfl
theorem pixelGroupPlace (draw tile : Nat) : Statement (.pixelGroupPlace draw tile) := of_none rfl
theorem blendApply (draw tile : Nat) : Statement (.blendApply draw tile) := of_none rfl
theorem drawDone (draw : Nat) : Statement (.drawDone draw) := of_none rfl
theorem dmbsel (die k : Nat) (value : DWord) : Statement (.dmbsel die k value) := of_none rfl
theorem dmbrx (die k : Nat) (rd : BitVec 5) : Statement (.dmbrx die k rd) := of_none rfl
theorem dmbtx (die k : Nat) (rd : BitVec 5) (value : DWord) : Statement (.dmbtx die k rd value) := of_none rfl
theorem dmbclose (die k : Nat) : Statement (.dmbclose die k) := of_none rfl
theorem dmbcnt (die k : Nat) (rd : BitVec 5) : Statement (.dmbcnt die k rd) := of_none rfl
theorem droneMailboxWaitRelease (die k : Nat) : Statement (.droneMailboxWaitRelease die k) := of_none rfl
theorem episodeRunaway (die k : Nat) : Statement (.episodeRunaway die k) := of_none rfl
theorem episodeFaultStop (die k : Nat) (why : BitVec 8) (off : BitVec 48) : Statement (.episodeFaultStop die k why off) := of_none rfl
theorem powerGood (cxl : List Nat) : Statement (.powerGood cxl) := of_none rfl
theorem deviceReset : Statement (.deviceReset) := of_none rfl
theorem bienoWatchdogReset (die : Nat) : Statement (.bienoWatchdogReset die) := of_none rfl
theorem thermalHalt (die : Nat) : Statement (.thermalHalt die) := of_none rfl
theorem thermalThrottle (die : Nat) : Statement (.thermalThrottle die) := of_none rfl
theorem powerCapClockStep (up : Bool) : Statement (.powerCapClockStep up) := of_none rfl
theorem linkPermitMismatch (port : Nat) (retrained : Bool) : Statement (.linkPermitMismatch port retrained) := of_none rfl
theorem droneInstruction (die k : Nat) : Statement (.droneInstruction die k) := of_none rfl
theorem jobCardOutputLanded (op : Nat) : Statement (.jobCardOutputLanded op) := of_none rfl
theorem bienoRestart (die : Nat) : Statement (.bienoRestart die) := of_none rfl
theorem thermalHoldEnd : Statement (.thermalHoldEnd) := of_none rfl
theorem powerLoss : Statement (.powerLoss) := of_none rfl

end Sys2Proof.Laws.Encodes
end

