-- ==== Sys2Proof/Laws/Walk.lean ====
section
/-!
SUPPORT. What a page walk depends on: the entries it reads.
-/
namespace Sys2Proof.Machine

/-- Reads of agreeing bytes agree. -/
theorem read_congr {m m' : Memory} (n : Nat) : ∀ a, (∀ k, k < n → Memory.byte m (a + k) = Memory.byte m' (a + k)) →
    Memory.read m a n = Memory.read m' a n := by
  induction n with
  | zero => intro a _; rfl
  | succ n ih =>
    intro a h
    have h0 := h 0 (by omega)
    have hn := ih (a + 1) (fun k hk => by have := h (k + 1) (by omega); rwa [show a + (k + 1) = a + 1 + k by omega] at this)
    simp only [Memory.read, hn]
    rw [Nat.add_zero] at h0
    rw [h0]

/-- The addresses of the entries that a walk may read: its own at each level, with the run of sixteen around it (R153). -/
def walkAddrs (d : Dev) (va : Nat) : Nat → Nat → Nat → List Nat
  | 0, _, _ => []
  | fuel + 1, table, level =>
    let idx := pteIndex va level
    let e : DWord := BitVec.ofNat 64 (Memory.read d.mem (table + 8 * idx) 8)
    (table + 8 * idx) :: (List.range 16).map (fun i => table + 8 * (idx / 16 * 16 + i)) ++
      (if pteL e then [] else walkAddrs d va fuel (d.cfg.norm (ptePpn e)) (level + 1))

/-- Tests that agree on the members of a list agree on the list. -/
theorem all_eq_of {α : Type} (l : List α) (p q : α → Bool) (h : ∀ i ∈ l, p i = q i) : l.all p = l.all q := by
  induction l with
  | nil => rfl
  | cons i l ih => rw [List.all_cons, List.all_cons, h i (by simp), ih (fun j hj => h j (by simp [hj]))]

/-- A run of sixteen entries is judged by those entries. -/
theorem g64Ok_congr (d : Dev) (m : Memory) (table idx : Nat) (e : DWord)
    (h : ∀ i, i < 16 → Memory.read m (table + 8 * (idx / 16 * 16 + i)) 8 = Memory.read d.mem (table + 8 * (idx / 16 * 16 + i)) 8) :
    g64Ok { d with mem := m } table idx e = g64Ok d table idx e := by
  unfold g64Ok
  exact congrArg (and _) (all_eq_of _ _ _ (fun i hi => congrArg (· == e.toNat) (h i (List.mem_range.1 hi))))

/-- A walk is the same in memories that agree on the entries it may read. -/
theorem walkFrom_congr (d : Dev) (m : Memory) (die va : Nat) : ∀ fuel table level,
    (∀ a ∈ walkAddrs d va fuel table level, Memory.read m a 8 = Memory.read d.mem a 8) →
    walkFrom { d with mem := m } die va fuel table level = walkFrom d die va fuel table level := by
  intro fuel
  induction fuel with
  | zero => intro _ _ _; simp only [walkFrom]
  | succ fuel ih =>
    intro table level h
    have h0 := h (table + 8 * pteIndex va level) (by simp [walkAddrs])
    have hg := g64Ok_congr d m table (pteIndex va level) (BitVec.ofNat 64 (Memory.read d.mem (table + 8 * pteIndex va level) 8))
      (fun i hi => h _ (by simp only [walkAddrs, List.cons_append, List.mem_cons, List.mem_append, List.mem_map, List.mem_range]; exact .inr (.inl ⟨i, hi, rfl⟩)))
    simp only [walkFrom, h0]
    have hb : ({ d with mem := m } : Dev).badAt (table + 8 * pteIndex va level) 8 = d.badAt (table + 8 * pteIndex va level) 8 := rfl
    have ha : ({ d with mem := m } : Dev).entryAway die (table + 8 * pteIndex va level) = d.entryAway die (table + 8 * pteIndex va level) := rfl
    have hr : g64Bad { d with mem := m } table (pteIndex va level) = g64Bad d table (pteIndex va level) := rfl
    have he : entryCheck { d with mem := m } table (pteIndex va level) level (BitVec.ofNat 64 (Memory.read d.mem (table + 8 * pteIndex va level) 8))
        = entryCheck d table (pteIndex va level) level (BitVec.ofNat 64 (Memory.read d.mem (table + 8 * pteIndex va level) 8)) := by
      unfold entryCheck; rw [hg, hr]
    rw [hb, ha, he]
    split
    · rfl
    · rfl
    · split
      · rfl
      · next hn =>
        apply ih
        intro a ha
        apply h
        simp only [walkAddrs, List.mem_append]
        right
        have hl : pteL (BitVec.ofNat 64 (Memory.read d.mem (table + 8 * pteIndex va level) 8)) = false := by
          cases hc : pteL (BitVec.ofNat 64 (Memory.read d.mem (table + 8 * pteIndex va level) 8)) with
          | false => rfl
          | true =>
            simp only [entryCheck, hc] at hn
            split at hn
            · cases hn
            · split at hn
              · cases hn
              · split at hn
                · next hb =>
                  simp only [Bool.true_and, Bool.and_eq_true, Option.isSome_iff_exists] at hb
                  obtain ⟨-, pa, hpa⟩ := hb
                  rw [hpa] at hn
                  cases hn
                · split at hn
                  · cases hn
                  · split at hn
                    · cases hn
                    · cases hn
        rw [hl]
        exact ha

end Sys2Proof.Machine
end

