-- ==== Sys2Proof/Tests/Fixture.lean ====
section
/-!
SUPPORT. The small states of the tests: one group of one warp with two live lanes at 0x1_0000, in function 0, whose page table maps
the first GiB to itself.
-/
namespace Sys2Proof.Tests
open Machine

/-- A warp with lanes 0 and 1 live: v1 is 3, v2 holds 5 and 7, v5 holds 1.0 and 2.0, s1 to s3 hold small numbers. -/
def warp : Warp :=
  { Warp.entry 3 0x10000 0x20000 0 1 with
    v := [(1, .u 3), (2, .g [5, 7]), (5, .g [0x3F800000, 0x40000000])]
    s := [(0, 0x20000), (1, 0x3000), (2, 8), (3, 2)]
    p := [(1, 1)] }

/-- A group of some warps. -/
def groupOf (ws : List Warp) : Group := { fixtureGroup 1 1 with warps := ws }

/-- A device with that group, whose grid has a handler at `tvec`. -/
def devOf (ws : List Warp) (tvec : Addr) : Dev :=
  { Dev.init.loadWord 0 with groups := [groupOf ws], grids := [{ fixtureGrid 1 with tvec := tvec }], nextId := 5, cur := some ⟨1, 0, 3, 0x10000, 0, 0⟩ }

/-- A state with a device. -/
def stateOf (d : Dev) : State := { State.reset with dev := d }

/-- The state of most tests, and its issue. -/
def s0 : State := stateOf (devOf [warp] 0x18000)
def x0 : Ix := ⟨1, 0, groupOf [warp], warp, 3, 0x10000, 0, 0⟩

theorem ix0 : s0.dev.ix = some x0 := by decide

/-- The group of the tests has no compact registers. -/
theorem no_compact (us : Use) (ws : List Warp) : (groupOf ws).lr.isCompact us = false := by
  obtain ⟨o, n⟩ := us
  have h : fixtureRec.compact = false := by decide
  cases o <;> simp [groupOf, fixtureGroup, LaunchRec.isCompact, h]

/-- An issue is clear to run where its uses are allocated. -/
theorem clear_of {s : State} {x : Ix} {us : List Use} (h : s.dev.ix = some x) (f : x.arr = 0) (b : s.dev.badReg = []) (a : allocFault x.x.lr us [] = none) :
    Clear s x us := ⟨h, f, b, a⟩

/-- Whether a result is a given value, and what that says. -/
def okIs {ε α : Type} [DecidableEq α] (r : Except ε α) (a : α) : Bool :=
  match r with
  | .ok b => decide (b = a)
  | .error _ => false
theorem ok_eq {ε α : Type} [DecidableEq α] {r : Except ε α} {a : α} (h : okIs r a = true) : r = .ok a := by
  cases r with
  | error e => cases h
  | ok b => rw [of_decide_eq_true h]
theorem pair_eq {δ ε α : Type} [DecidableEq α] {r : δ × Except ε α} {a : α} (h : okIs r.2 a = true) : r = (r.1, .ok a) :=
  Prod.ext rfl (ok_eq h)

/-- Whether a result is one that passes a test, and what that says. -/
def okWith {ε α : Type} (r : Except ε α) (p : α → Bool) : Bool :=
  match r with
  | .ok b => p b
  | .error _ => false
theorem ok_with {δ ε α : Type} {r : δ × Except ε α} (p : α → Bool) (h : okWith r.2 p = true) : ∃ b, r = (r.1, .ok b) ∧ p b = true := by
  obtain ⟨d, r⟩ := r
  cases r with
  | error e => cases h
  | ok b => exact ⟨b, rfl, h⟩

/-- A well-formed instruction is clear to run in a state of the tests. -/
theorem ok_at {s : State} {x : Ix} {i : Instr} {us : List Use} (hi : s.dev.ix = some x) (hf : x.arr = 0) (hb : s.dev.badReg = [])
    (h : (i.wellFormed && (allocFault x.x.lr us []).isNone) = true) : i.wellFormed = true ∧ Clear s x us := by
  simp only [Bool.and_eq_true, Option.isNone_iff_eq_none] at h
  exact ⟨h.1, clear_of hi hf hb h.2⟩

/-- The same on the scalar side, with a lane that executes and waits for nothing. -/
theorem scalar_at {s : State} {x : Ix} {i : Instr} {o : OpW} {us : List Use} (hi : s.dev.ix = some x) (hf : x.arr = 0) (hb : s.dev.badReg = [])
    (h : (i.wellFormed && (allocFault x.x.lr us []).isNone) = true) (hw : x.w.wait = []) (hg : x.guard o ≠ 0) : ClearScalar s i x o us :=
  have k := ok_at hi hf hb h
  ⟨k.1, k.2, hg, fun L _ => by rw [hw]; rfl⟩

/-- An F-form word's fields, without a predicate. -/
def fw (d a b c : Opnd) (ty : Ty := .i32) (sub : BitVec 4 := 0) (imm : BitVec 13 := 0) : FWord :=
  { d := d, a := a, b := b, c := c, neg := false, pidx := 7, ty := ty, sub := sub, imm := imm }
/-- An L-form word's fields. -/
def lw (d a : Opnd) (ty : Ty := .i32) (sub : BitVec 3 := 0) (imm : BitVec 32 := 0x12345678) : LWord :=
  { d := d, a := a, ty := ty, sub := sub, imm := imm }

end Sys2Proof.Tests
end

