-- ==== Sys2Proof/Tests/Memory.lean ====
section
/-!
SUPPORT. Witnesses for the statements on memory instructions: each space, each instruction.
-/
namespace Sys2Proof.Tests
open Machine

/-- What an access meets, as a check. -/
def reachB (d : Dev) (x : Group) (space : Nat) (acc : Acc) (sum n a : Nat) : Bool :=
  sum % n == 0 &&
  match space with
  | 1 => a == sum && decide (sum < 2 ^ 21) && decide (sum < x.lr.window) && (x.absent sum n).isEmpty && (d.sramBad (scratchGran x.id) (acc != .st) sum n).isNone
  | 2 => a == sum && d.hiveOk x.vf sum && (d.sramBad hiveGran (acc != .st) sum n).isNone
  | _ => decide (sum < 2 ^ 56) && (match d.walk (atDie x.core) x.vf sum with
    | .leaf e l => (d.tlbFor x.core x.vf sum).all (· == .leaf e l) && a == d.cfg.norm (leafPa e l sum) && (d.permit x.vf acc e a).isNone
        && (d.unreached x.die (d.cfg.place a)).isNone && (d.badAt a n).isNone
    | _ => false)

theorem reach_of {d : Dev} {x : Group} {space : Nat} {acc : Acc} {sum n a : Nat} (h : reachB d x space acc sum n a = true) :
    Reaches1 d x space acc sum n a := by
  unfold reachB at h
  unfold Reaches1
  rw [Bool.and_eq_true, beq_iff_eq] at h
  refine ⟨h.1, ?_⟩
  have h2 := h.2
  split at h2
  · simpa [and_assoc] using h2
  · simpa [and_assoc] using h2
  · next h3 h4 =>
    split at h2
    · next e l hw =>
      simp only [Bool.and_eq_true, decide_eq_true_eq, beq_iff_eq, Option.isNone_iff_eq_none, and_assoc] at h2
      obtain ⟨q1, q2, q3, q4, q5, q6⟩ := h2
      have q : sum < 2 ^ 56 ∧ ∃ e l, d.walk (atDie x.core) x.vf sum = .leaf e l ∧ (d.tlbFor x.core x.vf sum).all (· == .leaf e l) = true
          ∧ a = d.cfg.norm (leafPa e l sum) ∧ d.permit x.vf acc e a = none ∧ d.unreached x.die (d.cfg.place a) = none
          ∧ d.badAt a n = none := ⟨q1, e, l, hw, q2, q3, q4, q5, q6⟩
      first
      | exact q
      | (split
         · exact absurd rfl h3
         · exact absurd rfl h4
         · exact q)
    · simp at h2

/-- Walks that read entries apart from the spans written are the same after the writes. -/
theorem apart_of (d : Dev) (die f : Nat) (sums : List Nat) (spans : List (Nat × Nat))
    (h : sums.all (fun v => (walkAddrs d v 5 (d.cfg.norm (bits (look Vf.init d.vfs f).pt.toNat 12 40 * 2 ^ 12)) 0).all (fun a =>
      spans.all (fun p => decide (a + 8 ≤ p.1) || decide (p.1 + p.2 ≤ a)))) = true) : TablesApart d die f sums spans := by
  intro m hm v hv
  refine walkFrom_congr d m die v 5 _ 0 (fun a ha => read_congr 8 a (fun k hk => hm _ (fun p hp => ?_)))
  simp only [List.all_eq_true, Bool.or_eq_true, decide_eq_true_eq] at h
  rcases h v hv a ha p hp with h | h <;> omega

/-- A part with 1 MiB of hive memory on cluster 0, which is in partition 0. -/
def dMem : Dev := { devOf [warp] 0x18000 with cfg := { Cfg.init with hive := [(0, 1)] }, parts := [(0, ⟨1, 0⟩)] }
def sMem : State := stateOf dMem
theorem ixMem : sMem.dev.ix = some x0 := by decide

/-- The address of a lane: its sum in every space of these states. -/
def addrOf (r : MemSem) (L : Nat) : Nat := r.sum x0 L

/-- Whether a memory instruction is ready in that state. -/
def memB (r : MemSem) : Bool :=
  (r.i.wellFormed && (allocFault x0.x.lr (r.dst ++ r.srcs) []).isNone) && x0.guard r.o == 3 && !r.dst.any x0.x.lr.isCompact
    && (lanesOf (x0.guard r.o)).all (fun L => (unitsOf 128 (addrOf r L) r.bytes).all (fun l => !x0.w.restsOn l 0))
    && (lanesOf (x0.guard r.o)).all (fun L => reachB sMem.dev x0.x r.space r.acc (r.sum x0 L) r.bytes (r.sum x0 L))
    && (r.space != 0 || !r.acc.writes || (((r.lanes x0).map (r.sum x0)).all (fun v =>
        (walkAddrs sMem.dev v 5 (sMem.dev.cfg.norm (bits (look Vf.init sMem.dev.vfs x0.x.vf).pt.toNat 12 40 * 2 ^ 12)) 0).all (fun a =>
          ((r.lanes x0).map (fun L => (addrOf r L, r.bytes))).all (fun p => decide (a + 8 ≤ p.1) || decide (p.1 + p.2 ≤ a))))))

theorem mem_of (r : MemSem) (h : memB r = true) : r.Ready sMem x0 (addrOf r) ∧ x0.guard r.o = 3 := by
  simp only [memB, Bool.and_eq_true] at h
  obtain ⟨⟨⟨⟨⟨⟨h1, h2⟩, h3⟩, h4⟩, hu⟩, h5⟩, h6⟩ := h
  have h3 : x0.guard r.o = 3 := eq_of_beq h3
  refine ⟨⟨h1, clear_of ixMem rfl rfl (by simpa using h2), by rw [h3]; decide, fun _ _ => rfl, by simpa using h4, fun L hL => ?_,
    fun _ L hL l hl => ?_, fun l hl => ?_, fun _ _ _ w hw => ?_, fun hs hw => ?_⟩, h3⟩
  · exact reach_of (List.all_eq_true.1 h5 L ((mem_lanesOf _ L).2 hL))
  · simpa using List.all_eq_true.1 (List.all_eq_true.1 hu L ((mem_lanesOf _ L).2 hL)) l hl
  · exact absurd hl (by simp [sMem, stateOf, dMem, devOf, Dev.loadWord, Dev.init])
  · exact absurd hw (by simp [sMem, stateOf, dMem, devOf, Dev.loadWord, Dev.init])
  · rw [hs, hw] at h6
    exact apart_of _ _ _ _ _ (by simpa using h6)

/-- Words with a scalar base and a vector index; of a scalar destination; and of the least and the greatest displacement. -/
def ldWords : List FWord :=
  [fw (.v 4) (.s 0) (.v 3) (.v 0) .i8 0 0xFFF, fw (.v 4) (.s 0) (.v 1) (.v 0) .n64 3, fw (.s 4) (.s 0) .zero (.v 0) .n32 0 0x1000]
theorem test_ld : ldWords.all (fun f => ((semsLoad f)[0]?.map memB).getD false) = true := by decide
theorem test_lsp : [fw (.v 4) (.s 1) (.v 2) (.v 0) .i16 1, fw (.v 4) (.s 1) (.v 2) (.v 0) .n64 3 0x1000].all (fun f => ((semsLoad f)[1]?.map memB).getD false) = true := by decide
theorem test_lhv : [fw (.v 4) (.s 1) (.v 2) (.v 0) .i8 0 0x1FFF].all (fun f => ((semsLoad f)[2]?.map memB).getD false) = true := by decide

/-- Stores of both lanes to different addresses, and to one address. -/
theorem test_st : [fw (.v 0) (.s 0) (.v 2) (.v 1) .n32 2, fw (.v 0) (.s 0) (.v 1) (.v 2) .n64 3 0x1000].all (fun f => ((semsStore f)[0]?.map memB).getD false) = true := by decide
theorem test_ssp : [fw (.v 0) (.s 1) (.v 2) (.v 1) .n16 1].all (fun f => ((semsStore f)[1]?.map memB).getD false) = true := by decide
theorem test_shv : [fw (.v 0) (.s 1) (.v 2) (.v 1) .n8 0].all (fun f => ((semsStore f)[2]?.map memB).getD false) = true := by decide

/-- Atomics of each space: imm13 has the space in bits 6 and 5 and the scale in bits 8 and 7. -/
theorem test_atomics : [(fw (.v 4) (.s 0) (.v 2) (.v 1) .n32 0 (0x100 + 0x12), 0), (fw (.v 4) (.s 1) (.v 1) (.v 2) .n64 1 (0x180 + 0x32), 0),
    (fw (.v 0) (.s 0) (.v 1) (.v 2) .n32 5 (0x100 + 0x12), 1), (fw (.v 0) (.s 1) (.v 2) (.v 8) .n64 0 (0x180 + 0x52), 1),
    (fw (.v 4) (.s 0) (.v 2) (.v 1) .n32 0 (0x100 + 0x12), 2)].all (fun p => ((semsAtomic p.1)[p.2]?.map memB).getD false) = true := by decide

/-! ### Lines and prefetches -/

/-- The last line of the window and its first. -/
def wPclr : FWord := fw (.v 0) (.s 1) (.v 2) (.v 0) .i32 0 0x1FFF
theorem test_pclr : (Instr.pclr wPclr).wellFormed = true ∧ Clear s0 x0 [(wPclr.a, 1), (wPclr.b, 1)] ∧ x0.guard (fop wPclr) = 3
    ∧ ∀ L, (x0.guard (fop wPclr)).getLsbD L = true → addressSum wPclr x0 L < 2 ^ 21 ∧ addressSum wPclr x0 L < x0.x.lr.window :=
  ⟨by decide, clear_of ix0 rfl rfl (by decide), by decide, fun L hL => by
    have : ((lanesOf (x0.guard (fop wPclr))).all (fun L => decide (addressSum wPclr x0 L < 2 ^ 21) && decide (addressSum wPclr x0 L < x0.x.lr.window))) = true := by decide
    simpa using List.all_eq_true.1 this L ((mem_lanesOf _ L).2 hL)⟩

def wPfch : FWord := fw (.v 0) (.s 0) (.v 2) (.v 0) .i32 0 0x1000
theorem test_pfch : (Instr.pfch wPfch).wellFormed = true ∧ Clear s0 x0 [(wPfch.a, 1), (wPfch.b, 1)] ∧ x0.guard (fop wPfch) = 3
    ∧ ∀ L, (x0.guard (fop wPfch)).getLsbD L = true → ∃ a, Reaches1 s0.dev x0.x 0 .pf (addressSum wPfch x0 L) 1 a :=
  ⟨by decide, clear_of ix0 rfl rfl (by decide), by decide, fun L hL => by
    have : ((lanesOf (x0.guard (fop wPfch))).all (fun L => reachB s0.dev x0.x 0 .pf (addressSum wPfch x0 L) 1 (addressSum wPfch x0 L))) = true := by decide
    exact ⟨_, reach_of (List.all_eq_true.1 this L ((mem_lanesOf _ L).2 hL))⟩⟩

end Sys2Proof.Tests
end

