-- ==== Sys2Proof/Tests/Board.lean ====
section
/-!
SUPPORT. Witnesses for the statements on the register window, the Bieno mailbox, power and drone cores.
-/
namespace Sys2Proof.Tests
open Machine

/-! ### The register window -/

/-- Queue 255, mailbox 1,023 and drone core 31 of die 3 belong to function 15; the core is stopped or runs. -/
def boxW (o : Bool) : Box := { Box.init with mvf := 15, isOpen := o, core := 31 }
def sWin (o : Bool) (state : Nat) : State :=
  stateOf { devOf [] 0 with queues := [(255, { Queue.init with ctl := 0x300000F })], boxes := [(4095, boxW o)], drones := [(127, { Drone.init with evf := 15, state := state })] }
theorem test_window : [false, true].all (fun o => [0, 1].all (fun st => let d := (sWin o st).dev
      15 == (d.box 3 1023).mvf && (d.box 3 1023).isOpen == o && 15 == (d.drone (32 * 3 + 31)).evf && (d.drone (32 * 3 + 31)).state == st
        && 15 == (d.queue 255).vf && d.power && !d.halted && decide (keysOf d.boxes).Nodup)) = true
    ∧ ((4 : BitVec 30).toNat % 8 ≠ 0) ∧ (sWin true 0).dev.mayReach 15 (regAt (0x8000 : BitVec 30).toNat) = false := by decide

/-! ### The Bieno mailbox -/

/-- Command `num` asked with tag 16 of a die, with two operand words. -/
def askedMg (die num a b : Nat) : Mgmt :=
  { Mgmt.init with asked := [(die, some 16)], pages := [(die, Memory.write (Memory.write (Memory.write [] 0 4 num) 64 4 a) 68 4 b)] }
def sAsk (die num a b : Nat) : State := { s0 with mg := askedMg die num a b }
theorem asked_of (die num a b tag : Nat) (h : (look none (askedMg die num a b).asked die == some tag
    && Memory.read (look [] (askedMg die num a b).pages die) 0 4 == num) = true) : Asked (sAsk die num a b) die num tag := by
  rw [Bool.and_eq_true, beq_iff_eq, beq_iff_eq] at h
  exact ⟨h.1, rfl, rfl, h.2⟩

/-- A hit of queue 0, with a warp in a loop to take it and without one. -/
def sHit (ws : List Warp) : State := stateOf { devOf ws 0x18000 with hits := [⟨0, 6, 0, 0, []⟩] }

theorem test_bieno :
    (∀ num ∈ [1, 2, 3, 4, 5, 6], Asked (sAsk 3 num 0 0) 3 num 16)
    ∧ Asked (sAsk 0 1 0 0) 0 1 16
    ∧ (Asked (sAsk 0 2 (slotBase 1) 4024) 0 2 16 ∧ slotBase 1 + 4024 ≤ slotBase 1 + 24 * 2 ^ 20)
    ∧ Asked (sAsk 0 3 1 0) 0 3 16
    ∧ Asked (sAsk 0 4 15 0) 0 4 16
    ∧ Asked (sAsk 0 5 15 0) 0 5 16 ∧ Asked (sAsk 0 6 27 0) 0 6 16
    ∧ Memory.read (look [] (askedMg 0 2 (slotBase 1) 4024).pages 0) 64 4 = slotBase 1 ∧ Memory.read (look [] (askedMg 0 2 (slotBase 1) 4024).pages 0) 68 4 = 4024 := by
  refine ⟨?_, asked_of _ _ _ _ _ (by decide), ⟨asked_of _ _ _ _ _ (by decide), by decide⟩, asked_of _ _ _ _ _ (by decide), asked_of _ _ _ _ _ (by decide),
    asked_of _ _ _ _ _ (by decide), asked_of _ _ _ _ _ (by decide), by decide, by decide⟩
  intro num h
  simp only [List.mem_cons, List.not_mem_nil, or_false] at h
  rcases h with h | h | h | h | h | h <;> subst h <;> exact asked_of _ _ _ _ _ (by decide)

/-- The fields of an arm command: watchpoint 15, 8 bytes of device memory at 0x100, and the last granule of hive memory, for queue 255. -/
def armPage (space a : Nat) : Memory :=
  Memory.write (Memory.write (Memory.write (Memory.write (Memory.write (Memory.write [] 0 4 4) 64 4 15) 68 4 space) 72 8 a) 80 4 8) 84 4 255
theorem test_arm : armFields (armPage 0 0x100) = some (15, ⟨false, 0x100, 8, 255⟩)
    ∧ armFields (armPage 1 (48 * 2 ^ 22 - 8)) = some (15, ⟨true, 48 * 2 ^ 22 - 8, 8, 255⟩)
    ∧ Memory.read (armPage 0 0x100) 0 4 = 4 := by decide

/-- Hits are taken by both lanes of a warp, or by none. -/
theorem test_hits : (sHit [warp]).dev.hits = [⟨0, 6, 0, 0, []⟩] ∧ (sHit [warp]).dev.hitTarget 0 = some (groupOf [warp], 0, 3)
    ∧ (sHit [warp]).dev.warp? 1 0 = some warp ∧ (sHit []).dev.hits = [⟨0, 6, 0, 0, []⟩] ∧ (sHit []).dev.hitTarget 0 = none := by decide

/-! ### Power -/

/-- Die 3's Bieno held; a layout prepared; a queue enabled; every other clause holds of it or of the state of the tests. -/
def sHeld : State :=
  { s0 with dev := { s0.dev with bienoHeld := [3], queues := [(255, { Queue.init with ctl := 0x13000000 })] }, mg := { Mgmt.init with prep := 1 } }
theorem test_power : sHeld.dev.bienoHeld.contains 3 = true ∧ sHeld.dev.bienoHeld.contains 0 = false ∧ sHeld.mg.prep = sHeld.mg.lgen + 1
    ∧ (keysOf sHeld.dev.queues).Nodup ∧ 255 / 64 = 3 ∧ (sHeld.dev.queue 255).en = true
    ∧ s0.dev.power = true ∧ s0.dev.halted = false ∧ s0.dev.bienoHeld.contains 0 = false ∧ s0.mg.hot.contains 3 = false
    ∧ (look Link.init s0.mg.links 27).down = false ∧ ¬ (look Link.init s0.mg.links 27).retries ≥ 2
    ∧ (look Link.init ([(27, { Link.init with retries := 2 })] : SMap Link) 27).retries = 2 := by decide

/-- A node that is reached through port 3 and has port 4 for an alternate, when a third permit mismatch takes port 3 down. -/
def sRoute : State :=
  { s0 with dev := { s0.dev with cfg := { Cfg.init with routes := [5], ports := [(5, (3, some 4))] } }, mg := { Mgmt.init with links := [(3, { Link.init with retries := 2 })] } }
theorem test_route : (look Link.init sRoute.mg.links 3).down = false ∧ (look Link.init sRoute.mg.links 3).retries + 1 = 3 ∧ sRoute.dev.cfg.routes.Nodup
    ∧ 5 ∈ sRoute.dev.cfg.routes ∧ look (0, none) sRoute.dev.cfg.ports 5 = (3, some 4) ∧ 5 ≠ sRoute.dev.cfg.node
    ∧ (look Link.init sRoute.mg.links 4).down = false := by decide

/-! ### Drone cores -/

/-- Core 31 of die 3 runs an episode at a window of 64 KiB of die 3's memory, with mailbox 1,023 bound to it. -/
def droneR : Drone := { Drone.init with base := 0xC000060000, size := 16, evf := 0, state := 1, run := true, sel := 1023, budget := 5 }
def sDrone (c : Drone) (b : Box) (now : Nat) : State :=
  stateOf { devOf [] 0 with now := now, drones := [(127, c)], boxes := [(4095, { b with mvf := 0, core := 31 })] }
/-- A mailbox open with a placed action, or open with nothing, or closed; and one whose observations are full. -/
def boxA : Box := { Box.init with isOpen := true, act := [⟨1, [5, 6], 0, true, []⟩] }
def boxE : Box := { Box.init with isOpen := true }
def boxF : Box := { Box.init with isOpen := true, obs := List.replicate 8 ⟨1, [5], 0, true, []⟩ }

set_option maxRecDepth 100000 in
theorem test_droneBoxes :
    [Box.init, boxA, boxE, boxF].all (fun b => (sDrone droneR b 0).dev.bound 127 1023 && (sDrone droneR b 0).dev.box 3 1023 == { b with core := 31 }) = true
    ∧ droneR.state = 1 ∧ droneR.wait = .none ∧ (∀ b, (sDrone droneR b 0).dev.past = [])
    ∧ (∃ d1 ps, (sDrone droneR boxA 0).dev.droneBytes 127 .st 0 2 = (d1, .ok ps) ∧ decide ps.Nodup = true)
    ∧ (∃ d1 ps, (sDrone droneR boxE 0).dev.droneBytes 127 .ld 0 256 = (d1, .ok ps)) := by
  refine ⟨by decide, rfl, rfl, fun _ => rfl, ?_, ?_⟩
  · obtain ⟨b, h, hb⟩ := ok_with (r := (sDrone droneR boxA 0).dev.droneBytes 127 .st 0 2) (fun ps => decide ps.Nodup) (by decide)
    exact ⟨_, b, h, hb⟩
  · obtain ⟨b, h, -⟩ := ok_with (r := (sDrone droneR boxE 0).dev.droneBytes 127 .ld 0 256) (fun _ => true) (by decide)
    exact ⟨_, b, h⟩

/-! ### Instructions of a drone core -/

/-- The same core with an instruction at its counter. -/
def sRv (w : Nat) : State := let s := sDrone droneR boxE 0; { s with dev := { s.dev with mem := Memory.write s.dev.mem 0xC000060000 4 w } }

/-- One word of each clause: the immediates of `addi` and its row, the register forms, `lui`, `auipc`, `jalr`, `ld` and `sd`. -/
def rvWords : List Nat :=
  [0, 2, 3, 4, 6, 7].map (fun f3 => 0xFFF10093 + f3 * 4096) ++ [0, 1, 4, 5, 6, 7].map (fun f3 => 0x003100B3 + f3 * 4096)
    ++ [0x403100B3, 0x023100B3, 0x800000B7, 0x80000097, 0xFFF100E7, 0x00813083, 0x00313423]

/-- A fetch once its first word is there. -/
def fetchRest (i a : Nat) (d : Dev) (w : Nat) : Dr (Option Nat × Nat × Nat) :=
  let lo := bits w (8 * (a % 4)) 16
  if lo % 4 ≠ 3 then (d, .ok (rvcExpand lo, 2, lo))
  else if a % 4 = 0 then (d.parcelOk i (a + 2)).andThen (fun d _ => (d, .ok (some w, 4, w)))
  else (d.droneWord i (a + 2)).andThen (fun d u => (d, .ok (some (lo + u % 2 ^ 16 * 2 ^ 16), 4, lo + u % 2 ^ 16 * 2 ^ 16)))

/-- Whether a fetch passes a test, from its home and from the core's cache, where one word alone has stood there. -/
def fetchB (d : Dev) (i a : Nat) (p : Dr (Option Nat × Nat × Nat) → Bool) : Bool :=
  match (d.parcelOk i a).2 with
  | .error _ => false
  | .ok pa =>
    let w := Memory.read d.mem (pa / 4 * 4) 4
    d.wordsSince (d.drone i).since (pa / 4 * 4) == [w] && p (fetchRest i a d.freeBit.1 w)
      && p (fetchRest i a ((d.freeBit.1.l2 (i / 32) (d.drone i).evf false).recall (pa / 128)) w)

theorem parcelOk_fst (d : Dev) (i a : Nat) : (d.parcelOk i a).1 = d := by
  unfold Dev.parcelOk
  split
  · rfl
  · split
    · rfl
    · split <;> rfl

theorem fetch_of {d : Dev} {i a : Nat} {p : Dr (Option Nat × Nat × Nat) → Bool} (h : fetchB d i a p = true) : p (d.droneFetch i a) = true := by
  unfold fetchB at h
  split at h
  · cases h
  · next pa e =>
    simp only [Bool.and_eq_true, beq_iff_eq] at h
    obtain ⟨⟨h1, h2⟩, h3⟩ := h
    show p ((d.droneWord i a).andThen (fetchRest i a)) = true
    unfold Dev.droneWord
    rw [show d.parcelOk i a = (d, .ok pa) from Prod.ext (parcelOk_fst d i a) e]
    show p (Dr.andThen (if d.freeBit.2 then _ else _) _) = true
    simp only [h1]
    split
    · exact h2
    · exact h3

theorem test_rv : rvWords.all (fun w => fetchB (sRv w).dev 127 0 (fun r => okWith r.2 (fun p => p.1 == some w && p.2.1 == 4))) = true
    ∧ fetchB (sRv 0).dev 127 0 (fun r => okWith r.2 (fun p => p.1 == none)) = true
    ∧ fetchB (sRv 0x00813083).dev 127 0 (fun r => okWith (r.1.droneLoad 127 .ld 8 8).2 (fun _ => true)) = true
    ∧ fetchB (sRv 0x00313423).dev 127 0 (fun r => okWith (r.1.droneStore 127 8 8 0).2 (fun _ => true)) = true
    ∧ droneR.state = 1 ∧ droneR.wait = .none ∧ droneR.pc = 0 :=
  ⟨by decide, by decide, by decide, by decide, rfl, rfl, rfl⟩

/-! ### The end of episodes -/

/-- An observation owed since 0 with a budget of 5, at 5 and at 4; the first offset outside the window, and the last inside it. -/
def droneO : Drone := { droneR with owes := some 0 }
theorem test_episodes : ((sDrone droneO boxE 5).dev.drone 127).owes = some 0 ∧ droneO.budget ≠ 0 ∧ 0 + droneO.budget ≤ (sDrone droneO boxE 5).dev.now
    ∧ (sDrone droneO boxE 4).dev.now < 0 + droneO.budget ∧ (sDrone droneR boxE 0).dev.windowPa 127 0x10000 1 = none
    ∧ (sDrone droneR boxE 0).dev.windowPa 127 0xFFFF 1 = some 0xC00006FFFF ∧ (sDrone droneR boxE 0).dev.badAt 0xC00006FFFF 1 = none
    ∧ (keysOf (sDrone droneR boxE 0).dev.boxes).Nodup := by decide

end Sys2Proof.Tests
end

