-- ==== Sys2Proof/Tests/Graphics.lean ====
section
/-!
SUPPORT. Witnesses for the statements on surfaces, culls, exports, intersections, fragments and pairs.
-/
namespace Sys2Proof.Tests
open Machine

theorem lanes_all {e : LaneSet} {p : Nat → Bool} (h : (lanesOf e).all p = true) (L : Nat) (hL : e.getLsbD L = true) : p L = true :=
  List.all_eq_true.1 h L ((mem_lanesOf _ L).2 hL)

/-! ### A bound key surface of one tile, staged -/

/-- A key surface of 16 × 16 pixels of one channel of 8 bits, whose table is at the P page of 0x4010_0000. -/
def slot0 : Slot := { d0 := 0x40100000, d1 := 0x11000F000F, d2 := 0x1000, depth := 0, hold := 0, qcur := 0, spent := 0, ncoded := 0 }
def stage0 : Stage := { slot := 7, tile := 0, samples := [], vecs := List.replicate 4 (0, 0), key := true, cells := [], qp := 0, order := 0, bad := false }
def surf0 : Surf := ⟨0, 0, 7, slot0⟩
/-- A descriptor of that surface stands at 0x6_0000, and slot 7 is bound. -/
def dSurf : Dev :=
  let d := devOf [warp] 0x18000
  { d with mem := Memory.write (Memory.write (Memory.write (Memory.write d.mem 0x2008 8 0x47) 0x60000 8 0x40100000) 0x60008 8 0x11000F000F) 0x60010 8 0x1000
           slots := [(7, some slot0)], stages := [stage0] }
def sSurf : State := stateOf dSurf
theorem ixSurf : sSurf.dev.ix = some x0 := by decide

/-- A word on pixels (5, 3) and (7, 3). -/
def wPix (d c : Opnd) (ty : Ty) (sub : BitVec 4) : FWord := fw d (.v 2) (.v 1) c ty sub 7

theorem staged (f : FWord) (ha : f.a = .v 2) (hb : f.b = .v 1) (hi : f.imm.toNat % 256 = 7) (hg : x0.guard (fop f) = 3) :
    Staged f sSurf x0 surf0 (fun _ => stage0) := by
  have hx : ∀ L, pixelX f x0 L = (x0.val (fop (wPix (.v 4) (.v 3) .i32 0)) .n32 (.v 2) L).toNat := fun L => by unfold pixelX; rw [ha]; rfl
  have hy : ∀ L, pixelY f x0 L = (x0.val (fop (wPix (.v 4) (.v 3) .i32 0)) .n32 (.v 1) L).toNat := fun L => by unfold pixelY; rw [hb]; rfl
  refine ⟨by rw [hi]; decide, fun L hL => ?_⟩
  rw [hg] at hL
  have key : (lanesOf 3).all (fun L =>
      let px := (x0.val (fop (wPix (.v 4) (.v 3) .i32 0)) .n32 (.v 2) L).toNat
      let py := (x0.val (fop (wPix (.v 4) (.v 3) .i32 0)) .n32 (.v 1) L).toNat
      decide (px < surf0.s.w) && decide (py < surf0.s.h) && decide (sSurf.dev.stage? surf0.key (surf0.s.tileAt px py) = some stage0) && !stage0.bad
        && !(sSurf.dev.homeStalled (homeKey surf0.key (surf0.s.tileAt px py)))) = true := by decide
  have k := lanes_all key L hL
  simp only [Bool.and_eq_true, decide_eq_true_eq, Bool.not_eq_true', and_assoc] at k
  rw [hx, hy]; exact k

theorem test_sld : let f := wPix (.v 4) (.v 0) .i32 0;
    (Instr.sld f).wellFormed = true ∧ Clear sSurf x0 [(f.d, 1), (f.a, 1), (f.b, 1)] ∧ x0.x.lr.isCompact (f.d, 1) = false
    ∧ Staged f sSurf x0 surf0 (fun _ => stage0) :=
  ⟨by decide, clear_of ixSurf rfl rfl (by decide), no_compact _ _, staged _ rfl rfl (by decide) (by decide)⟩

/-- Whether the operands of an `sst` are ones it takes. -/
def sstB (f : FWord) : Bool :=
  (Instr.sst f).wellFormed && (allocFault x0.x.lr [(f.a, 1), (f.b, 1), (f.c, 1)] []).isNone
    && (lanesOf (x0.guard (fop f))).all (fun L => !sstBad (f.ty.code.toNat % 4) (x0.val (fop f) .n32 f.c L).toNat)

/-- Pixel mode, motion vectors and keys. -/
theorem test_sst : ([(.i32, 1), (.n32, 0), (.i64, 0)] : List (Ty × BitVec 4)).all (fun p => sstB (wPix (.v 0) (.v 3) p.1 p.2)) = true
    ∧ (∀ p ∈ ([(.i32, 1), (.n32, 0), (.i64, 0)] : List (Ty × BitVec 4)), Staged (wPix (.v 0) (.v 3) p.1 p.2) sSurf x0 surf0 (fun _ => stage0))
    ∧ surf0.s.hold = 0 := by
  refine ⟨by decide, fun p hp => ?_, rfl⟩
  simp only [List.mem_cons, List.not_mem_nil, or_false] at hp
  rcases hp with h | h | h <;> subst h <;> exact staged _ rfl rfl (by decide) (by decide)

theorem test_sstc : let f := wPix (.v 0) (.v 3) .i32 0;
    (Instr.sstc f).wellFormed = true ∧ Clear sSurf x0 [(f.a, 1), (f.b, 1), (f.c, 1)] ∧ Staged f sSurf x0 surf0 (fun _ => stage0)
    ∧ surf0.s.hold = 0 ∧ surf0.s.isKey = true ∧ (lanesOf (x0.guard (fop f))).all (fun L => !sstcBad surf0.s (x0.val (fop f) .n32 f.c L).toNat) = true :=
  ⟨by decide, clear_of ixSurf rfl rfl (by decide), staged _ rfl rfl (by decide) (by decide), rfl, by decide, by decide⟩

/-- A scalar register with the descriptor's address, and one with 0. -/
def warpB : Warp := { warp with s := [(1, 0x60000), (3, 0x40000000)] }
def sBind : State := stateOf { dSurf with groups := [groupOf [warpB]] }
def xBind : Ix := ⟨1, 0, groupOf [warpB], warpB, 3, 0x10000, 0, 0⟩
theorem ixBind : sBind.dev.ix = some xBind := by decide

set_option maxRecDepth 100000 in
/-- Slot 7 is unbound, and slot 255 is bound to the descriptor's surface. -/
theorem test_sbind :
    (let f := fw (.v 0) (.s 2) (.v 0) (.v 0) .i32 0 7;
      ClearScalar sBind (.sbind f) xBind (fop f) [(f.a, 1)] ∧ scalarVal f f.a xBind = 0 ∧ sBind.dev.surf? 0 0 7 = some surf0 ∧ surf0.s.hold = 0)
    ∧ (let f := fw (.v 0) (.s 1) (.v 0) (.v 0) .i32 0 255;
      ClearScalar sBind (.sbind f) xBind (fop f) [(f.a, 1)] ∧ scalarVal f f.a xBind = 0x60000 ∧ sBind.dev.surf? 0 0 255 = none
      ∧ (xBind.guard (fop f) = 3 ∧ ∃ d1 t, sBind.dev.readDesc xBind 3 255 0x60000 = (d1, .ok t))) := by
  refine ⟨⟨scalar_at ixBind rfl rfl (by decide) rfl (by decide), by decide, by decide, rfl⟩,
    scalar_at ixBind rfl rfl (by decide) rfl (by decide), by decide, by decide, by decide, ?_⟩
  obtain ⟨b, h, -⟩ := ok_with (r := sBind.dev.readDesc xBind 3 255 0x60000) (fun _ => true) (by decide)
  exact ⟨_, b, h⟩

set_option maxRecDepth 100000 in
/-- A resolve of a rectangle of one tile, and of the whole surface. -/
theorem test_sres : [0, 1].all (fun sub => let f := fw (.v 0) (.s 3) (if sub = 0 then .s 2 else .v 0) (.v 0) .i32 (BitVec.ofNat 4 sub) 7;
    ((Instr.sres f).wellFormed && (allocFault xBind.x.lr ((f.a, 1) :: (if f.sub.toNat % 2 = 1 then [] else [(f.b, 1)])) []).isNone)
      && xBind.guard (fop f) == 3 && sresRect slot0 (f.sub.toNat % 2 == 1) (scalarVal f f.b xBind).toNat == some (0, 0, 0, 0)
      && (sBind.dev.tableGap surf0 (rectTiles slot0 0 0 0 0)).isNone) = true := by decide

/-! ### Rendering -/

/-- A draw on slot 7 with one packet. -/
def draw0 : Draw :=
  { id := 9, addr := 0x80000, desc := [0x1000000000007, 0, 0, 0, 0, 0, 0, 0, 0, 0, 0, 0x00002000000000, 0x10000000000], vf := 0, die := 0, queue := 0, grid := 1
    src := x0.origin 3, closed := [], counts := [], exports := [], reproj := [], rastered := [], shaded := [], frags := [], vecsSet := [], hzKnow := [], failed := false
    stall := none, started := 0, view := View.init }
def warpD : Warp := { warp with draw := some 9, drawd := 0x80000 }
/-- A group whose warp names the draw, with some scratchpad. -/
def groupD (m : Memory) : Group := { groupOf [warpD] with scratch := m }
def sDraw (m : Memory) : State := stateOf { dSurf with groups := [groupD m], draws := [draw0] }
def xDraw (m : Memory) : Ix := ⟨1, 0, groupD m, warpD, 3, 0x10000, 0, 0⟩
/-- Vertices of zeros, and ones that are not numbers. -/
def nans : Memory := Memory.write [] 0 4 0x7FC00000
theorem ixDraw : (sDraw []).dev.ix = some (xDraw []) ∧ (sDraw nans).dev.ix = some (xDraw nans) := by decide

/-- The triangle of both lanes is vertex 0 three times. -/
def wTri (d : Opnd) (c : Opnd := .v 0) : FWord := fw d (.s 4) (.v 3) c
/-- The vertices of every lane there. -/
def vsOf (m : Memory) : Nat → List Vert := fun _ => (List.range 3).map (fun _ => vertOf (Memory.read m 0 16))
theorem triangles (m : Memory) (f : FWord) (ha : f.a = .s 4) (hb : f.b = .v 3) : Triangles f (sDraw m) (xDraw m) draw0 (vsOf m) := by
  have e : ∀ L, ((xDraw m).val (fop f) .n32 f.b L).setWidth 32 = (0 : Word) := fun L => by rw [hb]; rfl
  have hv : ∀ L k, k < 3 → vertAt f (xDraw m) L k = 0 := fun L k hk => by
    unfold vertAt
    rw [e, show (scalarVal f f.a (xDraw m)).toNat = 0 by rw [ha]; rfl]
    match k, hk with
    | 0, _ => rfl
    | 1, _ => rfl
    | 2, _ => rfl
  refine ⟨(by decide : (some 9).bind (sDraw []).dev.draw? = some draw0), by rw [ha]; rfl, fun L _ => by rw [e]; decide, fun L k _ hk => ?_, fun L _ => ?_⟩
  · rw [hv L k hk]
    exact ⟨by decide, by show 0 < (xDraw []).x.lr.window; decide, rfl, by show (sDraw []).dev.sramBad (scratchGran 1) true 0 16 = none; decide,
      fun w hw => absurd hw (by simp [sDraw, stateOf, dSurf, devOf, Dev.loadWord, Dev.init])⟩
  · exact List.map_congr_left (fun k hk => by rw [hv L k (List.mem_range.1 hk)]; rfl)

theorem clear_draw {us : List Use} (m : Memory) (h : (sDraw m).dev.ix = some (xDraw m)) (a : allocFault (xDraw []).x.lr us [] = none) :
    Clear (sDraw m) (xDraw m) us := clear_of h rfl rfl a

theorem test_culls : Clear (sDraw []) (xDraw []) [(.p 2, 1), (.s 4, 1), (.v 3, 1)] ∧ Clear (sDraw nans) (xDraw nans) [(.p 2, 1), (.s 4, 1), (.v 3, 1)]
    ∧ (Triangles (wTri (.p 2)) (sDraw []) (xDraw []) draw0 (vsOf []) ∧ ∀ L, (vsOf [] L).all Vert.front = false)
    ∧ (Triangles (wTri (.p 2)) (sDraw nans) (xDraw nans) draw0 (vsOf nans) ∧ ∀ L, (vsOf nans L).any Vert.nan = true)
    ∧ ([.cullbf (wTri (.p 2)), .cullfr (wTri (.p 2)), .cullsm (wTri (.p 2)), .cullhz (wTri (.p 2))] : List Instr).all Instr.wellFormed = true
    ∧ (xDraw []).guard (fop (wTri (.p 2))) = 3 :=
  ⟨clear_draw [] ixDraw.1 (by decide), clear_draw nans ixDraw.2 (by decide), ⟨triangles [] _ rfl rfl, fun _ => (by decide : (vsOf [] 0).all Vert.front = false)⟩,
    ⟨triangles nans _ rfl rfl, fun _ => (by decide : (vsOf nans 0).any Vert.nan = true)⟩, by decide, by decide⟩

theorem test_pexp : (let f := wTri (.v 0);
      (Instr.pexp f).wellFormed = true ∧ f.sub.toNat % 2 = 0 ∧ Clear (sDraw []) (xDraw []) [(f.a, 1), (f.b, 1), (f.c, 1)]
      ∧ Triangles f (sDraw []) (xDraw []) draw0 (vsOf []) ∧ draw0.lowestOpen = some ((xDraw []).x.gid * (xDraw []).x.lr.nwarps + (xDraw []).wi))
    ∧ (let f := fw (.v 0) (.v 0) (.v 0) (.v 0) .i32 1;
      (Instr.pexp f).wellFormed = true ∧ f.sub.toNat % 2 = 1 ∧ Clear (sDraw []) (xDraw []) [] ∧ (xDraw []).guard (fop f) ≠ 0
      ∧ (xDraw []).w.draw.bind (sDraw []).dev.draw? = some draw0) :=
  ⟨⟨by decide, by decide, clear_draw [] ixDraw.1 (by decide), triangles [] _ rfl rfl, by decide⟩,
    by decide, by decide, clear_draw [] ixDraw.1 (by decide), by decide, rfl⟩

/-- A write of `drawd` with a descriptor at 0x8_0000: slot 7, one packet, cluster 8 of partition 0. -/
def warpW : Warp := { warp with s := [(3, 0x80000)] }
def sDrawd : State :=
  stateOf { dSurf with
    groups := [groupOf [warpW]], parts := [(0, ⟨0x100, 0⟩)]
    mem := Memory.write (Memory.write (Memory.write (dSurf.mem) 0x80000 8 0x1000000000007) 0x80058 8 0x2000000000) 0x80060 8 0x10000000000 }
def xDrawd : Ix := ⟨1, 0, groupOf [warpW], warpW, 3, 0x10000, 0, 0⟩
theorem ixDrawd : sDrawd.dev.ix = some xDrawd := by decide
def wDrawd : FWord := fw (.v 0) (.s 3) (.v 0) (.v 0) .i32 2
set_option maxRecDepth 100000 in
theorem test_drawd : wDrawd.csr = 0x02 ∧ (csrWrites wDrawd).all (fun r => r.1.wellFormed) = true ∧ Clear sDrawd xDrawd [useAt (csrTy wDrawd.csr) wDrawd.a]
    ∧ Idle xDrawd (xDrawd.guard (fop wDrawd)) ∧ xDrawd.val (fop wDrawd) .n64 wDrawd.a 0 = 0x80000
    ∧ Reaches1 sDrawd.dev xDrawd.x 0 (.ld false) 0x80000 128 0x80000 ∧ UpToDate sDrawd.dev xDrawd 0x80000 128
    ∧ sDrawd.dev.drawRefuse xDrawd ((List.range 16).map (fun j => (BitVec.ofNat 64 (Memory.read sDrawd.dev.mem 0x80000 128 / 2 ^ (64 * j)) : DWord))) = none :=
  ⟨by decide, by decide, clear_of ixDrawd rfl rfl (by decide), ⟨by decide, fun _ _ => rfl⟩, by decide, reach_of (by decide),
    fun w hw => absurd hw (by simp [sDrawd, stateOf, dSurf, devOf, Dev.loadWord, Dev.init]), by decide⟩

/-- A warp with the addresses of a box node and of a triangle node in v6 and v24, which the memory holds. -/
def warpR : Warp := { warp with v := [(6, .u 0x60000), (24, .u 0x60040)] }
def dRay : Dev :=
  let d := devOf [warpR] 0
  { d with mem := Memory.write (Memory.write d.mem 0x60000 2 0x0101) 0x60040 1 1 }
def sRay : State := stateOf dRay
def xRay : Ix := ⟨1, 0, groupOf [warpR], warpR, 3, 0x10000, 0, 0⟩
theorem ixRay : sRay.dev.ix = some xRay := by decide

set_option maxRecDepth 100000 in
theorem test_rays : (let f := fw (.v 30) (.v 10) (.v 6) (.v 0);
      (Instr.isectb f).wellFormed = true ∧ Clear sRay xRay [(f.d, 2), (f.a, 9), useAt .n64 f.b] ∧ xRay.x.lr.isCompact (f.d, 2) = false
      ∧ (raysInTurn Dev.boxLane xRay (fop f) (lanesOf (xRay.guard (fop f))) sRay.dev []).isSome = true)
    ∧ (let f := fw (.v 30) (.v 10) (.v 24) (.v 0);
      (Instr.isectt f).wellFormed = true ∧ Clear sRay xRay [(f.d, 3), (f.a, 9), useAt .n64 f.b] ∧ xRay.x.lr.isCompact (f.d, 3) = false
      ∧ (raysInTurn Dev.triLane xRay (fop f) (lanesOf (xRay.guard (fop f))) sRay.dev []).isSome = true) :=
  ⟨⟨by decide, clear_of ixRay rfl rfl (by decide), no_compact _ _, by decide⟩,
    by decide, clear_of ixRay rfl rfl (by decide), no_compact _ _, by decide⟩

/-- A group of a raster unit. -/
def groupP : Group := { groupOf [warp] with pixel := some (9, 0) }
def sPix : State := stateOf { devOf [warp] 0 with groups := [groupP] }
def xPix : Ix := ⟨1, 0, groupP, warp, 3, 0x10000, 0, 0⟩
theorem ixPix : sPix.dev.ix = some xPix := by decide
theorem test_fragments : let f := fw (.v 0) (.v 5) (.v 0) (.v 0);
    ((Instr.pix f).wellFormed = true ∧ (Instr.fdep f).wellFormed = true ∧ Clear sPix xPix [(f.a, 1)])
    ∧ (Instr.fdisc (fw (.v 0) (.v 0) (.v 0) (.v 0))).wellFormed = true ∧ Clear sPix xPix [] ∧ xPix.x.pixel.isSome = true
    ∧ xPix.x.lr.nodisc = false ∧ xPix.x.lr.nodepth = false :=
  ⟨⟨by decide, by decide, clear_of ixPix rfl rfl (by decide)⟩, by decide, clear_of ixPix rfl rfl (by decide), rfl, by decide, by decide⟩

/-! ### Pairs -/

/-- A pair of a sum with a register and a sum with the least byte; and one with `hnop`. -/
def half1 : Half := { op := .addI32, d := 4, s := .reg 2 }
def half2 : Half := { op := .addI32, d := 6, s := .imm 0x80 }
def half0 : Half := { op := .hnop, d := 0, s := .reg 0 }
theorem test_pair : ∀ p ∈ [(half1, half2), (half2, half0)], (Instr.pFormPair p.1 p.2).wellFormed = true
    ∧ Clear s0 x0 (halfDst p.1 ++ halfDst p.2 ++ (halfUses p.1 ++ halfUses p.2))
    ∧ ∀ h ∈ [p.1, p.2], (halfDst h).any x0.x.lr.isCompact = false := by
  intro p hp
  simp only [List.mem_cons, List.not_mem_nil, or_false] at hp
  have hc : ∀ l : List Use, l.any x0.x.lr.isCompact = false := fun l => List.any_eq_false.2 (fun u _ => by rw [show x0.x.lr.isCompact u = false from no_compact _ _]; exact nofun)
  rcases hp with h | h <;> subst h <;> exact ⟨by decide, clear_of ix0 rfl rfl (by decide), fun _ _ => hc _⟩

end Sys2Proof.Tests
end

