-- ==== Sys2Proof/Tests/Threads.lean ====
section
/-!
SUPPORT. Witnesses for the statements on engine threads: copies, cards, collectives, the collector, matrix operations, drains, resolves and
deliveries.
-/
namespace Sys2Proof.Tests
open Machine

/-- An operation of the tests' warp. -/
def opOf (k : OpKind) (done : Nat := 0) : Op := { id := 7, src := x0.origin 3, done := done, kind := k, stall := none, started := 0, view := View.init }
/-- A device with that operation. -/
def sOp (o : Op) (m : Memory → Memory := id) : State := let d := devOf [warp] 0; stateOf { d with ops := [o], mem := m d.mem }
theorem going_of (k : OpKind) (done : Nat) (m : Memory → Memory) : Going (sOp (opOf k done) m) 7 k (opOf k done) := ⟨rfl, rfl, rfl⟩

/-- Whether a result is an error that passes a test, and what that says. -/
def errWith {ε α : Type} (r : Except ε α) (p : ε → Bool) : Bool :=
  match r with
  | .ok _ => false
  | .error e => p e

/-! ### Copies -/

/-- A copy of 16 bytes to the end of a page and the start of the next, and one to an address without a translation. -/
def recCopy (dst : DWord) : List DWord := [0x20000, dst, 0x1000010, 0xC6000000, 0, 0]
def pieceOk (dst : DWord) (landed : Nat) (p : Except EFault Unit → Bool) : Bool :=
  let o := opOf (.copy (recCopy dst) 0 0 0 0 landed)
  match (cpOf (recCopy dst)).frames[landed]? with
  | some f => p ((sOp o).dev.landPiece o ⟨cpOf (recCopy dst), 0, 0, 0, 0, landed⟩ f (decide (landed + 1 = (cpOf (recCopy dst)).frames.length))).2
  | none => false
set_option maxRecDepth 100000 in
theorem test_pieces : pieceOk 0x30FF8 0 (fun r => okWith r (fun _ => true)) = true ∧ pieceOk 0x30FF8 1 (fun r => okWith r (fun _ => true)) = true
    ∧ (cpOf (recCopy 0x30FF8)).frames.length = 2 ∧ pieceOk 0x80000000 0 (fun r => errWith r (fun e => (engineStop e).1)) = true := by decide

/-- A stall at an address that translates now, and at one that does not. -/
def opStalled (va : Nat) : Op := { opOf (.copy (recCopy 0x30000) 0 0 0 0 0) with stall := some (0x0E5, 0x060, va) }
def isLeaf (w : Walk) : Bool := match w with
  | .leaf .. => true
  | _ => false
theorem test_stalls : (sOp (opStalled 0x60000)).dev.op? 7 = some (opStalled 0x60000) ∧ (sOp (opStalled 0x60000)).dev.serviceUp 0 = true
    ∧ (sOp (opStalled 0x60000)).dev.unwritten 7 = false
    ∧ isLeaf ((sOp (opStalled 0x60000)).dev.walk 0 0 0x60000) = true ∧ isLeaf ((sOp (opStalled 0x80000000)).dev.walk 0 0 0x80000000) = false := by decide

/-! ### The collector -/

/-- A comb store of two segments at 64 MiB: segment 0 is sealed, and holds a dead record or one that the entry at 0x5_0000 names. -/
def sComb (live : Bool) : State :=
  let d := devOf [] 0
  stateOf { d with
    cfg := { Cfg.init with combBase := [(0, 0x4000000)], combSize := [(0, 0x200000)] }
    mem := if live then Memory.write d.mem 0x50000 8 (entry 2 1) else d.mem
    segs := [(0, ⟨none, true, 8, [(2, 1, 0x50000, 0)]⟩)] }
set_option maxRecDepth 100000 in
theorem test_collector : (sOp (opOf (.copy [] 0 0 0 0 0))).dev.victim 0 = none
    ∧ ((sComb false).dev.victim 0 = some 0 ∧ (sComb false).dev.liveRecs ((sComb false).dev.seg 0 0) = [])
    ∧ ((sComb true).dev.victim 0 = some 0 ∧ (sComb true).dev.liveRecs ((sComb true).dev.seg 0 0) = [(2, 1, 0x50000, 0)])
    ∧ ((sComb true).dev.append 0 (collectorId 0) (collectorWho 0) 0x50000 0 (Memory.readBytes (sComb true).dev.mem ((sComb true).dev.combBase 0 + 64) 32)).2.isSome = true := by
  decide

/-- A thread that waits for a segment, where the collector frees one. -/
def opFull : Op := { opOf (.copy (recCopy 0x30000) 0 0 0 0 0) with stall := some (0x0EC, 0, 0) }
def sFull : State := { sComb false with dev := { (sComb false).dev with ops := [opFull] } }
set_option maxRecDepth 100000 in
theorem test_segment : sFull.dev.op? 7 = some opFull ∧ sFull.dev.serviceUp 0 = true ∧ sFull.dev.unwritten 7 = false ∧ sFull.dev.pieceDie opFull = 0
    ∧ ((sFull.dev.collectAll 0 (sFull.dev.collectFuel 0)).freeSeg 0).isSome = true := by decide

/-! ### Job cards -/

/-- A stream of one literal token of memory's zeros at 0x2_0000 produces a byte at 0x3_0000; its length and its completion are noted. -/
def recCard (slen : DWord) : List DWord := [0x20000, slen, 0x30000, 0x100, 0x70000, 0x60000, 0, 0, 0x61000]
def opCard (slen : DWord) : Op := opOf (.card (recCard slen) 0) 0x70000
def sCard : State := sOp (opCard 2)
def cardRun : Dev × List Tok × StreamEnd × Option EFault := sCard.dev.cardOut (opCard 2).src (cardOf (recCard 2))
set_option maxRecDepth 100000 in
theorem test_cards : (cardOf (recCard 0)).bad = true ∧ (cardOf (recCard 2)).bad = false
    ∧ tokBytes cardRun.2.1 = [0] ∧ cardRun.2.2.1 = .ok
    ∧ okWith (cardRun.1.cardWrite (opCard 2).src (cardOf (recCard 2)) 0 [0]).2 (fun _ => true) = true
    ∧ (let d1 := (cardRun.1.cardWrite (opCard 2).src (cardOf (recCard 2)) 0 [0]).1;
       okWith (d1.ewrite (opCard 2).src 2 0x60000 (toBytes 8 1)).2 (fun _ => true) = true
       ∧ (let d2 := (d1.ewrite (opCard 2).src 2 0x60000 (toBytes 8 1)).1;
          okWith (((d2.ecount (opCard 2).src 0 [(0x20000, 2)]).ecount (opCard 2).src 0 [(0x30000, 1)]).arrival (opCard 2).src 2 0x70000 1 false).2 (fun _ => true) = true)) := by
  decide

/-! ### Collectives -/

/-- Ranks of a group at 0x5_0000: one on this die, or a second on die 1, which is reached or not. -/
def recColl : List DWord := [0x20000, 0x30000, 4, 0, 0x50000]
def opColl (got : Option (List Byte)) : Op := opOf (.coll recColl 0 0 .n32 got)
def sColl (n : Nat) (down : List Nat) (now : Nat := 0) : State :=
  let s := sOp (opColl none) (fun m => Memory.write (Memory.write m 0x50000 4 n) 0x50010 8 0x100)
  { s with dev := { s.dev with downDie := down, now := now } }
def sGot : State := sOp (opColl (some (List.replicate 16 1)))
set_option maxRecDepth 100000 in
theorem test_colls : okWith ((sColl 1 []).dev.collMeet (opColl none) recColl 0 0 .n32).2 (· == true) = true
    ∧ okWith ((sColl 2 []).dev.collMeet (opColl none) recColl 0 0 .n32).2 (· == false) = true
    ∧ ((((sColl 1 []).dev.collMeet (opColl none) recColl 0 0 .n32).1.op? 7).map (·.kind) = some (.coll recColl 0 0 .n32 (some (List.replicate 16 0))))
    ∧ okWith (((sColl 1 []).dev.collMeet (opColl none) recColl 0 0 .n32).1.collWrite (opColl (some (List.replicate 16 0))) recColl 16 (List.replicate 16 0)).2 (fun _ => true) = true
    ∧ okWith ((sColl 2 [0]).dev.descr (opColl none).src 0x50000).2 (fun x => x.ranks[1]? == some (0, 1)) = true
    ∧ (sColl 2 [0]).dev.reaches 0 (0, 1) = false ∧ (sColl 2 []).dev.reaches 0 (0, 1) = true
    ∧ (opColl none).started + 1700000 ≤ (sColl 2 [0] 1700000).dev.now ∧ (sColl 2 [0] 1700000).dev.reaches 0 (0, 1) = false
    ∧ okWith (sGot.dev.collWrite (opColl (some (List.replicate 16 1))) recColl 16 (List.replicate 16 1)).2 (fun _ => true) = true := by decide

/-! ### Matrix operations and drains -/

/-- A matrix operation on scratchpad of zeros, with and without a follower, and one whose records lie outside the window. -/
def recMm (off : DWord) : List DWord := [off, 0, 1, 0, 0x0202]
def opMac (off : DWord) (f : Option (Nat × Nat)) (ran : Nat) : Op := opOf (.mmac (recMm off) 2 2 true 3 f ran 0)
def sMac (off : DWord) (f : Option (Nat × Nat)) (ran : Nat) : State :=
  let d := devOf [warp] 0
  stateOf { d with groups := [groupOf [warp], { groupOf [warp] with id := 2, row := 1 }], ops := [opMac off f ran] }
set_option maxRecDepth 1000000 in
/-- At its last cycle and before it, alone and with a follower; and at the K-group that fails, and before it. -/
theorem test_mmacRuns : mmCycles 2 2 1 = 34 ∧ ((sMac 0 none 34).dev.mmFault (opMac 0 none 34)).isNone = true
    ∧ (sMac 0 none 34).dev.op? 7 = some (opMac 0 none 34) ∧ ((sMac 0 (some (2, 0)) 34).dev.group? 1).isSome = true ∧ ((sMac 0 (some (2, 0)) 34).dev.group? 2).isSome = true
    ∧ 33 < mmCycles 2 2 1
    ∧ ((sMac 0x1FFFC0 none 32).dev.mmFault (opMac 0x1FFFC0 none 32)).isSome = true ∧ (sMac 0x1FFFC0 none 32).dev.mmLimit (opMac 0x1FFFC0 none 32) ≤ 32
    ∧ ((sMac 0x1FFFC0 none 31).dev.mmFault (opMac 0x1FFFC0 none 31)).isSome = true ∧ 31 < (sMac 0x1FFFC0 none 31).dev.mmLimit (opMac 0x1FFFC0 none 31) := by decide

/-- A drain of an empty tile. -/
def recDrain (dst : DWord) : List DWord := [dst, 0x100, 0]
def opDrain (kind : Nat) (dst : DWord) (v : Option Tile) : Op := opOf (.drain (if kind = 0 then [dst, 0, 0] else recDrain dst) kind 3 (if kind = 0 then 4 else 8) 0 0 0 0 0 v)
def sDrain (kind : Nat) (dst : DWord) (v : Option Tile) : State := sOp (opDrain kind dst v)
set_option maxRecDepth 1000000 in
/-- Before the read of the tile; and a sum into hive memory. -/
theorem test_drainRuns : (sDrain 1 0 none).dev.badTile.contains (1, 3) = false ∧ (opDrain 1 0 none).stall = none ∧ (opDrain 3 0 (some [])).stall = none
    ∧ okWith (({ dMem with ops := [opDrain 3 0 (some [])] } : Dev).drainOut (opDrain 3 0 (some [])) (drainOf (recDrain 0)) 3
        (drainBytes (drainOf (recDrain 0)) (Ty.ofCode (BitVec.ofNat 4 8)) 0 0 0 0 []) []).2 (fun _ => true) = true := by decide +kernel

set_option maxRecDepth 1000000 in
/-- The peer is the group itself, whose tile 4 is free. -/
theorem test_peer : (sDrain 0 0 (some [])).dev.peerGroup (opDrain 0 0 (some [])).src 0 0 = some (groupOf [warp])
    ∧ (sDrain 0 0 (some [])).dev.group? 1 = some (groupOf [warp]) ∧ 4 < (groupOf [warp]).lr.acc ∧ (groupOf [warp]).held 4 = false
    ∧ (sDrain 0 0 (some [])).dev.badTile.contains (1, 4) = false
    ∧ ∀ d : Dev, d.arrival (opDrain 0 0 (some [])).src 2 (opDrain 0 0 (some [])).done 1 false = (d, .ok ()) :=
  ⟨by decide, by decide, by decide, by decide, by decide, fun _ => rfl⟩

/-! ### Resolves and deliveries -/

/-- A resolve of the surface's one tile, at it and past it. -/
def opRes (next : Nat) : Op := opOf (.resolve 7 0 0 0 0 next)
def sRes (next : Nat) : State := stateOf { dSurf with ops := [opRes next] }
set_option maxRecDepth 1000000 in
theorem test_resolve : (sRes 0).dev.surf? 0 0 7 = some surf0 ∧ (rectTiles slot0 0 0 0 0)[0]? = some 0 ∧ (rectTiles slot0 0 0 0 0)[1]? = none ∧ slot0.hold = 0
    ∧ (({ (sRes 0).dev with stages := [] } : Dev).resolveTile (opRes 0).src surf0 0).2.isNone = true
    ∧ okWith ((sRes 1).dev.arrival (opRes 1).src 2 (opRes 1).done 1 false).2 (fun _ => true) = true := by decide

theorem test_deliver : (sOp (opOf (.deliver 3 1023 9))).dev.op? 7 = some (opOf (.deliver 3 1023 9)) := by decide

end Sys2Proof.Tests
end

