-- ==== Sys2Proof/Tests/Draws.lean ====
section
/-!
SUPPORT. Witnesses for the statements on draws, on a surface of one pixel.
-/
namespace Sys2Proof.Tests
open Machine

/-- A key surface of one pixel, staged. -/
def slot1 : Slot := { slot0 with d1 := 0x1100000000 }
def surf1 : Surf := ⟨0, 0, 7, slot1⟩
/-- A draw on it with its buffers at 0x2_0000; the flags of its first dword, its closed packets, exports and fragments vary. -/
def drawOf (flags : Nat) (closed : List Nat) (es : List Export) (fs : List Pending) : Draw :=
  { draw0 with
    desc := BitVec.ofNat 64 (0x1000000000007 + flags) :: (List.replicate 8 0x20000) ++ [0, 0, 0x00002000000000, 0x10000000000]
    closed := closed, exports := es, frags := put [] [] 0 fs }
def sOf (r : Draw) : State := stateOf { dSurf with groups := [], parts := [(0, ⟨0x100, 0⟩)], slots := [(7, some slot1)], draws := [r], queues := [(0, { Queue.init with ctl := 0x13000000 })] }
theorem drawing (flags : Nat) (closed : List Nat) (es : List Export) (fs : List Pending) (h : (drawOf flags closed es fs).slot = 7) :
    Drawing (sOf (drawOf flags closed es fs)) 9 (drawOf flags closed es fs) surf1 := by
  refine ⟨rfl, rfl, rfl, rfl, ?_⟩
  show (sOf (drawOf flags closed es fs)).dev.surf? 0 0 (drawOf flags closed es fs).slot = some surf1
  rw [h]; rfl

/-- An export of packet 0 that covers no pixel, and an ended fragment. -/
def export0 : Export := ⟨0, 0, 5, List.replicate 3 ⟨0, 0, 0, 0⟩, [], [0], []⟩
def frag0 (ended : Option (Option Word × Word)) : Pending := ⟨0, 0, 0, 0, 5, 0, 0, ended.isSome, ended, []⟩

set_option maxRecDepth 1000000 in
/-- With bit 9 of the first dword the tile is reprojected. -/
theorem test_reproject : let r := drawOf 0x200 [0] [] [];
    r.slot = 7 ∧ 0 < screenTiles slot1 ∧ r.rp = true ∧ r.reproj.contains 0 = false ∧ (sOf r).dev.earlierApplied r 0 = true
    ∧ okWith ((sOf r).dev.reprojTile r slot1 0).2 (fun _ => true) = true := by decide +kernel

set_option maxRecDepth 1000000 in
theorem test_rasterise : let r := drawOf 0 [] [export0] [];
    r.slot = 7 ∧ r.rp = false ∧ (sOf r).dev.earlierApplied r 0 = true ∧ r.nextExport 0 = some export0
    ∧ okWith ((sOf r).dev.rasterExport r slot1 0 export0).2 (fun _ => true) = true := by decide +kernel

set_option maxRecDepth 1000000 in
/-- In blend mode a fragment waits for a group; then an ended one is applied; then all has been. -/
theorem test_fragmentsOf :
    (let r := drawOf 0x100 [] [] [frag0 none];
      r.slot = 7 ∧ (r.kernel 0).tooBig = false ∧ waiting32 r 0 ≠ [] ∧ ((sOf r).dev.queue 0).preq = false ∧ r.cluster slot1 0 = 8
      ∧ (sOf r).dev.open? 0 8 = true ∧ (sOf r).dev.pickClass 0 = some ((sOf r).dev.queue 0).cls ∧ ((sOf r).dev.rasterRow 0 8 { r.kernel 8 with d2 := BitVec.ofNat 64 ((r.kernel 8).d2.toNat / 2 ^ 43 * 2 ^ 43 + 2 ^ 32 + 1) }).isSome = true
      ∧ blendable (look [] r.frags 0) = none)
    ∧ (let r := drawOf 0x100 [] [] [frag0 (some (some 7, 0))];
      blendable (look [] r.frags 0) = some (frag0 (some (some 7, 0)))
      ∧ okWith ((sOf r).dev.applyFragment (r.at_ slot1 0) r surf1 (frag0 (some (some 7, 0)))).2 (fun _ => true) = true)
    ∧ (let r := drawOf 0x100 [0] [] [];
      screenTiles slot1 = 1 ∧ r.appliedAt 0 = true ∧ r.done = 0)
    ∧ (drawOf 0x100 [] [] []).appliedAt 0 = false := by decide +kernel

end Sys2Proof.Tests
end

