-- ==== Sys2Proof/Tests/Engines.lean ====
section
/-!
SUPPORT. Witnesses for the statements on semaphores, launches, engine threads, completion objects and tiles.
-/
namespace Sys2Proof.Tests
open Machine

/-- A warp whose scalar registers hold records: a copy of 16 bytes at s8, a checked one at s16, a collective at s8, a matrix operation at
s24 and a drain at s2. -/
def warpE : Warp :=
  { warp with
    v := [], s := [(0, 0x20000), (1, 0x60000), (2, 0), (3, 0x100), (4, 0x70000), (5, 255), (6, 0x4000),
      (8, 0x20000), (9, 0x30000), (10, 0x1000010), (11, 0xC6000000),
      (16, 0x20000), (17, 0x30000), (18, 0x1000010), (19, 0x20000C6000000), (20, 0x70000),
      (26, 0xFFFF), (28, 0x0202)] }
/-- The follower group of a pair, on the odd core. -/
def pairGroup : Group := { groupOf [warpE] with id := 2, row := 1, gid := 0 }
/-- A device with the group and its follower, and queue 255 enabled with an empty ring. -/
def dEng : Dev :=
  { devOf [warpE] 0x18000 with
    groups := [groupOf [warpE], pairGroup], queues := [(255, { Queue.init with ring := 0x40000, idx := 0x50000, ctl := 0x13000040 })] }
def sEng : State := stateOf dEng
def xEng : Ix := ⟨1, 0, groupOf [warpE], warpE, 3, 0x10000, 0, 0⟩
theorem ixEng : sEng.dev.ix = some xEng := by decide

/-- A scalar-side word without a predicate is clear to run there. -/
theorem scalar_eng {i : Instr} {o : OpW} {us : List Use} (h : (i.wellFormed && (allocFault xEng.x.lr us []).isNone) = true) (hg : xEng.guard o ≠ 0) :
    ClearScalar sEng i xEng o us := scalar_at ixEng rfl rfl h rfl hg

/-- Nothing has been written in these states, so that every read is of what stands there. -/
theorem news_eng (a n : Nat) : UpToDate sEng.dev xEng a n := fun w hw => absurd hw (by simp [sEng, stateOf, dEng, devOf, Dev.loadWord, Dev.init])

/-! ### Semaphores and launches -/

def wSig (set : Bool) : FWord := fw (.v 0) (.s 5) (.s 0) (.v 0) .i32 (if set then 1 else 0)
def wWt : FWord := fw (.s 4) (.s 5) .imm (.v 0)
/-- Semaphore 255, added to and set, and waited for at 0. -/
theorem test_sems : (scalarVal (wSig false) (wSig false).a xEng).toNat = 255 ∧ (scalarVal (wSig true) (wSig true).a xEng).toNat = 255
    ∧ (∀ b, ClearScalar sEng (.semsig (wSig b)) xEng (fop (wSig b)) [((wSig b).a, 1), ((wSig b).b, 1)])
    ∧ ClearScalar sEng (.semwt wWt) xEng (fop wWt) [(wWt.d, 1), (wWt.a, 1), (wWt.b, 1)] ∧ (scalarVal wWt wWt.a xEng).toNat = 255
    ∧ (scalarVal wWt wWt.b xEng).toNat ≤ (look (0 : DWord) sEng.dev.sems 255).toNat :=
  ⟨by decide, by decide, fun b => by cases b <;> exact scalar_eng (by decide) (by decide), scalar_eng (by decide) (by decide), by decide, by decide⟩

def wLnch : FWord := fw (.v 0) (.s 0) (.s 5) (.v 0)
set_option maxRecDepth 100000 in
/-- A record at 0x2_0000 is launched on queue 255. -/
theorem test_lnch : let k := look Queue.init sEng.dev.queues 255
    ClearScalar sEng (.lnch wLnch) xEng (fop wLnch) [(wLnch.a, 1), (wLnch.b, 1)] ∧ scalarVal wLnch wLnch.a xEng = 0x20000 ∧ scalarVal wLnch wLnch.b xEng = 255
    ∧ k.vf = xEng.x.vf ∧ k.en = true
    ∧ ∃ d1 b d2 d3 pi d4 pr, sEng.dev.laneLoad xEng (xEng.guard (fop wLnch)) [] 0x20000 64 = (d1, .ok b) ∧ (b.2.length == 64) = true ∧ d1.indexes xEng.x.die k = (d2, .ok (0, 0))
      ∧ (0 + 2 ^ 64 - 0) % 2 ^ 64 < k.slots ∧ d2.vplace k.vf xEng.x.die .rmw k.idxAddr 8 = (d3, .ok pi)
      ∧ d3.vplace k.vf xEng.x.die .st (k.ringBase + 64 * (0 % k.slots)) 64 = (d4, .ok pr) ∧ (pi + 8 ≤ pr ∨ pr + 64 ≤ pi) := by
  obtain ⟨b, h, hb⟩ := ok_with (r := sEng.dev.laneLoad xEng (xEng.guard (fop wLnch)) [] 0x20000 64) (fun b => b.2.length == 64) (by decide)
  exact ⟨scalar_eng (by decide) (by decide), by decide, by decide, by decide, by decide, _, b, _, _, 0x50000, _, 0x40000, h, hb, pair_eq (by decide), by decide,
    pair_eq (by decide), pair_eq (by decide), .inr (by decide)⟩

/-! ### Engine threads -/

def wCpy (n : BitVec 5) : FWord := fw (.v 0) (.s n) (.v 0) (.v 0)
/-- A plain copy, and one with a CRC check whose expected value can be read. -/
theorem test_cpy : (∀ n ∈ [(8 : BitVec 5), 16], ClearScalar sEng (.cpy (wCpy n)) xEng (fop (wCpy n)) [((wCpy n).a, 6)])
    ∧ sEng.dev.cpRefuse xEng.x (recordAt (wCpy 8) xEng 6) = none ∧ sEng.dev.cpRefuse xEng.x (recordAt (wCpy 16) xEng 6) = none
    ∧ sEng.dev.copies xEng.x.core < 32 ∧ (cpOf (recordAt (wCpy 8) xEng 6)).crc = false ∧ (cpOf (recordAt (wCpy 16) xEng 6)).crc = true
    ∧ ∃ a, Reaches1 sEng.dev xEng.x 0 (.ld false) ((cpOf (recordAt (wCpy 16) xEng 6)).done + 8) 4 a := by
  refine ⟨fun n hn => ?_, by decide, by decide, by decide, by decide, by decide, 0x70008, reach_of (by decide)⟩
  simp only [List.mem_cons, List.not_mem_nil, or_false] at hn
  rcases hn with h | h <;> subst h <;> exact scalar_eng (by decide) (by decide)

def wCjob : FWord := fw (.v 0) (.s 0) (.v 0) (.v 0)
theorem test_cjob : ClearScalar sEng (.cjob wCjob) xEng (fop wCjob) [(wCjob.a, 1)] ∧ sEng.dev.cards xEng.x.die < 256
    ∧ ∃ a, Reaches1 sEng.dev xEng.x 0 (.ld false) (scalarVal wCjob wCjob.a xEng).toNat 64 a :=
  ⟨scalar_eng (by decide) (by decide), by decide, 0x20000, reach_of (by decide)⟩

def wColl : FWord := fw (.v 0) (.s 8) (.v 0) (.v 0) .i32 0
theorem test_coll : ClearScalar sEng (.coll wColl) xEng (fop wColl) [(wColl.a, 5)] ∧ (collOf [0x20000, 0x30000, 4, 0x40, 0x50000]).bad = false
    ∧ sEng.dev.colls xEng.x.die < 16 :=
  ⟨scalar_eng (by decide) (by decide), by decide, by decide⟩

/-- A matrix operation alone on the last tile, and one of a pair. -/
def wMmac (solo : Bool) : FWord := fw (.v 0) (.s 24) (.v 0) (.v 0) .n32 1 (if solo then 0x2F else 0x1F)
theorem test_mmac : (∀ b, ClearScalar sEng (.mmac (wMmac b)) xEng (fop (wMmac b)) [((wMmac b).a, 5)]) ∧ 15 < xEng.x.lr.acc
    ∧ sEng.dev.mmRefuse xEng.x (mmOf (recordAt (wMmac true) xEng 5)) 2 2 15 true = .ok none
    ∧ sEng.dev.mmRefuse xEng.x (mmOf (recordAt (wMmac false) xEng 5)) 2 2 15 false = .ok (some pairGroup)
    ∧ sEng.dev.onArray xEng.x.core = none ∧ sEng.dev.onArray pairGroup.core = none ∧ pairGroup.held 15 = false :=
  ⟨fun b => by cases b <;> exact scalar_eng (by decide) (by decide), by decide, ok_eq (by decide), ok_eq (by decide), by decide, by decide, by decide⟩

/-- A drain into a peer's tile, into scratchpad, and into hive memory as a sum. -/
def wDrain (k : Nat) : FWord :=
  if k = 0 then fw (.v 0) (.s 20) (.v 0) (.v 0) .n32 15 0x001 else if k = 1 then fw (.v 0) (.s 2) (.v 0) (.v 0) .f32 15 0x800
    else fw (.v 0) (.s 2) (.v 0) (.v 0) .f32 15 (BitVec.ofNat 13 (k * 2048))
theorem test_mdrain : [0, 1, 2, 3].all (fun k => let f := wDrain k
    ((Instr.mdrain f).wellFormed && (allocFault xEng.x.lr [(f.a, 3)] []).isNone) && xEng.guard (fop f) == 3 && decide (f.sub.toNat < xEng.x.lr.acc)
      && f.imm.toNat / 2048 == k && (sEng.dev.drainRefuse xEng.x (drainOf (recordAt f xEng 3)) k (f.imm.toNat % 512) f.ty).isNone) = true := by decide

/-! ### Completion objects -/

def wWait : FWord := fw (.s 4) (.s 4) .imm (.v 0)
def wPollO : FWord := fw (.s 4) (.s 4) (.v 0) (.v 0)
theorem test_objects : (∃ a, Reaches1 sEng.dev xEng.x 0 (.ld false) (scalarVal wWait wWait.a xEng).toNat 8 a)
    ∧ ClearScalar sEng (.cwait wWait) xEng (fop wWait) [(wWait.d, 1), (wWait.a, 1), (wWait.b, 1)] ∧ scalarVal wWait wWait.b xEng = 0
    ∧ ClearScalar sEng (.cpoll wPollO) xEng (fop wPollO) [(wPollO.d, 1), (wPollO.a, 1)] :=
  ⟨⟨0x70000, reach_of (by decide)⟩, scalar_eng (by decide) (by decide), by decide, scalar_eng (by decide) (by decide)⟩

/-! ### Tiles -/

def wStat : FWord := fw (.s 4) (.v 0) (.v 0) (.v 0)
/-- The same device with a matrix operation on the group's array. -/
def opMm : Op := { id := 7, src := xEng.origin 3, done := 0, kind := .mmac [0, 0, 0xFFFF, 0, 0x0202] 2 2 false 3 none 0 0, stall := none, started := 0, view := View.init }
def sBusy : State := stateOf { dEng with ops := [opMm] }
theorem ixBusy : sBusy.dev.ix = some xEng := by decide
def wZero : FWord := fw (.v 0) (.v 0) (.v 0) (.v 0) .i32 0 15
def wLoad : FWord := fw (.v 0) (.s 2) (.s 3) (.v 0) .f32 0 15
theorem test_tiles : ClearScalar sEng (.mzero wZero) xEng (fop wZero) [] ∧ 15 < xEng.x.lr.acc
    ∧ (ClearScalar sEng (.mload wLoad) xEng (fop wLoad) [(wLoad.a, 1), (wLoad.b, 1)] ∧ scalarVal wLoad wLoad.a xEng = 0 ∧ scalarVal wLoad wLoad.b xEng = 0x100
      ∧ 0 + 63 * 0x100 + 64 * 4 ≤ xEng.x.lr.window
      ∧ (List.range 64).all (fun i => (sEng.dev.awaited xEng (i * 0x100) 256).isEmpty && (sEng.dev.sramBad (scratchGran xEng.g) true (i * 0x100) 256).isNone) = true)
    ∧ ClearScalar sEng (.mstat wStat) xEng (fop wStat) [(wStat.d, 1)] ∧ sEng.dev.onArray xEng.x.core = none
    ∧ ClearScalar sBusy (.mstat wStat) xEng (fop wStat) [(wStat.d, 1)] ∧ sBusy.dev.onArray xEng.x.core = some opMm :=
  ⟨scalar_eng (by decide) (by decide), by decide, ⟨scalar_eng (by decide) (by decide), by decide, by decide, by decide, by decide⟩, scalar_eng (by decide) (by decide), by decide,
    scalar_at ixBusy rfl rfl (by decide) rfl (by decide), by decide⟩

end Sys2Proof.Tests
end

