-- ==== Sys2Proof/Tests/Flow.lean ====
section
/-!
SUPPORT. Witnesses for the statements on row 0, masks, barriers, traps, the proposal bank and mailboxes: states and operands that meet
their hypotheses, for each clause.
-/
namespace Sys2Proof.Tests
open Machine

/-- A word that names a control register. -/
def csrWord (n : BitVec 8) (d a : Opnd) : FWord := fw d a (.v 0) (.v 0) (Ty.ofCode (n.extractLsb' 4 4)) (n.extractLsb' 0 4)

/-- A word with an immediate. -/
def fi (imm : BitVec 13) (ty : Ty := .i32) (sub : BitVec 4 := 0) : FWord := fw (.v 0) (.v 0) (.v 0) (.v 0) ty sub imm

theorem test_noEffect : ∀ i ∈ [Instr.nop (fi 0), .rgn (fi 0), .fence (fw (.v 0) (.v 0) (.v 0) (.v 0) .n32 2)],
    i.wellFormed = true ∧ Clear s0 x0 [] := by
  intro i h
  simp only [List.mem_cons, List.not_mem_nil, or_false] at h
  rcases h with h | h | h <;> subst h <;> exact ok_at ix0 rfl rfl (by decide)

/-- A release write of another thread of the group's core, which lane 0 has read; its fence acquires at `.cl`. -/
def wFence : FWord := fw (.v 0) (.v 0) (.v 0) (.v 0) .i32 9
def seenWrite : Write := ⟨0, ⟨0, 0, 0, 0, 7, 0, 0⟩, 0x5000, [1], false, 3, [4]⟩
def warpSeen : Warp := { warp with view := [(0, ⟨[], [], [0], 0⟩)] }
def xSeen : Ix := ⟨1, 0, groupOf [warpSeen], warpSeen, 3, 0x10000, 0, 0⟩
def sSeen : State := stateOf { devOf [warpSeen] 0x18000 with past := [seenWrite] }
theorem ixSeen : sSeen.dev.ix = some xSeen := by decide
theorem test_fence : (Instr.fence wFence).wellFormed = true ∧ Clear sSeen xSeen [] ∧ wFence.sub.toNat % 2 = 1
    ∧ (xSeen.guard (fop wFence)).getLsbD 0 = true ∧ seenWrite ∈ sSeen.dev.past ∧ seenWrite.id ∈ (xSeen.w.viewOf 0).seen ∧ 0 < seenWrite.rel
    ∧ meets (seenWrite.rel - 1) seenWrite.by_ (wFence.sub.toNat / 4 + 4 * (wFence.ty.code.toNat % 2)) (xSeen.x.thr xSeen.wi 0) = true :=
  ⟨by decide, clear_of ixSeen rfl rfl (by decide), by decide, by decide, by decide, by decide, by decide, by decide⟩

/-! ### Branches -/

/-- Whether a branch completes in the state of the tests, with a lane that executes. -/
def branchB (r : BranchSem) : Bool :=
  (r.i.wellFormed && (allocFault fixtureRec r.srcs []).isNone) && (!r.indirect || (lanesOf (x0.guard r.o)).all (fun L => (r.target x0 L).toNat % 8 == 0))
    && x0.guard r.o == 3

theorem branch_of (r : BranchSem) (h : branchB r = true) : r.i.wellFormed = true ∧ Clear s0 x0 r.srcs ∧ x0.guard r.o = 3
    ∧ (r.indirect = true → ∀ L, (x0.guard r.o).getLsbD L = true → (r.target x0 L).toNat % 8 = 0) := by
  simp only [branchB, Bool.and_eq_true, Bool.or_eq_true, Bool.not_eq_true', beq_iff_eq, List.all_eq_true] at h
  obtain ⟨⟨h1, h2⟩, h3⟩ := h
  have h1 : (r.i.wellFormed && (allocFault x0.x.lr r.srcs []).isNone) = true := by rw [Bool.and_eq_true]; exact h1
  obtain ⟨a, b⟩ := ok_at (x := x0) (us := r.srcs) (i := r.i) ix0 rfl rfl h1
  refine ⟨a, b, h3, fun hi L hL => ?_⟩
  rcases h2 with h2 | h2
  · rw [hi] at h2; cases h2
  · exact h2 L ((mem_lanesOf _ L).2 hL)

/-- Words for the six branches in turn. -/
def branchWords : List (FWord × LWord) :=
  [ (fi 0x1FF6, lw (.v 0) .imm), (fi 0, lw (.v 0) (.v 0) .i32 0 0x80000000), (fw (.v 0) (.v 2) (.v 0) (.v 0) .i32 2 0x1FFF, lw (.v 0) (.v 0)),
    (fi 0, lw (.v 0) (.v 2) .i32 2 0x7FFFFFFF), (fw (.v 0) (.s 2) (.v 0) (.v 0), lw (.v 0) (.v 0)), (fw (.v 0) (.v 6) (.v 0) (.v 0), lw (.v 0) (.v 0)) ]

theorem test_branches : (List.range 6).all (fun k => match branchWords[k]?, (branchWords[k]?).bind (fun w => (semsBranch w.1 w.2)[k]?) with
    | some _, some r => branchB r
    | _, _ => false) = true := by decide

theorem test_calls : (Instr.call (fw (.v 4) (.v 0) (.v 0) (.v 0) .i32 0 8)).wellFormed = true
    ∧ (Instr.callL (lw (.v 4) (.v 0) .i32 0 0x1000)).wellFormed = true ∧ Clear s0 x0 [useAt .n64 (.v 4)]
    ∧ x0.x.lr.isCompact (useAt .n64 (.v 4)) = false :=
  ⟨by decide, by decide, clear_of ix0 rfl rfl (by decide), no_compact _ _⟩

/-! ### The end of threads, yields and sleep -/

/-- The lanes of a warp without waits. -/
theorem no_qget {w : Warp} (h : w.wait = []) : NoQget w := by
  intro L a q e; rw [h]; exact nofun

theorem test_exit : (Instr.exit (fi 0)).wellFormed = true ∧ Clear s0 x0 [] ∧ NoQget x0.w :=
  ⟨by decide, clear_of ix0 rfl rfl (by decide), no_qget rfl⟩

theorem test_tail : (Instr.tail (fi 0)).wellFormed = true ∧ Clear s0 x0 [] ∧ NoQget x0.w ∧ x0.guard (fop (fi 0)) ≠ 0
    ∧ (s0.dev.groups.filter (fun y => y.core == x0.x.core && y.tracker)).length < 16 :=
  ⟨by decide, clear_of ix0 rfl rfl (by decide), no_qget rfl, by decide, by decide⟩

/-- The group of the tests with a request raised. -/
def groupReq : Group := { groupOf [warp] with pre := { PreReq.no with preq := true } }
def sReq : State := stateOf { devOf [warp] 0x18000 with groups := [groupReq] }
def xReq : Ix := { x0 with x := groupReq }
theorem ixReq : sReq.dev.ix = some xReq := by decide

theorem test_ypt : ((Instr.ypt (fi 0)).wellFormed = true ∧ Clear s0 x0 [] ∧ x0.x.requested = false)
    ∧ Clear sReq xReq [] ∧ xReq.x.requested = true :=
  ⟨⟨by decide, clear_of ix0 rfl rfl (by decide), by decide⟩, clear_of ixReq rfl rfl (by decide), by decide⟩

/-- The greatest count, a count of 0, and a count in a register. -/
theorem test_sleep :
    ((Instr.sleep (fw (.v 0) .imm (.v 0) (.v 0) .i32 0 4095)).wellFormed = true ∧ sleepCount (fw (.v 0) .imm (.v 0) (.v 0) .i32 0 4095) x0 = 4095)
    ∧ sleepCount (fw (.v 0) .imm (.v 0) (.v 0)) x0 = 0 ∧ (Instr.sleep (fw (.v 0) (.s 0) (.v 0) (.v 0))).wellFormed = true
    ∧ sleepCount (fw (.v 0) (.s 0) (.v 0) (.v 0)) x0 = 4095 ∧ Clear s0 x0 [(.s 0, 1)] ∧ Clear s0 x0 [(.imm, 1)] :=
  ⟨by decide, by decide, by decide, by decide, clear_of ix0 rfl rfl (by decide), clear_of ix0 rfl rfl (by decide)⟩

/-! ### Masks, regions and barriers -/

theorem idle_of {x : Ix} {e : LaneSet} (h : x.w.wait = []) (he : e ≠ 0) : Idle x e := ⟨he, fun L _ => by rw [h]; rfl⟩

theorem test_masks :
    ((Instr.mjoin (fw (.m 3) (.v 0) (.v 0) (.v 0))).wellFormed = true ∧ (Instr.mleave (fw (.m 3) (.v 0) (.v 0) (.v 0))).wellFormed = true
      ∧ Clear s0 x0 [(.m 3, 1)])
    ∧ (Instr.mset (fw (.m 11) (.s 2) (.v 0) (.v 0))).wellFormed = true ∧ Clear s0 x0 [(.m 11, 1), (.s 2, 1)]
    ∧ x0.guard (fop (fw (.m 11) (.s 2) (.v 0) (.v 0))) ≠ 0 :=
  ⟨⟨by decide, by decide, clear_of ix0 rfl rfl (by decide)⟩, by decide, clear_of ix0 rfl rfl (by decide), by decide⟩

/-- An issue of lane 0 alone, in a warp of two. -/
def xOne : Ix := { x0 with iss := 1 }
def sOne : State := stateOf { devOf [warp] 0x18000 with cur := some ⟨1, 0, 1, 0x10000, 0, 0⟩ }
theorem ixOne : sOne.dev.ix = some xOne := by decide
theorem spare_one (o : OpW) (h : x0.w.readP o.pidx.toNat = 0xFFFFFFFF) (hn : o.neg = false) : Spare xOne (xOne.guard o) := by
  refine ⟨0, warp, 1, rfl, by decide, ?_, rfl⟩
  rintro ⟨-, h⟩
  revert h
  refine Bool.eq_false_iff.1 ?_
  show ((1 : LaneSet) &&& (if o.neg then ~~~(x0.w.readP o.pidx.toNat) else x0.w.readP o.pidx.toNat)).getLsbD 1 = false
  rw [hn, h]; decide

/-- A warp whose mask 3 holds both lanes, and one whose lane 1 waits at barrier 1 besides. -/
def warpM : Warp := { warp with m := [(3, 3)] }
def warpStuck : Warp := { warpM with wait := [(1, .bar 1)], arrived := [(1, 2)] }
def ixOf (w : Warp) (iss : LaneSet) : Ix := ⟨1, 0, groupOf [w], w, iss, 0x10000, 0, 0⟩
def stOf (w : Warp) (iss : LaneSet) : State := stateOf { devOf [w] 0x18000 with cur := some ⟨1, 0, iss, 0x10000, 0, 0⟩ }
theorem ixM : (stOf warpM 1).dev.ix = some (ixOf warpM 1) := by decide
theorem ixStuck : (stOf warpStuck 1).dev.ix = some (ixOf warpStuck 1) := by decide
theorem spareM (o : OpW) (h : warpM.readP o.pidx.toNat = 0xFFFFFFFF) (hn : o.neg = false) : Spare (ixOf warpM 1) ((ixOf warpM 1).guard o) := by
  refine ⟨0, warpM, 1, rfl, by decide, ?_, rfl⟩
  rintro ⟨-, k⟩
  revert k
  refine Bool.eq_false_iff.1 ?_
  show ((1 : LaneSet) &&& (if o.neg then ~~~(warpM.readP o.pidx.toNat) else warpM.readP o.pidx.toNat)).getLsbD 1 = false
  rw [hn, h]; decide

/-- A group of one warp of lanes 0 and 1 is stuck when each executes or waits. -/
theorem stuck_of (w : Warp) (iss e : LaneSet) (hi : iss = e) (hl : w.live = 3) (hh : w.handler = 0)
    (h : (List.range 2).all (fun L => e.getLsbD L || (look Wait.none w.wait L).blocked) = true) : AllStuck (ixOf w iss) e := by
  refine ⟨hi, fun k v hv => ?_⟩
  match k, hv with
  | 0, hv =>
    have hv : some w = some v := hv
    cases hv
    refine ⟨by rw [hh]; exact BitVec.zero_and, fun L hL => ?_⟩
    have hL : L < 2 := by
      rcases Nat.lt_or_ge L 2 with h2 | h2
      · exact h2
      · rw [hl] at hL
        match L, h2 with
        | L + 2, _ => exact absurd hL (by simp [BitVec.getLsbD, Nat.testBit_succ])
    have := List.all_eq_true.1 h L (List.mem_range.2 hL)
    simp only [Bool.or_eq_true] at this
    exact this.imp (fun a => ⟨rfl, a⟩) id

def wMwait : FWord := fw (.v 0) (.m 3) (.v 0) (.v 0)
/-- A mask that is met, one that is not while a lane runs on, and a wait that leaves the group stuck. -/
theorem test_mwait : (Instr.mwait wMwait).wellFormed = true
    ∧ (Clear sOne xOne [(.m 3, 1)] ∧ Idle xOne (xOne.guard (fop wMwait)) ∧ maskMet xOne.w 3 (xOne.guard (fop wMwait)) 3 = true)
    ∧ (Clear (stOf warpM 1) (ixOf warpM 1) [(.m 3, 1)] ∧ Idle (ixOf warpM 1) ((ixOf warpM 1).guard (fop wMwait))
      ∧ maskMet warpM 3 ((ixOf warpM 1).guard (fop wMwait)) 3 = false ∧ Spare (ixOf warpM 1) ((ixOf warpM 1).guard (fop wMwait)))
    ∧ Clear (stOf warpStuck 1) (ixOf warpStuck 1) [(.m 3, 1)] ∧ Idle (ixOf warpStuck 1) ((ixOf warpStuck 1).guard (fop wMwait))
      ∧ maskMet warpStuck 3 ((ixOf warpStuck 1).guard (fop wMwait)) 3 = false ∧ AllStuck (ixOf warpStuck 1) ((ixOf warpStuck 1).guard (fop wMwait))
      ∧ (stOf warpStuck 1).dev.tvecOf (ixOf warpStuck 1).x ≠ 0
      ∧ ∀ k L, k < 12 → onMask warpStuck k L = true → maskMet warpStuck 3 ((ixOf warpStuck 1).guard (fop wMwait)) k = false := by
  refine ⟨by decide, ⟨clear_of ixOne rfl rfl (by decide), idle_of rfl (by decide), by decide⟩,
    ⟨clear_of ixM rfl rfl (by decide), idle_of rfl (by decide), by decide, spareM _ (by decide) rfl⟩,
    clear_of ixStuck rfl rfl (by decide), ⟨by decide, fun L hL => ?_⟩, by decide, stuck_of _ _ _ (by decide) rfl rfl (by decide), by decide, fun k L _ h => ?_⟩
  · match L, hL with
    | 0, _ => rfl
    | L + 1, hL => exact absurd hL (by rw [show (ixOf warpStuck 1).guard (fop wMwait) = 1 by decide]; simp [BitVec.getLsbD, Nat.testBit_succ])
  · refine absurd h ?_
    match L with
    | 0 => exact Bool.eq_false_iff.1 rfl
    | 1 => exact Bool.eq_false_iff.1 rfl
    | L + 2 => exact Bool.eq_false_iff.1 (Bool.and_eq_false_imp.2 fun _ => rfl)

/-- A warp with an open region. -/
def warpSer : Warp := { warp with ser := 3 }
def xSer : Ix := ⟨1, 0, groupOf [warpSer], warpSer, 3, 0x10000, 0, 0⟩
def sSer : State := stateOf (devOf [warpSer] 0x18000)
theorem ixSer : sSer.dev.ix = some xSer := by decide

theorem test_regions : ((Instr.serb (fi 0)).wellFormed = true ∧ Clear s0 x0 [] ∧ x0.w.ser = 0)
    ∧ (Instr.sere (fi 0)).wellFormed = true ∧ Clear sSer xSer [] ∧ xSer.w.ser ≠ 0 :=
  ⟨⟨by decide, clear_of ix0 rfl rfl (by decide), rfl⟩, by decide, clear_of ixSer rfl rfl (by decide), by decide⟩

theorem may_arrive (x : Ix) (b : Nat) (e : LaneSet) (h : x.w.arrived = [] ∧ x.w.left = [] ∧ x.w.wait = []) (he : e ≠ 0) : MayArrive x b e :=
  ⟨he, fun L _ => ⟨by rw [h.1]; show (0 : LaneSet).getLsbD L = false; simp, by rw [h.2.1]; rfl, by rw [h.2.2]; rfl⟩⟩

/-- Both lanes together complete barrier 15; lane 0 alone does not complete barrier 0. -/
theorem test_barriers :
    ((Instr.bara (fi 15)).wellFormed = true ∧ (Instr.bar (fi 15)).wellFormed = true ∧ Clear s0 x0 []
      ∧ MayArrive x0 (barNo (fi 15)) (x0.guard (fop (fi 15))) ∧ Completes x0 (barNo (fi 15)) (x0.guard (fop (fi 15))))
    ∧ Clear sOne xOne [] ∧ MayArrive xOne (barNo (fi 0)) (xOne.guard (fop (fi 0)))
      ∧ Spare xOne (xOne.guard (fop (fi 0))) ∧ ¬ Completes xOne (barNo (fi 0)) (xOne.guard (fop (fi 0))) := by
  refine ⟨⟨by decide, by decide, clear_of ix0 rfl rfl (by decide), may_arrive _ _ _ ⟨rfl, rfl, rfl⟩ (by decide), ?_⟩,
    clear_of ixOne rfl rfl (by decide), may_arrive _ _ _ ⟨rfl, rfl, rfl⟩ (by decide), spare_one _ (by decide) rfl, ?_⟩
  · intro k w hw L hL
    match k, hw with
    | 0, hw =>
      have hw : some warp = some w := hw
      cases hw
      have : (3 : LaneSet).getLsbD L = true := hL
      exact .inr ⟨rfl, by rw [show x0.guard (fop (fi 15)) = 3 by decide]; exact this⟩
  · intro h
    rcases h 0 warp rfl 1 (by decide) with h | h
    · exact absurd h (by decide)
    · exact absurd h.2 (by decide)

/-- A warp whose lanes hold tokens of the current generation of barrier 0. -/
def warpTok : Warp := { warp with tok := [(0, some 0), (16, some 0)] }
theorem ixTok : (stOf warpTok 3).dev.ix = some (ixOf warpTok 3) := by decide

/-- A wait while another lane runs on, one of which every lane steps on, and one that leaves the group stuck. -/
theorem test_barw : (Instr.barw (fi 0)).wellFormed = true
    ∧ (Clear sOne xOne [] ∧ Idle xOne (xOne.guard (fop (fi 0))) ∧ Spare xOne (xOne.guard (fop (fi 0))))
    ∧ (Clear s0 x0 [] ∧ Idle x0 (x0.guard (fop (fi 0))) ∧ ∃ L, (x0.guard (fop (fi 0))).getLsbD L = true
      ∧ (look none x0.w.tok (16 * L + barNo (fi 0)) == some (look 0 x0.x.gens (barNo (fi 0)))) = false)
    ∧ Clear (stOf warpTok 3) (ixOf warpTok 3) [] ∧ Idle (ixOf warpTok 3) ((ixOf warpTok 3).guard (fop (fi 0)))
      ∧ AllStuck (ixOf warpTok 3) ((ixOf warpTok 3).guard (fop (fi 0))) ∧ (stOf warpTok 3).dev.tvecOf (ixOf warpTok 3).x ≠ 0
      ∧ ∀ L, L < 2 → (look none warpTok.tok (16 * L + barNo (fi 0)) == some (look 0 (ixOf warpTok 3).x.gens (barNo (fi 0)))) = true :=
  ⟨by decide, ⟨clear_of ixOne rfl rfl (by decide), idle_of rfl (by decide), spare_one _ (by decide) rfl⟩,
    ⟨clear_of ix0 rfl rfl (by decide), idle_of rfl (by decide), 0, by decide, by decide⟩,
    clear_of ixTok rfl rfl (by decide), idle_of rfl (by decide), stuck_of _ _ _ (by decide) rfl rfl (by decide), by decide, by decide⟩

/-- `bar 0` by lane 0 while lane 1 waits at barrier 1: the group is stuck. -/
theorem test_bar_stuck : (Instr.bar (fi 0)).wellFormed = true ∧ Clear (stOf warpStuck 1) (ixOf warpStuck 1) []
    ∧ MayArrive (ixOf warpStuck 1) 0 ((ixOf warpStuck 1).guard (fop (fi 0))) ∧ ¬ Completes (ixOf warpStuck 1) 0 ((ixOf warpStuck 1).guard (fop (fi 0)))
    ∧ AllStuck (ixOf warpStuck 1) ((ixOf warpStuck 1).guard (fop (fi 0))) ∧ NoOther (ixOf warpStuck 1) 0 ∧ (stOf warpStuck 1).dev.tvecOf (ixOf warpStuck 1).x ≠ 0 := by
  refine ⟨by decide, clear_of ixStuck rfl rfl (by decide), ⟨by decide, fun L hL => ?_⟩, fun h => ?_, stuck_of _ _ _ (by decide) rfl rfl (by decide),
    fun k hk _ h => ?_, by decide⟩
  · match L, hL with
    | 0, _ => exact ⟨by decide, rfl, rfl⟩
    | L + 1, hL => exact absurd hL (by rw [show (ixOf warpStuck 1).guard (fop (fi 0)) = 1 by decide]; simp [BitVec.getLsbD, Nat.testBit_succ])
  · rcases h 0 warpStuck rfl 1 (by decide) with h | h
    · exact absurd h (by decide)
    · exact absurd h.2 (by decide)
  · have hn : ∀ k, k < 16 → (look 0 warpStuck.arrived k).getLsbD 0 = false := by decide
    rcases h 0 warpStuck rfl 0 (by decide) with h | h
    · rw [hn k hk] at h; cases h
    · exact absurd h.2 (by simp)

/-! ### Traps -/

/-- Whether an instruction takes its trap in a state of the tests. -/
def trapB (x : Ix) (r : TrapSem) : Bool :=
  (r.i.wellFormed && (allocFault x.x.lr r.us []).isNone) && r.when_ x && r.lanes x != 0 && r.lanes x &&& x.w.handler == 0

/-- A warp in which addresses are misaligned and divisors are 0, with or without an open region. -/
def warpOdd (ser : LaneSet) : Warp := { warp with s := [(0, 0x20001), (1, 0x3002)], v := [(3, .u 9), (6, .u 1)], ser := ser }
def xOdd (ser : LaneSet) : Ix := ⟨1, 0, groupOf [warpOdd ser], warpOdd ser, 3, 0x10000, 0, 0⟩
def sOdd (ser : LaneSet) (tvec : Addr) : State := stateOf (devOf [warpOdd ser] tvec)

theorem ix_odd (ser : LaneSet) (t : Addr) : (sOdd ser t).dev.ix = some (xOdd ser) := by
  have h : (3 : LaneSet) &&& 3 = 3 := by decide
  show some (⟨1, 0, groupOf [warpOdd ser], warpOdd ser, 3 &&& 3, 0x10000, 0, 0⟩ : Ix) = some (xOdd ser)
  rw [h]; rfl

/-- An instruction that passes the check meets every hypothesis of its trap: with a handler, and without one. -/
theorem trap_of (ser : LaneSet) (r : TrapSem) (h : trapB (xOdd ser) r = true) :
    r.i.wellFormed = true ∧ r.when_ (xOdd ser) = true ∧ r.lanes (xOdd ser) ≠ 0 ∧ r.lanes (xOdd ser) &&& (xOdd ser).w.handler = 0
    ∧ (∀ t, Clear (sOdd ser t) (xOdd ser) r.us ∧ (sOdd ser t).dev.tvecOf (xOdd ser).x = t
        ∧ (look Queue.init (sOdd ser t).dev.queues (xOdd ser).x.queue).kill = none ∧ (sOdd ser t).dev.killWaits (xOdd ser).x.queue = false) := by
  simp only [trapB, Bool.and_eq_true, beq_iff_eq, bne_iff_ne, Option.isNone_iff_eq_none] at h
  obtain ⟨⟨⟨⟨h1, h2⟩, h3⟩, h4⟩, h5⟩ := h
  exact ⟨h1, h3, h4, h5, fun t => ⟨clear_of (ix_odd ser t) rfl rfl h2, rfl, rfl, rfl⟩⟩

/-- The words of the traps in turn; each also with the region it needs. -/
def trapWords : List (FWord × LaneSet) :=
  [ (fi 15, 0), (fi 3, 0), (fi 0, 0), (fw (.v 0) (.s 0) (.v 0) (.v 0), 0), (fw (.v 0) (.v 6) (.v 0) (.v 0), 0), (fi 0, 3), (fi 0, 0), (fi 0, 0),
    (fw (.v 4) (.v 3) (.v 1) (.v 0), 0), (fw (.v 4) (.v 3) (.v 1) (.v 0), 0), (fw (.v 4) (.s 0) .zero (.v 2) .n32, 0),
    (fw (.v 4) (.s 0) .zero (.v 2) .n32, 0), (fw (.v 0) (.s 0) .zero (.v 2) .n32, 0), (fw (.v 4) (.s 0) .zero (.v 0) .n32, 0),
    (fw (.v 0) (.s 1) .zero (.v 2) .n64, 0) ]

/-- Each trap is taken by some word; the illegal words have the least and the greatest cause. -/
theorem test_traps : [(⟨0x010, false⟩ : Illegal), ⟨0x02F, true⟩].all (fun e => (List.range 15).all (fun k => match trapWords[k]?,
    (trapWords[k]?).bind (fun w => (semsTrap w.1 e)[k]?) with
    | some w, some r => trapB (xOdd w.2) r
    | _, _ => false)) = true := by decide

/-- A warp whose lane 0 loads a misaligned sum, and lane 1 a sum at 2^56; its queue has a fault buffer of 8 KiB. -/
def warpTwo : Warp := { warp with s := [(0, 0xFFFFFFFFFFFFF8)], v := [(1, .g [1, 8])] }
def sTwo : State := stateOf { devOf [warpTwo] 0x18000 with queues := [(0, { Queue.init with ctl := 0x13000000, save := 0x40001 })] }

/-- Two causes of one instruction (R363, R364, R351): each lane enters with its own, and each cause has a record. -/
theorem test_twoCauses : (match exec (.ld (fw (.v 4) (.s 0) (.v 1) (.v 0) .n32)) sTwo with
    | .next t => t.dev.groups.map (fun g => g.warps.map (fun w => (w.handler, look 0 w.ecause 0, look 0 w.ecause 1))) == [[(3, 0x051, 0x061)]]
        && (look Queue.init t.dev.queues 0).seq == 3
    | _ => false) = true := by decide +kernel

/-- A division of which lane 0 divides by zero and lane 1 does not. -/
def warpMix : Warp := { warp with v := [(1, .u 9), (2, .g [0, 7])] }
def wMix : FWord := fw (.v 4) (.v 1) (.v 2) (.v 0)
theorem ixMix : (stOf warpMix 3).dev.ix = some (ixOf warpMix 3) := by decide
theorem test_mixed : (Instr.div wMix).wellFormed = true ∧ (Instr.rem wMix).wellFormed = true
    ∧ Clear (stOf warpMix 3) (ixOf warpMix 3) [opUse (fop wMix) wMix.d, opUse (fop wMix) wMix.a, opUse (fop wMix) wMix.b]
    ∧ (ixOf warpMix 3).x.lr.isCompact (opUse (fop wMix) wMix.d) = false
    ∧ setOf ((lanesOf ((ixOf warpMix 3).guard (fop wMix))).filter (fun L => opInt (fop wMix) wMix.b (ixOf warpMix 3) L == 0)) = 1
    ∧ (1 : LaneSet) &&& warpMix.handler = 0 ∧ (stOf warpMix 3).dev.tvecOf (ixOf warpMix 3).x ≠ 0 :=
  ⟨by decide, by decide, clear_of ixMix rfl rfl (by decide), no_compact _ _, by decide, by decide, by decide⟩

/-- A warp whose lanes are in handler mode. -/
def warpH : Warp := { warp with handler := 3, epc := [(0, 0x10040), (1, 0x10048)] }
def xH : Ix := ⟨1, 0, groupOf [warpH], warpH, 3, 0x10000, 0, 0⟩
def sH : State := stateOf (devOf [warpH] 0x18000)
theorem ixH : sH.dev.ix = some xH := by decide

/-- The words of the nine refused writes of control registers in turn: the read-only one at 0x28, `epc` outside the handler and `tvec` inside
it, where the trap kills. -/
def csrTrapWords : List FWord :=
  (List.range 3).flatMap (fun _ => [fw (.v 0) (.s 0) (.v 0) (.v 0) .i64 8, fw (.v 0) (.v 6) (.v 0) (.v 0) .i32 9, csrWord 8 (.v 0) (.s 2)])
theorem test_csrTraps : (List.range 9).all (fun k => match (csrTrapWords[k]?).bind (fun w => (semsCsrTrap w)[k]?) with
    | some r => if k % 3 = 2 then r.i.wellFormed && (allocFault xH.x.lr r.us []).isNone && r.when_ xH && r.lanes xH &&& xH.w.handler != 0
        else trapB (xOdd 0) r
    | _ => false) = true := by decide

/-- `eret` in handler mode, and outside it in a grid with a handler. -/
theorem test_eret : (Instr.eret (fi 0)).wellFormed = true
    ∧ (Clear sH xH [] ∧ xH.guard (fop (fi 0)) = 3 ∧ xH.guard (fop (fi 0)) &&& ~~~xH.w.handler = 0)
    ∧ Clear s0 x0 [] ∧ s0.dev.tvecOf x0.x ≠ 0 ∧ x0.guard (fop (fi 0)) &&& ~~~x0.w.handler ≠ 0 :=
  ⟨by decide, ⟨clear_of ixH rfl rfl (by decide), by decide, by decide⟩, clear_of ix0 rfl rfl (by decide), by decide, by decide⟩

/-! ### Control registers -/

/-- Every register, the first and the last of each range. -/
def csrReads : List FWord :=
  [csrWord 0 (.s 4) (.v 0), csrWord 1 (.v 4) (.v 0), csrWord 2 (.s 4) (.v 0), csrWord 8 (.s 4) (.v 0), csrWord 9 (.v 4) (.v 0), csrWord 0x0A (.v 4) (.v 0)]
    ++ [0x10, 0x17, 0x18, 0x1F, 0x20, 0x28].map (fun n => csrWord n (.s 4) (.v 0))
theorem test_csrReads : csrReads.all (fun f => (Instr.csrr f).wellFormed && (allocFault x0.x.lr [useAt (csrTy f.csr) f.d] []).isNone
    && !x0.x.lr.isCompact (useAt (csrTy f.csr) f.d)) = true := by decide

/-- The writes of each clause: the state each needs, and the register. -/
def csrWriteWords : List FWord :=
  [csrWord 0 (.v 0) (.s 2), csrWord 1 (.v 0) (.v 2), csrWord 8 (.v 0) (.s 2), csrWord 9 (.v 0) (.v 6)] ++ [0x10, 0x17, 0x18, 0x1F, 0x20].map (fun n => csrWord n (.v 0) (.s 2))
theorem test_csrWrites : csrWriteWords.all (fun f => (csrWrites f).all (fun r =>
      r.1.wellFormed && (allocFault x0.x.lr [useAt (csrTy f.csr) f.a] []).isNone && x0.guard (fop f) == 3 && xH.guard (fop f) &&& ~~~xH.w.handler == 0)) = true
    ∧ (csrWriteWords.map FWord.csr = [0x00, 0x01, 0x08, 0x09, 0x10, 0x17, 0x18, 0x1F, 0x20])
    ∧ (∀ us, allocFault x0.x.lr us [] = none → Clear s0 x0 us ∧ Clear sH xH us) ∧ x0.w.handler = 0
    ∧ s0.dev.grid? x0.x.grid ≠ none :=
  ⟨by decide, by decide, fun _ h => ⟨clear_of ix0 rfl rfl h, clear_of ixH rfl rfl h⟩, rfl, by decide⟩

/-! ### Records -/

/-- Whether a translation meets V = 0. -/
def okV0 (r : Except Flt (Nat × Bool)) : Bool :=
  match r with
  | .error f => f.cause == 0x070
  | .ok _ => false

/-- Queue 3, whose save area is at 0x40000, and queue 4, whose save area no entry maps. -/
def dRec : Dev := { devOf [warp] 0 with queues := [(3, { Queue.init with save := 0x40001 }), (4, { Queue.init with save := 0x100_0004_0001 })] }

/-- The next record of queue 3 reaches its page; that of queue 4 stalls. -/
theorem test_record : let k := look Queue.init dRec.queues 3
    (∃ pa sm, (dRec.translate 384 k.vf .st (recordVa k)).2 = .ok (pa, sm)
      ∧ (dRec.translate 384 k.vf .st (recordVa k)).1.unreached 0 (dRec.cfg.place pa) = none) ∧ RecordStalls dRec 4 := by
  refine ⟨⟨1245184, false, ok_eq (by decide), by decide⟩, ?_⟩
  have h : okV0 (dRec.translate 384 (look Queue.init dRec.queues 4).vf .st (recordVa (look Queue.init dRec.queues 4))).2 = true := by decide
  unfold okV0 at h
  split at h
  · rename_i f e; exact ⟨f, e, by simpa using h⟩
  · cases h

/-! ### Result registers, and the proposal bank -/

/-- A warp with a result in q3, bank open in lane 0 and numbers in v1 and v2 that its first lane accepts and its second does not. -/
def warpQ : Warp := { warp with q := [(3, (99, 5))], bank := 3, v := [(1, .u 0x3F800000), (2, .g [0x3F800000, 0x40000000])], acc := 7, rej := 8 }
def xQ : Ix := ⟨1, 0, groupOf [warpQ], warpQ, 3, 0x10000, 0, 0⟩
def sQ : State := stateOf (devOf [warpQ] 0x18000)
theorem ixQ : sQ.dev.ix = some xQ := by decide

/-- The words of these statements. -/
def wVred : FWord := fw (.q 15) (.v 2) (.v 0) (.v 0) .i32 0
def wQget : FWord := fw (.s 4) (.q 3) (.s 2) (.v 0)
def wPacc : FWord := fw (.v 0) (.v 1) (.v 2) (.v 0) .f32
theorem test_results :
    ((Instr.vred wVred).wellFormed = true ∧ Clear s0 x0 [(wVred.d, 1), opUse (fop wVred) wVred.a])
    ∧ (Instr.qget { wQget with b := .imm, imm := 5 }).wellFormed = true ∧ Clear sQ xQ [(.s 4, 1), (.q 3, 1), (.imm, 1)]
    ∧ xQ.guard (fop { wQget with b := .imm, imm := 5 }) ≠ 0 ∧ NoQget xQ.w
    ∧ ((look (0, 0) xQ.w.q 3).2.toNat + 2 ^ 16 - (xQ.val (fop { wQget with b := .imm, imm := 5 }) .n64 .imm 0).toNat % 2 ^ 16) % 2 ^ 16 < 2 ^ 15 :=
  ⟨⟨by decide, clear_of ix0 rfl rfl (by decide)⟩, by decide, clear_of ixQ rfl rfl (by decide), by decide, no_qget rfl, by decide⟩

theorem test_proposals : Clear sQ xQ [] ∧ 56 ≤ xQ.x.lr.vg ∧ (Instr.pbopen (fi 0)).wellFormed = true ∧ (Instr.pbx (fi 0)).wellFormed = true
    ∧ ((Instr.pacc wPacc).wellFormed = true ∧ Clear sQ xQ [(wPacc.a, 1), (wPacc.b, 1)] ∧ xQ.guard (fop wPacc) &&& xQ.w.bank = 3)
    ∧ [0, 1].all (fun L => vLe (f32 (opF32 (fop wPacc) wPacc.b xQ L)) (f32 (opF32 (fop wPacc) wPacc.a xQ L)) == (L == 0)) = true
    ∧ (Instr.pbstat (fw (.s 4) (.v 0) (.v 0) (.v 0))).wellFormed = true ∧ (Instr.pbstat (fw (.s 4) (.v 0) (.v 0) (.v 0) .i32 1)).wellFormed = true
    ∧ Clear sQ xQ [(.s 4, 1)] :=
  ⟨clear_of ixQ rfl rfl (by decide), by decide, by decide, by decide, ⟨by decide, clear_of ixQ rfl rfl (by decide), by decide⟩, by decide, by decide,
    by decide, clear_of ixQ rfl rfl (by decide)⟩

/-! ### Mailboxes -/

/-- A device with mailbox 0 open and empty, and mailbox 1,023 holding one placed observation of two bytes. -/
def boxFull : Box := { Box.init with isOpen := true, status := 0, obs := [⟨9, [1, 2], 7, true, [4]⟩] }
def sBox : State := stateOf { devOf [warp] 0x18000 with boxes := [(0, { Box.init with isOpen := true, status := 0 }), (1023, boxFull)] }
theorem ixBox : sBox.dev.ix = some x0 := by decide

/-- The words: a send of 8 bytes of scratchpad at 8 to mailbox 0, a receive from mailbox 1,023 to scratchpad at 8, a poll and a version. -/
def wSend : FWord := fw (.s 4) (.s 2) (.s 2) .imm .i32 1 0
def wRecv : FWord := fw (.s 4) (.s 2) .imm (.v 0) .i32 1 1023
def wPoll : FWord := fw (.s 4) .imm (.v 0) (.v 0) .i32 0 1023

theorem test_mailboxes :
    ((Instr.mbsend wSend).wellFormed = true ∧ Clear sBox x0 [(.s 4, 1), (.s 2, 1), (.s 2, 1), (.imm, 1)] ∧ Idle x0 (x0.guard (fop wSend))
      ∧ OwnBox sBox x0 (boxNumber wSend .imm x0) { Box.init with isOpen := true, status := 0 }
      ∧ 0 < (x0.val (fop wSend) .n64 wSend.b 0).toNat ∧ (x0.val (fop wSend) .n64 wSend.b 0).toNat ≤ 256
      ∧ ∃ d1 bs, sBox.dev.bufRead x0 (x0.guard (fop wSend)) true (x0.val (fop wSend) .n64 wSend.a 0).toNat (x0.val (fop wSend) .n64 wSend.b 0).toNat = (d1, .ok bs))
    ∧ ((Instr.mbrecv wRecv).wellFormed = true ∧ Clear sBox x0 [(.s 4, 1), (.s 2, 1), (.imm, 1)] ∧ Idle x0 (x0.guard (fop wRecv))
      ∧ OwnBox sBox x0 (boxNumber wRecv .imm x0) boxFull ∧ boxFull.obs = [⟨9, [1, 2], 7, true, [4]⟩]
      ∧ ∃ d1, (sBox.dev.modWarp x0.g x0.wi (·.gain (x0.guard (fop wRecv)) [4])).bufWrite x0 (x0.guard (fop wRecv)) true (x0.val (fop wRecv) .n64 wRecv.a 0).toNat [1, 2] = (d1, .ok ()))
    ∧ (Instr.mbpoll wPoll).wellFormed = true ∧ Clear sBox x0 [(.s 4, 1), (.imm, 1)] ∧ OwnBox sBox x0 (boxNumber wPoll .imm x0) boxFull
    ∧ (Instr.mbver (fw (.v 0) .imm (.v 0) (.v 0) .i32 0 3)).wellFormed = true ∧ Clear sBox x0 [(.imm, 1)] := by
  refine ⟨⟨by decide, clear_of ixBox rfl rfl (by decide), idle_of rfl (by decide), ⟨by decide, by decide, by decide⟩, by decide, by decide, ?_⟩,
    ⟨by decide, clear_of ixBox rfl rfl (by decide), idle_of rfl (by decide), ⟨by decide, by decide, by decide⟩, rfl, ?_⟩,
    by decide, clear_of ixBox rfl rfl (by decide), ⟨by decide, by decide, by decide⟩, by decide, clear_of ixBox rfl rfl (by decide)⟩
  · exact ⟨_, _, rfl⟩
  · exact ⟨_, rfl⟩

end Sys2Proof.Tests
end

