-- ==== Sys2Proof/Tests/Running.lean ====
section
/-!
SUPPORT. Witnesses for the statements on steps, encodings, warps, caches, queues, the distributor, pre-emption and tenancy.
-/
namespace Sys2Proof.Tests
open Machine

theorem lanes_all' {e : LaneSet} {p : Nat → Bool} (h : (lanesOf e).all p = true) (L : Nat) (hL : e.getLsbD L = true) : p L = true :=
  List.all_eq_true.1 h L ((mem_lanesOf _ L).2 hL)

/-! ### Words and steps -/

/-- A word is read and written, with every field in use. -/
theorem test_roundTrip : let i := Instr.ffma { plainF with d := .v 6, a := .v 1, b := .v 2, c := .v 3, pidx := 3, ty := .f32, sub := 1 }
    encode i = some 0x0C61808206702000 ∧ i.wellFormed = true ∧ decode 0x0C61808206702000 = .ok i :=
  ⟨by decide, by decide, ok_eq (by decide)⟩

/-- A reserved form, an opcode that no row gives, in each form, and an F-form instruction without an L-form. -/
theorem test_reserved : (BitVec.extractLsb' 62 2 (0xC000000000000000 : BitVec 64) = 3)
    ∧ [(0x3FE0000000E00000 : BitVec 64), 0xBFE0000000E00000].all (fun w => (opF (w.extractLsb' 53 9)).isNone) = true
    ∧ (let w : BitVec 64 := 0x8000000000000000
       w.extractLsb' 62 2 = 2 ∧ opF (w.extractLsb' 53 9) ≠ none ∧ (w.extractLsb' 53 9).toNat = 0) := by decide

/-- The first step after a load. -/
def sStep : State := State.reset.withFetchWord 64 0xE00000
def warp0 : Warp := { Warp.entry (BitVec.allOnes 32) 0x10000 0 0 2 with readySince := some (sStep.dev.now + Config.elapsed sStep.tick) }
set_option maxRecDepth 100000 in
theorem test_step : sStep.agenda = [.issue 2 0] ∧
    (let d := sStep.advance.dev
     ∃ x w d1 pa sm, d.group? 2 = some x ∧ d.warp? 2 0 = some w ∧ x.ready w = true ∧ w.issuing ≠ 0 ∧ (w.pcOf (lowest w.issuing)).toNat = 0x10000
      ∧ d.translate x.core x.vf .fetch 0x10000 = (d1, .ok (pa, sm)) ∧ d1.fetchFault x.die 0x10000 pa = none ∧ d1.words x.grid pa = [0xE00000]
      ∧ x.hazard w (decode 0xE00000).instr = none ∧ d1.admits (decode 0xE00000).instr = true) := by
  refine ⟨by decide, { fixtureGroup 2 1 with warps := [warp0] }, warp0, _, 0x10000, false, by rfl, by rfl, by decide, by decide, by decide,
    pair_eq (by decide), by decide, by decide, by decide, by decide⟩

/-- An event that the part answers, one that it does not answer without power, and nothing queued. -/
theorem test_stepEvents :
    ({ s0 with agenda := [.event .powerLoss] } : State).dev.admits .powerLoss = true
    ∧ ({ s0.dev with power := false } : Dev).admits (.blendApply 1 0) = false
    ∧ State.reset.agenda = [] := by decide

/-- An arrival that rests and is to go on. -/
def warpGo : Warp := { warp with wait := [(0, .rest 4 .other), (1, .rest 4 .other)] }
def rested4 : Rested := ⟨4, 1, 0, 0x10000, 0xE00000, warpGo, .other, 0⟩
def sGo : State := { stateOf { devOf [warpGo] 0x18000 with rested := [rested4] } with agenda := [.resume 4] }
theorem test_resumes : sGo.agenda = [.resume 4] ∧ (let d := sGo.advance.dev
    d.rested.find? (·.arr == 4) = some rested4 ∧ ∃ w, d.group? 1 = some (groupOf [w]) ∧ d.warp? 1 0 = some w ∧ w.restingIn 4 ≠ 0
      ∧ d.admits (decode rested4.word).instr = true) :=
  ⟨rfl, rfl, warpGo, rfl, rfl, by decide, by decide⟩

/-- A matrix operation that has run its cycles commits before any free move. -/
def opOver : Op := { id := 7, src := x0.origin 3, done := 0, kind := .mmac [0, 0, 1, 0, 0x0202] 2 2 true 3 none 34 0, stall := none, started := 0, view := View.init }
def sDue : State := stateOf { devOf [warp] 0x18000 with ops := [opOver] }
theorem due_head (d : Dev) (o : Op) (rest : List Op) (h : d.ops = o :: rest) (ho : o.mmOver = true) (hh : d.halted = false) (hp : d.power = true) :
    ∃ is, d.due = .mmacCommit o.id :: is := by
  unfold Dev.due
  rw [hh, hp, h, List.filter_cons_of_pos ho]
  exact ⟨_, rfl⟩
theorem test_due : sDue.agenda = [] ∧ ∃ i is, sDue.advance.dev.due = i :: is := by
  refine ⟨rfl, ?_⟩
  obtain ⟨is, h⟩ := due_head sDue.advance.dev (Dev.mmPass { sDue.advance.dev with ops := [opOver] } (Config.elapsed sDue.tick) opOver) [] rfl
    (decide_eq_true (Nat.le_max_left 34 _)) rfl rfl
  exact ⟨_, is, h⟩

/-- A state with the invariants whose step answers. -/
theorem test_inv : (MgmtInv State.reset ∧ MgmtInv { s0 with agenda := [.event .powerLoss] }) ∧ MemInv { s0 with agenda := [.event .powerLoss] } ∧ ∃ t, step { s0 with agenda := [.event .powerLoss] } = .next t := by
  have h : ∀ s : State, s.mg = Mgmt.init → MgmtInv s := by
    intro s h
    unfold MgmtInv
    rw [h]
    exact ⟨by decide, by decide, by decide, fun e he => by cases he⟩
  exact ⟨⟨h _ rfl, h _ rfl⟩, ⟨by decide, by decide, by decide⟩, _, rfl⟩

/-! ### Outside -/

/-- The last eight bytes of a page, and the greatest node. -/
theorem test_outside : OwnRam s0.dev 0x60FF8 8 ∧ (0x60FF8 : Nat) % 8 = 0 ∧ (255 : Nat) ≠ s0.dev.cfg.node ∧ s0.dev.power = true ∧ s0.dev.halted = false :=
  ⟨⟨by decide, by decide, ⟨0, by decide⟩, rfl, rfl, by decide⟩, by decide, by decide, rfl, rfl⟩

/-! ### Warps and caches -/

/-- Whether a walk ends in a leaf. -/
def isLeafW (w : Walk) : Bool := match w with
  | .leaf .. => true
  | _ => false

/-- Lane 0 sleeps until 0 and lane 1 until 1; lane 0 is parked. -/
def warpS : Warp := { warp with wait := [(0, .sleep 0), (1, .sleep 1)] }
def warpK : Warp := { warp with park := [(0, some ⟨0x060, 0x60000, false, 0, 0x60000, 3⟩)] }
def warpK2 : Warp := { warp with park := [(0, some ⟨0x070, 0x80000000, false, 0, 0x80000000, 3⟩)] }
def sWarps (w : Warp) : State := stateOf (devOf [w] 0x18000)

theorem test_sleepers : (sWarps warpS).dev.group? 1 = some (groupOf [warpS]) ∧ (sWarps warpS).dev.warp? 1 0 = some warpS ∧ warpS.live.getLsbD 0 = true
    ∧ sleepOver (sWarps warpS).dev.now (look .none warpS.wait 0) = true ∧ sleepOver (sWarps warpS).dev.now (look .none warpS.wait 1) = false := by decide

theorem test_rested : sGo.dev.group? 1 = some (groupOf [warpGo]) ∧ sGo.dev.warp? 1 0 = some warpGo ∧ warpGo.restingIn 4 = 3 ∧ (groupOf [warpGo]).saving = none
    ∧ warpGo.held &&& warpGo.restingIn 4 = 0
    ∧ ∀ L, (3 : LaneSet).getLsbD L = true → sGo.dev.restOver (groupOf [warpGo]) warpGo (look .none warpGo.wait L) = true :=
  ⟨by decide, by decide, by decide, rfl, by decide,
    fun L h => lanes_all' (p := fun L => sGo.dev.restOver (groupOf [warpGo]) warpGo (look .none warpGo.wait L)) (by decide) L h⟩

/-- A parked sub-warp whose page is mapped, and one whose page is not, in a grid with a handler. -/
theorem test_rewalk : (sWarps warpK).dev.warp? 1 0 = some warpK ∧ (sWarps warpK).dev.serviceUp 0 = true
    ∧ (∀ L a h d5 d6, look Wait.none warpK.wait L ≠ .rest a (.segment h d5 d6))
    ∧ (∀ L p, look none warpK.park L = some p → p.arr = 3 ∧ ∃ e l, (sWarps warpK).dev.walk 0 0 p.va = .leaf e l)
    ∧ (sWarps warpK2).dev.warp? 1 0 = some warpK2 ∧ (∀ L a h d5 d6, look Wait.none warpK2.wait L ≠ .rest a (.segment h d5 d6))
    ∧ (look none warpK2.park 0).isSome = true ∧ (∀ e l, (sWarps warpK2).dev.walk 0 0 0x80000000 ≠ .leaf e l)
    ∧ warpK2.held = 0 ∧ warpK2.handler = 0 ∧ (sWarps warpK2).dev.tvecOf (groupOf [warpK2]) ≠ 0 := by
  refine ⟨by decide, by decide, fun _ _ _ _ _ => nofun, fun L p h => ?_, by decide, fun _ _ _ _ _ => nofun, by decide, fun e l h => ?_, rfl, rfl, by decide⟩
  · have : p = ⟨0x060, 0x60000, false, 0, 0x60000, 3⟩ := by
      cases L with
      | zero => exact (Option.some.inj h).symm
      | succ L => cases h
    subst this
    exact ⟨rfl, 0xF, 2, by decide⟩
  · have k : isLeafW ((sWarps warpK2).dev.walk 0 0 0x80000000) = false := by decide
    rw [h] at k
    cases k

/-- A dirty line of queue 3, which is enabled, and a register word of the group. -/
def sCache : State := stateOf { devOf [warp] 0 with l1 := [(383 * 2 ^ 45 + 9, 6)], owner := [(9, 5)], queues := [(3, { Queue.init with ctl := 0x13000000 })] }
theorem test_caches : sCache.dev.l1At 383 9 % 2 ^ 10 ≥ 3 ∧ look 0 sCache.dev.owner 9 = 2 + 3 ∧ (sCache.dev.queue 3).en = true
    ∧ sCache.dev.group? 1 = some (groupOf [warp]) ∧ sCache.dev.warp? 1 0 = some warp ∧ (groupOf [warp]).lr.holdsField 0 = true
    ∧ (groupOf [warp]).lr.holdsField 64 = true ∧ sCache.dev.tlbinv.getLsbD 5 = false := by decide

/-! ### Queues -/

/-- Queue 255 of function 1, enabled or not, with a request or not, and groups or none. -/
def sQueue (ctl : DWord) (gs : List Group) : State := stateOf { devOf [] 0 with groups := gs, queues := [(255, { Queue.init with ctl := ctl })] }
theorem test_queues : [(0x3000001 : DWord), 0x13000001, 0x13000081].all (fun ctl => [[], [{ groupOf [warp] with queue := 255 }]].all (fun gs =>
    1 == ((sQueue ctl gs).dev.queue 255).vf && ((sQueue ctl gs).dev.queue 255).kill.isNone
      && (((sQueue ctl gs).dev.queue 255).en == (ctl != 0x3000001)) && (((sQueue ctl gs).dev.queue 255).preq == (ctl == 0x13000081))
      && (sQueue ctl gs).dev.holdsGroups 255 == !gs.isEmpty)) = true := by decide

/-! ### The distributor -/

/-- A launch record of one group of 32 threads on core 0, as the fixture has it, in the first entry of a ring. -/
def dRing : Dev :=
  let d := devOf [] 0
  { d with
    groups := [], grids := [], mem := Memory.writeBytes d.mem 0x40000 ([0x8000000000010000, 0, fixtureRec.d2, fixtureRec.d3, 0, 0, 0, 0].flatMap (fun (e : DWord) => toBytes 8 e.toNat))
    vfs := [(0, { Vf.init with ctl := 0x70FFFF })], parts := [(0, ⟨1, 0⟩)], clus := [(0, { Clu.init with resident := some 0 })]
    queues := [(0, { Queue.init with ring := 0x40000, idx := 0x50000, ctl := 0x13000000 })] }
def sRing : State := stateOf dRing

/-- What an examination takes. -/
def takes (r : Dev × Nat × Except Flt Found) : Option (Nat × Nat × LaunchRec) :=
  match r with
  | (_, c, .ok (.take n l)) => some (c, n, l)
  | _ => none
theorem takes_eq {r : Dev × Nat × Except Flt Found} {c n : Nat} {l : LaunchRec} (h : takes r = some (c, n, l)) : r = (r.1, c, .ok (.take n l)) := by
  unfold takes at h
  split at h
  · cases h; rfl
  · cases h

set_option maxRecDepth 100000 in
theorem test_consume : let k := sRing.dev.queue 0
    sRing.dev.running 0 = true ∧ k.stall = none ∧ (sRing.dev.gridsOf 0).any Grid.more = false
    ∧ ∃ d1 r d2 pa d3 pi, sRing.dev.examine 0 = (d1, 0, .ok (.take 0 r)) ∧ d1.vplace k.vf 0 .st (k.ringBase + 64 * (0 % k.slots)) 8 = (d2, .ok pa)
      ∧ d2.vplace k.vf 0 .st (k.idxAddr + 8) 8 = (d3, .ok pi) := by
  exact ⟨by decide, by decide, by decide, _, { fixtureRec with d0 := 0x8000000000010000 }, _, 0x40000, _, 0x50008, takes_eq (by decide), pair_eq (by decide),
    pair_eq (by decide)⟩

/-- A record of one group of one warp with the fewest registers, no tile and no window. -/
def recSmall : LaunchRec := { fixtureRec with d2 := 0x2000000001, d3 := 0x100000000 }
/-- A grid that deals it to core 0. -/
def gridSmall : Grid := { fixtureGrid 1 with lr := recSmall, next := 0, deal := some (0, false) }
def dPlace : Dev := { dRing with grids := [gridSmall] }
def sPlace : State := stateOf dPlace
set_option maxRecDepth 100000 in
theorem test_place : sPlace.dev.pickQueue 0 = some 0 ∧ sPlace.dev.candidate 0 = some (gridSmall, .fresh 0, 0) := ⟨by decide, by rfl⟩

/-- The group of the tests as a group of that grid, and what its voluntary save leaves in one page of the save area at 0x4_0000. -/
def groupKept : Group := { groupOf [warp] with lr := recSmall }
def keptBytes : List Byte := groupKept.saveBytes 0 false
def saved0 : Saved := groupKept.savedAt 0 0 1984 false
def queueSaved : Queue := { Queue.init with ctl := 0x13000000, save := 0x40000, saved := [saved0], fill := 1984 }
def sRestore : State :=
  stateOf { dPlace with grids := [{ gridSmall with next := 1 }], queues := [(0, queueSaved)], mem := Memory.writeBytes (devOf [] 0).mem 0x40000 keptBytes }

/-- What a unit of a die meets at a page, as a check. -/
def mappedB (d : Dev) (f die : Nat) (acc : Acc) (va n pa : Nat) : Bool :=
  decide (va < 2 ^ 56) && (match d.walk die f va with
    | .leaf e l => (d.tlbFor (384 + die) f va).all (· == .leaf e l) && pa == d.cfg.norm (leafPa e l va) && (d.permit f acc e pa).isNone
    | _ => false) && (d.unreached die (d.cfg.place pa)).isNone && (d.badAt pa n).isNone
theorem mapped_of {d : Dev} {f die : Nat} {acc : Acc} {va n pa : Nat} (h : mappedB d f die acc va n pa = true) : Mapped d f die acc va n pa := by
  unfold mappedB at h
  simp only [Bool.and_eq_true, decide_eq_true_eq, Option.isNone_iff_eq_none] at h
  obtain ⟨⟨⟨h1, h2⟩, h3⟩, h4⟩ := h
  refine ⟨h1, ?_, h3, h4⟩
  split at h2
  · next e l hw =>
    simp only [Bool.and_eq_true, beq_iff_eq, Option.isNone_iff_eq_none] at h2
    exact ⟨e, l, hw, h2.1.1, h2.1.2, h2.2⟩
  · cases h2

set_option maxRecDepth 100000 in
theorem test_restore : sRestore.dev.pickQueue 0 = some 0 ∧ sRestore.dev.candidate 0 = some ({ gridSmall with next := 1 }, .saved saved0, 0)
    ∧ pagesOf ((sRestore.dev.queue 0).saveBase + saved0.off) saved0.len = [(0x40000, 1984)]
    ∧ (∀ c ∈ [(0x40000, 1984)], Mapped sRestore.dev 0 0 (.ld false) c.1 c.2 c.1)
    ∧ groupKept.warps.length = groupKept.lr.nwarps ∧ saved0 = groupKept.savedAt 0 saved0.off saved0.len false
    ∧ heldIn sRestore.dev.mem [(0x40000, 1984)] = groupKept.saveBytes 0 false := by
  refine ⟨by decide +kernel, by rfl, by decide, fun c hc => ?_, by decide, rfl, ?_⟩
  · rw [List.mem_singleton] at hc
    subst hc
    exact mapped_of (by decide +kernel)
  · have h := readBytes_writeBytes keptBytes (devOf [] 0).mem 0x40000
    rw [show keptBytes.length = 1984 by decide +kernel] at h
    have e : sRestore.dev.mem = Memory.writeBytes (devOf [] 0).mem 0x40000 keptBytes := rfl
    simp only [heldIn, e, List.flatMap_cons, List.flatMap_nil, List.append_nil]
    exact h

/-- A finished group, without and with a copy outstanding; and a killed queue with nothing left, and one that waits. -/
def warpDead : Warp := { warp with live := 0 }
def opOld : Op := { id := 7, src := x0.origin 3, done := 0, kind := .copy [] 0 0 0 0 0, stall := none, started := 0, view := View.init }
def groupDead (b : Bool) : Group := { groupOf [warpDead] with tailed := b, tracker := b }
def sDead (b : Bool) : State :=
  stateOf { devOf [] 0 with groups := [groupDead b], ops := if b then [opOld] else [], queues := [(7, { Queue.init with ctl := 0x13000000, kill := some 0 })] }
def sKillHeld : State := stateOf { devOf [] 0 with groups := [groupDead true], ops := [opOld], queues := [(0, { Queue.init with ctl := 0x13000000, kill := some 0 })] }
theorem test_free : [false, true].all (fun b => (sDead b).dev.group? 1 == some (groupDead b) && (groupDead b).finished && (sDead b).dev.outstanding 1 == b
      && !(sDead b).dev.killHolds 0 && (groupDead b).tailed == b && (groupDead b).tracker == b && !(groupDead b).freed) = true
    ∧ ((sDead true).dev.queue 7).kill ≠ none ∧ (sDead true).dev.groups.any (·.queue == 7) = false ∧ (sDead true).dev.killHolds 7 = false
    ∧ sKillHeld.dev.killHolds 0 = true ∧ sKillHeld.dev.group? 1 = some (groupDead true) := by decide

/-! ### Pre-emption -/

/-- A group of queue 0 with a request, at 200,000 cycles. -/
def groupPre (saving : Option (Nat × Bool)) (holds : List (Nat × Nat)) : Group :=
  { groupOf [warp] with lr := recSmall, pre := { PreReq.no with preq := true }, saving := saving, holds := holds }
def sPre (saving : Option (Nat × Bool)) (holds : List (Nat × Nat)) : State :=
  stateOf { devOf [] 0 with now := 200000, groups := [groupPre saving holds], queues := [(0, { Queue.init with save := 0x40000, ctl := 0x130D4000 })] }
set_option maxRecDepth 100000 in
theorem test_preempt :
    (let s := sPre none [];
      s.dev.group? 1 = some (groupPre none []) ∧ (groupPre none []).pre.timed = true ∧ (groupPre none []).finished = false
      ∧ (groupPre none []).preAt + (s.dev.queue 0).dl ≤ s.dev.now)
    ∧ (let s := sPre (some (0, false)) [];
      let x := groupPre (some (0, false)) [];
      s.dev.busy x = false ∧ (s.dev.queue 0).kill = none ∧ x.stall = none ∧ s.dev.spoilt x false = false ∧ s.dev.lags = []
      ∧ (s.dev.queue 0).fill + (x.saveBytes s.dev.now false).length ≤ (s.dev.queue 0).saveSize - 2 ^ 16
      ∧ ∃ d1 ps, s.dev.vpages x.vf x.die .st (pagesOf ((s.dev.queue 0).saveBase + (s.dev.queue 0).fill) (x.saveBytes s.dev.now false).length) = (d1, .ok ps))
    ∧ (let s := sPre (some (0, true)) [(0, 9)];
      s.dev.busy (groupPre (some (0, true)) [(0, 9)]) = true ∧ (s.dev.queue 0).kill = none ∧ 0 + (s.dev.queue 0).dl ≤ s.dev.now) := by
  refine ⟨by decide, ⟨by decide, by decide, by decide, by decide, by decide, by decide, ?_⟩, by decide⟩
  obtain ⟨b, h, -⟩ := ok_with (r := (sPre (some (0, false)) []).dev.vpages 0 0 .st (pagesOf ((sPre (some (0, false)) []).dev.queue 0 |>.saveBase)
    ((groupPre (some (0, false)) []).saveBytes 200000 false).length)) (fun _ => true) (by decide)
  exact ⟨_, b, h⟩

/-- That copy, 1,700,000 cycles after the kill of its queue began. -/
def sOld : State := stateOf { devOf [] 0 with now := 1700000, ops := [opOld], queues := [(0, { Queue.init with ctl := 0x13000000, kill := some 0 })] }
theorem test_oldOps : sOld.dev.op? 7 = some opOld ∧ (sOld.dev.queue opOld.src.queue).kill = some 0 ∧ 0 + 1700000 ≤ sOld.dev.now := by decide

/-! ### Tenancy -/

/-- Cluster 47 in a state of its tenancy, without groups. -/
def sClu (k : Clu) (now : Nat) : State :=
  stateOf { devOf [] 0 with groups := [], now := now, clus := [(47, k)], vfs := [(15, { Vf.init with ctl := 0x70FFFF })],
                            queues := [(3, { Queue.init with ctl := 0x1300000F })] }
/-- Clauses: a request on a cluster that none holds and on one that another holds, a completion, the start, the timeout and the completion of
a revocation, the disabling of a function with an enabled queue, and a layout that a cluster still runs under. -/
theorem test_tenancy :
    ((sClu Clu.init 0).dev.clu 47).target = none ∧ ((sClu Clu.init 0).dev.clu 47).resident = none
    ∧ ((sClu { Clu.init with resident := some 0 } 0).dev.clu 47).resident = some 0
    ∧ (((sClu { Clu.init with target := some 15 } 0).dev.clu 47).target = some 15 ∧ (sClu { Clu.init with target := some 15 } 0).dev.groupsAt 47 = [])
    ∧ (let k := { Clu.init with borrower := some 2 };
       ((sClu k 0).dev.clu 47).borrower ≠ none ∧ ((sClu k 0).dev.clu 47).revoke = none)
    ∧ (let k := { Clu.init with borrower := some 2, revoke := some 0 };
       ((sClu k 85000).dev.clu 47).revoke = some 0 ∧ 0 + 85000 ≤ (sClu k 85000).dev.now ∧ ((sClu k 85000).dev.clu 47).borrower ≠ none
       ∧ (sClu k 85000).dev.borrowed 47 = [])
    ∧ ((look Vf.init (sClu Clu.init 0).dev.vfs 15).ctl.getLsbD 22 = true ∧ ((sClu Clu.init 0).dev.queue 3).vf = 15
      ∧ ((sClu Clu.init 0).dev.queue 3).en = true ∧ (keysOf (sClu Clu.init 0).dev.drones).Nodup)
    ∧ ((sClu Clu.init 0).dev.bienoHeld.contains 0 = false ∧ (sClu Clu.init 0).mg.prep = (sClu Clu.init 0).mg.lgen
      ∧ ({ Mgmt.init with prep := 1 } : Mgmt).prep = Mgmt.init.lgen + 1)
    ∧ (let k := { Clu.init with layout := some [] };
       ((sClu k 0).dev.clu 47).layout ≠ none ∧ (sClu k 0).dev.groupsAt 47 = []) := by decide

end Sys2Proof.Tests
end

