-- ==== Sys2Proof/Tests/Slice0.lean ====
section
/-!
SUPPORT. Words written out from the encodings of the spec (R36 to R50), with the instruction that each stands for; words that
each check of R51 refuses, and ill-formed terms; the fetch of a placed word; and single steps whose results the spec states.
-/
namespace Sys2Proof.Tests
open Machine

/-! ### Words (R36, R37, R39, R43, R49, R50): the fields are laid out by hand, not by the encoder -/

/-- Every word decodes to its instruction, whose word it is. -/
def decodes (l : List (BitVec 64 × Instr)) : Bool :=
  l.all (fun p => okIs (decode p.1) p.2 && encode p.2 == some p.1)

theorem test_words_row0a : decodes
  [ (0x0000000000E00000, .nop ⟨(.v 0), (.v 0), (.v 0), (.v 0), false, 7, .i32, 0, 0x0⟩),
    (0x0020000000E01FF6, .bra ⟨(.v 0), (.v 0), (.v 0), (.v 0), false, 7, .i32, 0, 0x1FF6⟩),
    (0x0040008000E07FFE, .brc ⟨(.v 0), (.v 1), (.v 0), (.v 0), false, 7, .i32, 3, 0x1FFE⟩),
    (0x0060020000E00000, .brx ⟨(.v 0), (.v 4), (.v 0), (.v 0), false, 7, .i32, 0, 0x0⟩),
    (0x0081000000E00010, .call ⟨(.v 4), (.v 0), (.v 0), (.v 0), false, 7, .i32, 0, 0x10⟩),
    (0x00A0020000E00000, .ret ⟨(.v 0), (.v 4), (.v 0), (.v 0), false, 7, .i32, 0, 0x0⟩),
    (0x00C0000000E00000, .exit ⟨(.v 0), (.v 0), (.v 0), (.v 0), false, 7, .i32, 0, 0x0⟩),
    (0x00E0000000E00000, .tail ⟨(.v 0), (.v 0), (.v 0), (.v 0), false, 7, .i32, 0, 0x0⟩),
    (0x0100000001400000, .ypt ⟨(.v 0), (.v 0), (.v 0), (.v 0), true, 2, .i32, 0, 0x0⟩),
    (0x013AC00000E00000, .mjoin ⟨(.m 3), (.v 0), (.v 0), (.v 0), false, 7, .i32, 0, 0x0⟩),
    (0x015CC00000E00000, .mleave ⟨(.m 11), (.v 0), (.v 0), (.v 0), false, 7, .i32, 0, 0x0⟩),
    (0x0160358000E00000, .mwait ⟨(.v 0), (.m 3), (.v 0), (.v 0), false, 7, .i32, 0, 0x0⟩) ] = true := by decide

theorem test_words_row0b : decodes
  [ (0x019CE10000E00000, .mset ⟨(.m 11), (.s 2), (.v 0), (.v 0), false, 7, .i32, 0, 0x0⟩),
    (0x01A1748000E00000, .mget ⟨(.v 5), (.m 1), (.v 0), (.v 0), false, 7, .i32, 0, 0x0⟩),
    (0x01C0000000E00000, .serb ⟨(.v 0), (.v 0), (.v 0), (.v 0), false, 7, .i32, 0, 0x0⟩),
    (0x01E0000000E00000, .sere ⟨(.v 0), (.v 0), (.v 0), (.v 0), false, 7, .i32, 0, 0x0⟩),
    (0x0202400300E22005, .rgn ⟨(.v 9), (.v 0), (.v 3), (.v 0), false, 7, .n32, 1, 0x5⟩),
    (0x0220000000E00007, .bar ⟨(.v 0), (.v 0), (.v 0), (.v 0), false, 7, .i32, 0, 0x7⟩),
    (0x0240000000E0000F, .bara ⟨(.v 0), (.v 0), (.v 0), (.v 0), false, 7, .i32, 0, 0xF⟩),
    (0x0260000000E00001, .barw ⟨(.v 0), (.v 0), (.v 0), (.v 0), false, 7, .i32, 0, 0x1⟩),
    (0x02803F8000E00FFF, .sleep ⟨(.v 0), .imm, (.v 0), (.v 0), false, 7, .i32, 0, 0xFFF⟩),
    (0x02A020FF00E00009, .lnch ⟨(.v 0), (.s 1), .imm, (.v 0), false, 7, .i32, 0, 0x9⟩),
    (0x02C03FC300E02005, .semsig ⟨(.v 0), .imm, (.s 3), (.v 0), false, 7, .i32, 1, 0x5⟩),
    (0x02F122C600E00000, .semwt ⟨(.s 4), (.s 5), (.s 6), (.v 0), false, 7, .i32, 0, 0x0⟩) ] = true := by decide

theorem test_words_row1a : decodes
  [ (0x0400410300E02000, .add ⟨(.v 1), (.v 2), (.v 3), (.v 0), false, 7, .i32, 1, 0x0⟩),
    (0x0430617F00E21FF4, .sub ⟨(.s 1), (.s 2), .imm, (.v 0), false, 7, .n32, 0, 0x1FF4⟩),
    (0x0440820600E60000, .mul ⟨(.v 2), (.v 4), (.v 6), (.v 0), false, 7, .n64, 0, 0x0⟩),
    (0x04607D5F00E20000, .mulh ⟨(.v 1), .tid, (.s 31), (.v 0), false, 7, .n32, 0, 0x0⟩),
    (0x0482858C1AEA0000, .mad ⟨(.v 10), (.v 11), (.v 12), (.v 13), false, 7, .n16, 0, 0x0⟩),
    (0x04A0417F00E80007, .div ⟨(.v 1), (.v 2), .imm, (.v 0), false, 7, .i16, 0, 0x7⟩),
    (0x04C07CBF00EE0000, .rem ⟨(.v 1), .lane, (.v 63), (.v 0), false, 7, .n8, 0, 0x0⟩),
    (0x04E0410300EC0000, .min ⟨(.v 1), (.v 2), (.v 3), (.v 0), false, 7, .i8, 0, 0x0⟩),
    (0x0500013E00E40000, .max ⟨(.v 0), (.v 2), (.v 62), (.v 0), false, 7, .i64, 0, 0x0⟩),
    (0x0520410000E80000, .abs ⟨(.v 1), (.v 2), (.v 0), (.v 0), false, 7, .i16, 0, 0x0⟩),
    (0x0551E40000E20000, .neg ⟨(.s 7), (.s 8), (.v 0), (.v 0), false, 7, .n32, 0, 0x0⟩),
    (0x0560817F00E2000F, .and ⟨(.v 2), (.v 2), .imm, (.v 0), false, 7, .n32, 0, 0xF⟩),
    (0x0598716300E20000, .or ⟨(.p 1), (.p 2), (.p 3), (.v 0), false, 7, .n32, 0, 0x0⟩),
    (0x05A07E7D00E20000, .xor ⟨(.v 1), .gid, .nthr, (.v 0), false, 7, .n32, 0, 0x0⟩),
    (0x05C07F0000E20000, .not ⟨(.v 1), .pcv, (.v 0), (.v 0), false, 7, .n32, 0, 0x0⟩) ] = true := by decide

theorem test_words_row1b : decodes
  [ (0x05E07C7B00EA0000, .andn ⟨(.v 1), .zero, .wid, (.v 0), false, 7, .n16, 0, 0x0⟩),
    (0x0600417F00E2001F, .shl ⟨(.v 1), (.v 2), .imm, (.v 0), false, 7, .n32, 0, 0x1F⟩),
    (0x0620820500E60000, .shr ⟨(.v 2), (.v 4), (.v 5), (.v 0), false, 7, .n64, 0, 0x0⟩),
    (0x0640414300E00000, .sar ⟨(.v 1), (.v 2), (.s 3), (.v 0), false, 7, .i32, 0, 0x0⟩),
    (0x0660410300EE0000, .rot ⟨(.v 1), (.v 2), (.v 3), (.v 0), false, 7, .n8, 0, 0x0⟩),
    (0x0680410000E20000, .clz ⟨(.v 1), (.v 2), (.v 0), (.v 0), false, 7, .n32, 0, 0x0⟩),
    (0x06A0820000E60000, .popc ⟨(.v 2), (.v 4), (.v 0), (.v 0), false, 7, .n64, 0, 0x0⟩),
    (0x06C0410000EA0000, .brev ⟨(.v 1), (.v 2), (.v 0), (.v 0), false, 7, .n16, 0, 0x0⟩),
    (0x06E04103FEE00008, .bfe ⟨(.v 1), (.v 2), (.v 3), .imm, false, 7, .i32, 0, 0x8⟩),
    (0x0700417F08E20004, .bfi ⟨(.v 1), (.v 2), .imm, (.v 4), false, 7, .n32, 0, 0x4⟩),
    (0x07204103CAF00000, .sel ⟨(.v 1), (.v 2), (.v 3), (.p 5), false, 7, .f32, 0, 0x0⟩),
    (0x0759817F00E241F0, .cmp ⟨(.p 6), (.v 2), .imm, (.v 0), false, 7, .n32, 2, 0x1F0⟩),
    (0x0760A207FEE6C008, .lea ⟨(.v 2), (.s 4), (.v 7), .imm, false, 7, .n64, 6, 0x8⟩),
    (0x0780828000E00000, .sext ⟨(.v 2), (.v 5), (.v 0), (.v 0), false, 7, .i32, 0, 0x0⟩),
    (0x07A0C28000EE0000, .zext ⟨(.v 3), (.v 5), (.v 0), (.v 0), false, 7, .n8, 0, 0x0⟩) ] = true := by decide

theorem test_words_row2 : decodes
  [ (0x08006F8000E00000, .mov ⟨(.v 1), (.s 31), (.v 0), (.v 0), false, 7, .i32, 0, 0x0⟩),
    (0x08207F8000E20FFF, .li ⟨(.v 1), .imm, (.v 0), (.v 0), false, 7, .n32, 0, 0xFFF⟩),
    (0x0840417F00E26010, .shfl ⟨(.v 1), (.v 2), .imm, (.v 0), false, 7, .n32, 3, 0x10⟩),
    (0x0860710000E04000, .vote ⟨(.v 1), (.p 2), (.v 0), (.v 0), false, 7, .i32, 2, 0x0⟩),
    (0x0880414300F00000, .bcst ⟨(.v 1), (.v 2), (.s 3), (.v 0), false, 7, .f32, 0, 0x0⟩),
    (0x08A0410000E12000, .scan ⟨(.v 1), (.v 2), (.v 0), (.v 0), false, 7, .i32, 9, 0x0⟩),
    (0x08DDC10000E2A000, .vred ⟨(.q 3), (.v 2), (.v 0), (.v 0), false, 7, .n32, 5, 0x0⟩),
    (0x08F07B7F00E00003, .qget ⟨(.s 1), (.q 2), .imm, (.v 0), false, 7, .i32, 0, 0x3⟩),
    (0x0918C00000E00000, .elect ⟨(.p 3), (.v 0), (.v 0), (.v 0), false, 7, .i32, 0, 0x0⟩),
    (0x0920410000E00000, .vshp ⟨(.v 1), (.v 2), (.v 0), (.v 0), false, 7, .i32, 0, 0x0⟩) ] = true := by decide

theorem test_words_row3a : decodes
  [ (0x0C00410300F06000, .fadd ⟨(.v 1), (.v 2), (.v 3), (.v 0), false, 7, .f32, 3, 0x0⟩),
    (0x0C30617800F04000, .fsub ⟨(.s 1), (.s 2), .zero, (.v 0), false, 7, .f32, 2, 0x0⟩),
    (0x0C40410300F00000, .fmul ⟨(.v 1), (.v 2), (.v 3), (.v 0), false, 7, .f32, 0, 0x0⟩),
    (0x0C61808206702000, .ffma ⟨(.v 6), (.v 1), (.v 2), (.v 3), false, 3, .f32, 1, 0x0⟩),
    (0x0C80410300F00000, .fdiv ⟨(.v 1), (.v 2), (.v 3), (.v 0), false, 7, .f32, 0, 0x0⟩),
    (0x0CA0410000F02000, .fsqrt ⟨(.v 1), (.v 2), (.v 0), (.v 0), false, 7, .f32, 1, 0x0⟩),
    (0x0CC0410000F00000, .frcp ⟨(.v 1), (.v 2), (.v 0), (.v 0), false, 7, .f32, 0, 0x0⟩),
    (0x0CE0410000F00000, .frsq ⟨(.v 1), (.v 2), (.v 0), (.v 0), false, 7, .f32, 0, 0x0⟩),
    (0x0D00410000F00000, .fexp2 ⟨(.v 1), (.v 2), (.v 0), (.v 0), false, 7, .f32, 0, 0x0⟩),
    (0x0D20410000F00000, .flog2 ⟨(.v 1), (.v 2), (.v 0), (.v 0), false, 7, .f32, 0, 0x0⟩) ] = true := by decide

theorem test_words_row3b : decodes
  [ (0x0D40410000F00000, .fsinpi ⟨(.v 1), (.v 2), (.v 0), (.v 0), false, 7, .f32, 0, 0x0⟩),
    (0x0D60410000F00000, .fcospi ⟨(.v 1), (.v 2), (.v 0), (.v 0), false, 7, .f32, 0, 0x0⟩),
    (0x0D80410300F00000, .fmin ⟨(.v 1), (.v 2), (.v 3), (.v 0), false, 7, .f32, 0, 0x0⟩),
    (0x0DA0410300F00000, .fmax ⟨(.v 1), (.v 2), (.v 3), (.v 0), false, 7, .f32, 0, 0x0⟩),
    (0x0DD8410300F0E000, .fcmp ⟨(.p 1), (.v 2), (.v 3), (.v 0), false, 7, .f32, 7, 0x0⟩),
    (0x0DE0410000F06000, .frnd ⟨(.v 1), (.v 2), (.v 0), (.v 0), false, 7, .f32, 3, 0x0⟩),
    (0x0E00410000F70005, .fcvt ⟨(.v 1), (.v 2), (.v 0), (.v 0), false, 7, .e4m3, 8, 0x5⟩),
    (0x0E20810000E48000, .f2i ⟨(.v 2), (.v 2), (.v 0), (.v 0), false, 7, .i64, 4, 0x0⟩),
    (0x0E407F8000E24064, .i2f ⟨(.v 1), .imm, (.v 0), (.v 0), false, 7, .n32, 2, 0x64⟩),
    (0x0E60410000F80000, .fclass ⟨(.v 1), (.v 2), (.v 0), (.v 0), false, 7, .e5m2, 0, 0x0⟩) ] = true := by decide

theorem test_words_row4 : decodes
  [ (0x1000410300F00000, .bexp ⟨(.v 1), (.v 2), (.v 3), (.v 0), false, 7, .f32, 0, 0x0⟩),
    (0x1020410300F0A000, .bpack ⟨(.v 1), (.v 2), (.v 3), (.v 0), false, 7, .f32, 5, 0x0⟩),
    (0x1040410000E14000, .bscl ⟨(.v 1), (.v 2), (.v 0), (.v 0), false, 7, .i32, 10, 0x0⟩),
    (0x1060417F00E12021, .bhdr ⟨(.v 1), (.v 2), .imm, (.v 0), false, 7, .i32, 9, 0x21⟩),
    (0x1080410308FA0000, .ndot ⟨(.v 1), (.v 2), (.v 3), (.v 4), false, 7, .e2m1, 0, 0x0⟩),
    (0x10A0400000F00000, .rnd ⟨(.v 1), (.v 0), (.v 0), (.v 0), false, 7, .f32, 0, 0x0⟩) ] = true := by decide

theorem test_words_row5 : decodes
  [ (0x1401E10700E24000, .ld ⟨(.v 7), (.s 2), (.v 7), (.v 0), false, 7, .n32, 2, 0x0⟩),
    (0x1420210710EF7FFF, .st ⟨(.v 0), (.s 2), (.v 7), (.v 8), false, 7, .n8, 11, 0x1FFF⟩),
    (0x1450617800E80040, .lsp ⟨(.s 1), (.s 2), .zero, (.v 0), false, 7, .i16, 0, 0x40⟩),
    (0x14602101F0E66000, .ssp ⟨(.v 0), (.s 2), (.v 1), .zero, false, 7, .n64, 3, 0x0⟩),
    (0x1480A17800E40000, .lhv ⟨(.v 2), (.s 2), .zero, (.v 0), false, 7, .i64, 0, 0x0⟩),
    (0x14A0210106E20000, .shv ⟨(.v 0), (.s 2), (.v 1), (.v 3), false, 7, .n32, 0, 0x0⟩),
    (0x14C0E10108F0C112, .atom ⟨(.v 3), (.s 2), (.v 1), (.v 4), false, 7, .f32, 6, 0x112⟩),
    (0x14E0A10108E6004F, .cas ⟨(.v 2), (.s 2), (.v 1), (.v 4), false, 7, .n64, 0, 0x4F⟩),
    (0x1500217808E08012, .red ⟨(.v 0), (.s 2), .zero, (.v 4), false, 7, .i32, 4, 0x12⟩),
    (0x1520000000E24000, .fence ⟨(.v 0), (.v 0), (.v 0), (.v 0), false, 7, .n32, 2, 0x0⟩),
    (0x1558610300E06008, .pchk ⟨(.p 1), (.s 2), (.v 3), (.v 0), false, 7, .i32, 3, 0x8⟩),
    (0x1560217800E00020, .pclr ⟨(.v 0), (.s 2), .zero, (.v 0), false, 7, .i32, 0, 0x20⟩),
    (0x1580210300E08000, .pfch ⟨(.v 0), (.s 2), (.v 3), (.v 0), false, 7, .i32, 4, 0x0⟩) ] = true := by decide

theorem test_words_row6 : decodes
  [ (0x1800240000E00000, .cpy ⟨(.v 0), (.s 8), (.v 0), (.v 0), false, 7, .i32, 0, 0x0⟩),
    (0x1820248000E00000, .cjob ⟨(.v 0), (.s 9), (.v 0), (.v 0), false, 7, .i32, 0, 0x0⟩),
    (0x1852627F00E00003, .cwait ⟨(.s 9), (.s 4), .imm, (.v 0), false, 7, .i32, 0, 0x3⟩),
    (0x1870610000E00000, .cpoll ⟨(.s 1), (.s 2), (.v 0), (.v 0), false, 7, .i32, 0, 0x0⟩),
    (0x1880250000F08000, .coll ⟨(.v 0), (.s 10), (.v 0), (.v 0), false, 7, .f32, 4, 0x0⟩) ] = true := by decide

theorem test_words_row7 : decodes
  [ (0x1C0025000066E012, .mmac ⟨(.v 0), (.s 10), (.v 0), (.v 0), false, 3, .n64, 7, 0x12⟩),
    (0x1C20000000E00007, .mzero ⟨(.v 0), (.v 0), (.v 0), (.v 0), false, 7, .i32, 0, 0x7⟩),
    (0x1C40214300F40004, .mload ⟨(.v 0), (.s 2), (.s 3), (.v 0), false, 7, .bf16, 0, 0x4⟩),
    (0x1C60220000E2A019, .mdrain ⟨(.v 0), (.s 4), (.v 0), (.v 0), false, 7, .n32, 5, 0x19⟩),
    (0x1C90C00000E00000, .mstat ⟨(.s 3), (.v 0), (.v 0), (.v 0), false, 7, .i32, 0, 0x0⟩) ] = true := by decide

theorem test_words_row8 : decodes
  [ (0x2000210000E00011, .sbind ⟨(.v 0), (.s 2), (.v 0), (.v 0), false, 7, .i32, 0, 0x11⟩),
    (0x2021028600E00007, .sld ⟨(.v 4), (.v 5), (.v 6), (.v 0), false, 7, .i32, 0, 0x7⟩),
    (0x2040008206E20007, .sst ⟨(.v 0), (.v 1), (.v 2), (.v 3), false, 7, .n32, 0, 0x7⟩),
    (0x206002050CE00001, .sstc ⟨(.v 0), (.v 4), (.v 5), (.v 6), false, 7, .i32, 0, 0x1⟩),
    (0x2080244900E00001, .sres ⟨(.v 0), (.s 8), (.s 9), (.v 0), false, 7, .i32, 0, 0x1⟩) ] = true := by decide

theorem test_words_row9 : decodes
  [ (0x2418A20900E02000, .cullbf ⟨(.p 2), (.s 4), (.v 9), (.v 0), false, 7, .i32, 1, 0x0⟩),
    (0x2438A20900E00000, .cullfr ⟨(.p 2), (.s 4), (.v 9), (.v 0), false, 7, .i32, 0, 0x0⟩),
    (0x2458A20900E00000, .cullsm ⟨(.p 2), (.s 4), (.v 9), (.v 0), false, 7, .i32, 0, 0x0⟩),
    (0x2478A20900E00000, .cullhz ⟨(.p 2), (.s 4), (.v 9), (.v 0), false, 7, .i32, 0, 0x0⟩),
    (0x2480220914E00000, .pexp ⟨(.v 0), (.s 4), (.v 9), (.v 10), false, 7, .i32, 0, 0x0⟩),
    (0x24A5050C00E00000, .isectb ⟨(.v 20), (.v 10), (.v 12), (.v 0), false, 7, .i32, 0, 0x0⟩),
    (0x24C5054C00E00000, .isectt ⟨(.v 20), (.v 10), (.s 12), (.v 0), false, 7, .i32, 0, 0x0⟩),
    (0x24E0028000E00000, .pix ⟨(.v 0), (.v 5), (.v 0), (.v 0), false, 7, .i32, 0, 0x0⟩),
    (0x2500000000E00000, .fdisc ⟨(.v 0), (.v 0), (.v 0), (.v 0), false, 7, .i32, 0, 0x0⟩),
    (0x2520018000E00000, .fdep ⟨(.v 0), (.v 3), (.v 0), (.v 0), false, 7, .i32, 0, 0x0⟩) ] = true := by decide

theorem test_words_row10 : decodes
  [ (0x28116347FEE023FF, .mbsend ⟨(.s 5), (.s 6), (.s 7), .imm, false, 7, .i32, 1, 0x3FF⟩),
    (0x2831634700E00000, .mbrecv ⟨(.s 5), (.s 6), (.s 7), (.v 0), false, 7, .i32, 0, 0x0⟩),
    (0x28517F8000E00011, .mbpoll ⟨(.s 5), .imm, (.v 0), (.v 0), false, 7, .i32, 0, 0x11⟩),
    (0x28603F8000E00003, .mbver ⟨(.v 0), .imm, (.v 0), (.v 0), false, 7, .i32, 0, 0x3⟩),
    (0x2880000000E00000, .pbopen ⟨(.v 0), (.v 0), (.v 0), (.v 0), false, 7, .i32, 0, 0x0⟩),
    (0x28A0000000E00000, .pbx ⟨(.v 0), (.v 0), (.v 0), (.v 0), false, 7, .i32, 0, 0x0⟩),
    (0x28C00A1500F00000, .pacc ⟨(.v 0), (.v 20), (.v 21), (.v 0), false, 7, .f32, 0, 0x0⟩),
    (0x28F1800000E02000, .pbstat ⟨(.s 6), (.v 0), (.v 0), (.v 0), false, 7, .i32, 1, 0x0⟩) ] = true := by decide

theorem test_words_row11 : decodes
  [ (0x2C11000000E34000, .csrr ⟨(.s 4), (.v 0), (.v 0), (.v 0), false, 7, .n32, 10, 0x0⟩),
    (0x2C203F8000E40040, .csrw ⟨(.v 0), .imm, (.v 0), (.v 0), false, 7, .i64, 0, 0x40⟩),
    (0x2C40210000E10000, .csrs ⟨(.v 0), (.s 2), (.v 0), (.v 0), false, 7, .i32, 8, 0x0⟩),
    (0x2C60040000E12000, .csrc ⟨(.v 0), (.v 8), (.v 0), (.v 0), false, 7, .i32, 9, 0x0⟩),
    (0x2C80000000E00ABC, .trap ⟨(.v 0), (.v 0), (.v 0), (.v 0), false, 7, .i32, 0, 0xABC⟩),
    (0x2CA0000000E00000, .eret ⟨(.v 0), (.v 0), (.v 0), (.v 0), false, 7, .i32, 0, 0x0⟩),
    (0x2CC0000000E0000F, .brk ⟨(.v 0), (.v 0), (.v 0), (.v 0), false, 7, .i32, 0, 0xF⟩) ] = true := by decide

theorem test_words_long : decodes
  [ (0x8020000000002000, .braL ⟨(.v 0), (.v 0), .i32, 0, 0x2000⟩),
    (0x8040011DFFFF0000, .brcL ⟨(.v 0), (.v 2), .n64, 5, 0xFFFF0000⟩),
    (0x8081000000123456, .callL ⟨(.v 4), (.v 0), .i32, 0, 0x123456⟩),
    (0x8400410912345678, .addL ⟨(.v 1), (.v 2), .n32, 1, 0x12345678⟩),
    (0x8420821880000000, .subL ⟨(.v 2), (.v 4), .n64, 0, 0x80000000⟩),
    (0x84407D0000010000, .mulL ⟨(.v 1), .tid, .i32, 0, 0x10000⟩),
    (0x84E041007FFFFFFF, .minL ⟨(.v 1), (.v 2), .i32, 0, 0x7FFFFFFF⟩),
    (0x85106108FFFF0000, .maxL ⟨(.s 1), (.s 2), .n32, 0, 0xFFFF0000⟩),
    (0x8560410800FF00FF, .andL ⟨(.v 1), (.v 2), .n32, 0, 0xFF00FF⟩),
    (0x8580410800FF00FF, .orL ⟨(.v 1), (.v 2), .n32, 0, 0xFF00FF⟩),
    (0x85A0410855555555, .xorL ⟨(.v 1), (.v 2), .n32, 0, 0x55555555⟩),
    (0x85E04108F0F0F0F0, .andnL ⟨(.v 1), (.v 2), .n32, 0, 0xF0F0F0F0⟩),
    (0x87584104000186A0, .cmpL ⟨(.p 1), (.v 2), .i32, 4, 0x186A0⟩),
    (0x8760821D00100000, .leaL ⟨(.v 2), (.v 4), .n64, 5, 0x100000⟩),
    (0x882E0000002A0156, .liL ⟨(.v 56), (.v 0), .i32, 0, 0x2A0156⟩),
    (0x8C0041423F800000, .faddL ⟨(.v 1), (.v 2), .f32, 2, 0x3F800000⟩),
    (0x8C2041433F800000, .fsubL ⟨(.v 1), (.v 2), .f32, 3, 0x3F800000⟩),
    (0x8C4102403F000000, .fmulL ⟨(.v 4), (.v 4), .f32, 0, 0x3F000000⟩),
    (0x8D804140BF800000, .fminL ⟨(.v 1), (.v 2), .f32, 0, 0xBF800000⟩),
    (0x8DA0414040490FDB, .fmaxL ⟨(.v 1), (.v 2), .f32, 0, 0x40490FDB⟩),
    (0x8DD8C14200000000, .fcmpL ⟨(.p 3), (.v 2), .f32, 2, 0x0⟩) ] = true := by decide
/-- The pair that the spec works out, `add.i32 v13, 32 || fadd v10, v8`. -/
theorem test_words_pair : decodes [(0x409A04100A288000, .pFormPair ⟨.addI32, 13, .imm 32⟩ ⟨.fadd, 10, .reg 8⟩)] = true := by decide

/-- The table's numbering: bit 0 is the least significant bit of the word. -/
theorem test_tableWord : decodeTableWord 64 0x0560817F00E2000F = some (.and ⟨.v 2, .v 2, .imm, .v 0, false, 7, .n32, 0, 15⟩)
    ∧ decodeTableWord 64 0xFFFFFFFFFFFFFFFF = none := by decide

/-! ### Refusals (R51, R357, R358) -/

/-- A word that is refused, with its cause and, for a pair, whether the second half breaks the check. -/
def refuses (l : List (BitVec 64 × Illegal)) : Bool :=
  l.all (fun p => match decode p.1 with | .ok _ => false | .error e => e == p.2)

/-- Form 3; slot 24 of row 0 and row 12; `nop` in L-form; `li` in L-form with an immediate that imm13 holds; `add.i32 p1, v2, v3`;
`add.i32 s1, v2, zero`; `mul.n64 v2, v5, v6`; `bpack v1, 0, v2`; `and p1, v2, p3`; `mulh.n16`; `cmp.6`; `fcvt` with stochastic rounding to s1;
`nop` with d = 1; `mdrain` at column 13; `serb` under p3. -/
theorem test_refused : refuses
  [ (0xC000000000000000, ⟨0x010, false⟩), (0x0300000000E00000, ⟨0x011, false⟩), (0x3000000000E00000, ⟨0x011, false⟩),
    (0x8000000000000000, ⟨0x012, false⟩), (0x882E000000000FFF, ⟨0x012, false⟩), (0x0418410300E00000, ⟨0x013, false⟩),
    (0x0410417800E00000, ⟨0x014, false⟩), (0x0440828600E60000, ⟨0x015, false⟩), (0x10207F8200F00000, ⟨0x016, false⟩),
    (0x0578416300E20000, ⟨0x017, false⟩), (0x0460410300EA0000, ⟨0x018, false⟩), (0x0758010200E0C000, ⟨0x019, false⟩),
    (0x0E10610000F70005, ⟨0x01A, false⟩), (0x0000400000E00000, ⟨0x01B, false⟩), (0x1C60220000E2000D, ⟨0x01C, false⟩),
    (0x01C0000000600000, ⟨0x01D, false⟩) ] = true := by decide

/-- The pairs of R46 and R45: a shared destination bank, three reads of a bank, a half-opcode of 16, a reserved bit of the second half, an
immediate beside a register, an empty half with a field, a count of 32 and an immediate of 0x7F. -/
theorem test_refusedPairs : refuses
  [ (0x4088080002205000, ⟨0x026, true⟩), (0x450228000B089000, ⟨0x027, true⟩), (0x4800000000000000, ⟨0x020, false⟩), (0x4000000000000100, ⟨0x021, true⟩),
    (0x4080000080000000, ⟨0x022, false⟩), (0x4002000000000000, ⟨0x023, false⟩), (0x4302041000000000, ⟨0x024, false⟩), (0x400000000A04087F, ⟨0x025, true⟩) ] = true := by decide

/-- An ill-formed term for each check, which the check refuses. -/
theorem test_illFormed :
    [ (Instr.add ⟨.p 1, .v 2, .v 3, .v 0, false, 7, .i32, 0, 0⟩, 0x013), (.add ⟨.v 1, .imm, .imm, .v 0, false, 7, .i32, 0, 0⟩, 0x013),
      (.or ⟨.p 7, .p 2, .p 3, .v 0, false, 7, .n32, 0, 0⟩, 0x013), (.add ⟨.s 1, .tid, .s 3, .v 0, false, 7, .i32, 0, 0⟩, 0x014),
      (.call ⟨.v 5, .v 0, .v 0, .v 0, false, 7, .i32, 0, 8⟩, 0x015), (.fdep ⟨.v 0, .imm, .v 0, .v 0, false, 7, .i32, 0, 0⟩, 0x016),
      (.xor ⟨.v 1, .p 2, .v 3, .v 0, false, 7, .n32, 0, 0⟩, 0x017), (.abs ⟨.v 1, .v 2, .v 0, .v 0, false, 7, .n32, 0, 0⟩, 0x018),
      (.st ⟨.v 0, .s 1, .v 2, .v 3, false, 7, .n32, 4, 0⟩, 0x019), (.f2i ⟨.s 1, .s 2, .v 0, .v 0, false, 7, .i32, 5, 0⟩, 0x01A),
      (.exit ⟨.v 0, .v 0, .v 0, .v 0, false, 7, .i32, 0, 1⟩, 0x01B), (.mdrain ⟨.v 0, .s 1, .v 0, .v 0, false, 7, .i32, 0, 15⟩, 0x01C),
      (.sere ⟨.v 0, .v 0, .v 0, .v 0, true, 7, .i32, 0, 0⟩, 0x01D), (.bra ⟨.v 0, .v 0, .v 0, .v 0, false, 7, .i32, 0, 8⟩, 0),
      (.braL ⟨.v 0, .v 0, .i32, 0, 8⟩, 0x012) ].all
      (fun p => p.1.check == (if p.2 = 0 then none else some p.2) && p.1.wellFormed == decide (p.2 = 0)) = true := by decide

/-- Pairs of the spec: one legal, two that its banks forbid. -/
theorem test_illFormedPairs :
    (Instr.pFormPair ⟨.addI32, 13, .imm 32⟩ ⟨.fadd, 10, .reg 8⟩).wellFormed = true
    ∧ (Instr.pFormPair ⟨.addI32, 4, .reg 1⟩ ⟨.subI32, 8, .reg 5⟩).wellFormed = false
    ∧ (Instr.pFormPair ⟨.fadd, 1, .reg 5⟩ ⟨.fmul, 2, .reg 9⟩).wellFormed = false := by decide

/-! ### Steps -/

/-- What holds of the state after an instruction. -/
def after (i : Instr) (s : State) (p : Dev → Warp → Bool) : Bool :=
  match exec i s with
  | .next t => match t.dev.warp? 1 0 with
    | some w => p t.dev w
    | none => false
  | _ => false

/-- A step from a placed word runs it: `li v56, 0x002A_0156` writes v56, `exit` ends the lanes. -/
theorem test_fetch :
    (match step (State.reset.withFetchWord 64 0x882E0000002A0156) with
      | .next t => (t.dev.warp? 2 0).map (fun w => (w.readV 56 0, w.readV 56 31, w.pcOf 0)) | _ => none) = some (0x2A0156, 0x2A0156, 0x10008)
    ∧ (match step (State.reset.withFetchWord 64 0x00C0000000E00000) with
      | .next t => (t.dev.warp? 2 0).map (·.live) | _ => none) = some 0 := by decide +kernel

/-- A state whose warp has eight live lanes and the given vector registers, with p1 true in lanes 1, 2, 4 and 6. -/
def eight (v : List (Nat × VReg)) : State :=
  let d := devOf [{ Warp.entry 0xFF 0x10000 0x20000 0 1 with v := v, p := [(1, 0x56)] }] 0x18000
  stateOf { d with cur := some ⟨1, 0, 0xFF, 0x10000, 0, 0⟩ }

/-- What vector register n of a lane holds after an instruction. -/
def vAfter (i : Instr) (v : List (Nat × VReg)) (n L : Nat) : Option Word :=
  match exec i (eight v) with
  | .next t => (t.dev.warp? 1 0).map (fun w => w.readV n L)
  | _ => none

/-- R121: `sext.i32 v4, v9` of 0x8000_0001; R123: `li.i64 v2, -1`; R42: `li.n64 v2, 0xFFFF_FFFF`, and −12 read as n32. -/
theorem test_moves :
    let se := Instr.sext ⟨.v 4, .v 9, .v 0, .v 0, false, 7, .i32, 0, 0⟩
    let li := Instr.li ⟨.v 2, .imm, .v 0, .v 0, false, 7, .i64, 0, 0x1FFF⟩
    let ln := Instr.liL ⟨.v 2, .v 0, .n64, 0, 0xFFFFFFFF⟩
    [vAfter se [(9, .u 0x80000001)] 4 3, vAfter se [(9, .u 0x80000001)] 5 3, vAfter li [] 2 0, vAfter li [] 3 0, vAfter ln [] 2 7,
      vAfter ln [(3, .u 9)] 3 7, vAfter (.add ⟨.v 1, .v 2, .imm, .v 0, false, 7, .n32, 0, 0x1FF4⟩) [] 1 0]
    = [some 0x80000001, some 0xFFFFFFFF, some 0xFFFFFFFF, some 0xFFFFFFFF, some 0xFFFFFFFF, some 0, some 0xFFFFFFF4] := by decide +kernel

/-- R114: `div.i32` of −7 by 2 gives −3 and `rem.i32` −1; R116: `sar.n8` of 0x80 by 1; R118: the `bfe` of the block fold; R111: one more
than the largest i32, wrapped and clamped. -/
theorem test_integers :
    let w : List (Nat × VReg) := [(2, .u 0xFFFFFFF9), (3, .u 2), (4, .u 0x80), (5, .u 18), (6, .u 0x2A0156), (7, .u 0x7FFFFFFF)]
    [vAfter (.div ⟨.v 1, .v 2, .v 3, .v 0, false, 7, .i32, 0, 0⟩) w 1 0, vAfter (.rem ⟨.v 1, .v 2, .v 3, .v 0, false, 7, .i32, 0, 0⟩) w 1 0,
      vAfter (.sar ⟨.v 1, .v 4, .imm, .v 0, false, 7, .n8, 0, 1⟩) w 1 0, vAfter (.bfe ⟨.v 1, .v 6, .v 5, .imm, false, 7, .n32, 0, 2⟩) w 1 0,
      vAfter (.add ⟨.v 1, .v 7, .imm, .v 0, false, 7, .i32, 0, 1⟩) w 1 0, vAfter (.add ⟨.v 1, .v 7, .imm, .v 0, false, 7, .i32, 1, 1⟩) w 1 0]
    = [some 0xFFFFFFFD, some 0xFFFFFFFF, some 0xC0, some 2, some 0x80000000, some 0x7FFFFFFF] := by decide +kernel

/-- R138: `frnd.rtz` of −0.75 and `frnd.rne` of 2.5; R147: the worked `ndot.e2m1`, 10.75; R148: `rnd.f32` of key 0, lane 0 and counter 0;
R95: the e4m3 code 0x7E is 448. -/
theorem test_floats :
    let w : List (Nat × VReg) := [(2, .u 0xBF400000), (3, .u 0x40200000), (4, .u 0x37), (5, .u 0xA4), (6, .u 0x3E800000), (7, .u 0x7E)]
    [vAfter (.frnd ⟨.v 1, .v 2, .v 0, .v 0, false, 7, .f32, 1, 0⟩) w 1 0, vAfter (.frnd ⟨.v 1, .v 3, .v 0, .v 0, false, 7, .f32, 0, 0⟩) w 1 0,
      vAfter (.ndot ⟨.v 1, .v 4, .v 5, .v 6, false, 7, .e2m1, 0, 0⟩) w 1 0, vAfter (.rnd ⟨.v 1, .v 0, .v 0, .v 0, false, 7, .f32, 0, 0⟩) w 1 0,
      vAfter (.fcvt ⟨.v 1, .v 7, .v 0, .v 0, false, 7, .f32, 11, 0⟩) w 1 0]
    = [some 0x80000000, some 0x40000000, some 0x412C0000, some 0x33800000, some 0x43E00000] := by decide +kernel

/-- The lanes of the example of R127: v4 holds 1 to 8. -/
def lanes8 : List (Nat × VReg) := [(4, .g [1, 2, 3, 4, 5, 6, 7, 8])]

/-- R127: under p1, `scan.add.ex` writes 0, 2, 5, 10 into lanes 1, 2, 4 and 6, `scan.add` 2, 5, 10, 17, `vred.add` 17 with the sequence
one further; `vote.bal` gives 0x56 in every lane. -/
theorem test_across :
    [1, 2, 4, 6].map (vAfter (.scan ⟨.v 5, .v 4, .v 0, .v 0, false, 1, .i32, 8, 0⟩) lanes8 5) = [some 0, some 2, some 5, some 10]
    ∧ [1, 2, 4, 6, 3].map (vAfter (.scan ⟨.v 5, .v 4, .v 0, .v 0, false, 1, .i32, 0, 0⟩) lanes8 5) = [some 2, some 5, some 10, some 17, some 0]
    ∧ after (.vred ⟨.q 1, .v 4, .v 0, .v 0, false, 1, .i32, 0, 0⟩) (eight lanes8) (fun _ w => look ⟨0, 0⟩ w.q 1 == ⟨17, 1⟩) = true
    ∧ [0, 7].map (vAfter (.vote ⟨.v 6, .p 1, .v 0, .v 0, false, 7, .i32, 2, 0⟩) lanes8 6) = [some 0x56, some 0x56] := by decide +kernel

/-- R47: both halves read before either writes: `mov v2, v1 || add.i32 v1, v2`; R45: imm8 0x38 is 1.0 and 0xC0 is −2.0. -/
theorem test_pairHalves :
    let swap := Instr.pFormPair ⟨.mov, 2, .reg 1⟩ ⟨.addI32, 1, .reg 2⟩
    let imms := Instr.pFormPair ⟨.fmul, 1, .imm 0x38⟩ ⟨.fadd, 2, .imm 0xC0⟩
    let w : List (Nat × VReg) := [(1, .u 3), (2, .u 5)]
    let f : List (Nat × VReg) := [(1, .u 0x40A00000), (2, .u 0x40A00000)]
    [vAfter swap w 2 0, vAfter swap w 1 0, vAfter imms f 1 0, vAfter imms f 2 0]
    = [some 3, some 8, some 0x40A00000, some 0x40400000] := by decide +kernel

/-- R119: `cmp.lt.n32 p2, v6, 496` of 495 and 496; R110: a predicate leaves the other lanes. -/
theorem test_compare :
    after (.cmp ⟨.p 2, .v 6, .imm, .v 0, false, 7, .n32, 2, 0x1F0⟩) (eight [(6, .g [495, 496, 0, 0xFFFFFFFF])]) (fun _ w => w.readP 2 == 0xF5) = true
    ∧ [0, 1].map (vAfter (.add ⟨.v 1, .v 2, .imm, .v 0, true, 1, .i32, 0, 1⟩) [(1, .u 9), (2, .u 4)] 1) = [some 5, some 9] := by decide +kernel

end Sys2Proof.Tests
end

