-- ==== Sys2Proof/Tests/Tables.lean ====
section
/-!
SUPPORT. Witnesses for the tables of instructions on registers: for each row, a word that is ready in one state.
-/
namespace Sys2Proof.Tests
open Machine

/-- Whether a row is ready in the state of the tests. -/
def readyB (r : RegSem) : Bool :=
  r.i.wellFormed && (allocFault fixtureRec (useAt r.t r.o.d :: r.srcs) []).isNone && (lanesOf (x0.guard r.o)).all (r.fine x0) && x0.guard r.o == 3

/-- A row that passes the check meets every hypothesis of its statements, with two executing lanes. -/
theorem ready_of (r : RegSem) (h : readyB r = true) : r.Ready s0 x0 ∧ x0.guard r.o = 3 := by
  simp only [readyB, Bool.and_eq_true, List.all_eq_true, Option.isNone_iff_eq_none, beq_iff_eq] at h
  obtain ⟨⟨⟨hw, ha⟩, hf⟩, hg⟩ := h
  refine ⟨⟨hw, clear_of ix0 rfl rfl ha, fun L hL => hf L ((mem_lanesOf _ L).2 hL), fun hc => ?_⟩, hg⟩
  rw [show x0.x.lr.isCompact (useAt r.t r.o.d) = false from no_compact _ _] at hc
  cases hc

/-- Whether each row of a table, in turn, is ready with the words given for it. -/
def allReady (t : FWord → LWord → List RegSem) (ws : List (FWord × LWord)) : Bool :=
  (List.range ws.length).all (fun k => match ws[k]?, (ws[k]?).bind (fun w => (t w.1 w.2)[k]?) with
    | some _, some r => readyB r
    | _, _ => false)
    && (ws.head?.map (fun w => (t w.1 w.2).length == ws.length)).getD false

/-- Each row of such a table is ready for some words. -/
theorem rows_ready (t : FWord → LWord → List RegSem) (ws : List (FWord × LWord)) (h : allReady t ws = true) (k : Nat) (hk : k < ws.length) :
    ∃ f l r, (t f l)[k]? = some r ∧ r.Ready s0 x0 := by
  simp only [allReady, Bool.and_eq_true, List.all_eq_true, List.mem_range] at h
  have hh := h.1 k hk
  rw [List.getElem?_eq_getElem hk] at hh
  simp only [Option.bind_some] at hh
  cases hr : (t ws[k].1 ws[k].2)[k]? with
  | none => rw [hr] at hh; cases hh
  | some r =>
    rw [hr] at hh
    exact ⟨_, _, r, hr, (ready_of r hh).1⟩

/-- A word of each form with a destination in v4. -/
def f2 (ty : Ty) (sub : BitVec 4 := 0) : FWord × LWord := (fw (.v 4) (.v 2) (.v 1) (.v 0) ty sub, lw (.v 4) (.v 2) ty)
def f1 (ty : Ty) (sub : BitVec 4 := 0) : FWord × LWord := (fw (.v 4) (.v 2) (.v 0) (.v 0) ty sub, lw (.v 4) (.v 2) ty)
def f3 (ty : Ty) (sub : BitVec 4 := 0) : FWord × LWord := (fw (.v 4) (.v 2) (.v 1) (.v 3) ty sub, lw (.v 4) (.v 2) ty)

/-- Words for the rows of the tables, in their order. -/
def arithWords : List (FWord × LWord) :=
  [f2 .i32, f2 .i32, f2 .n32, f2 .i64, f2 .i8, f2 .i32, f2 .i32, f2 .i32, f2 .i32, f2 .n16, f2 .n32, f1 .i32, f1 .i64, f3 .i32 1]
theorem ready_arith : allReady semsArith arithWords = true := by decide

def divLogicWords : List (FWord × LWord) :=
  [f2 .i32, f2 .n32, f2 .n32, f2 .n32, f2 .i32, f2 .i64, f2 .n8, f2 .n32, f1 .n32, f2 .n32, f2 .n32]
theorem ready_divLogic : allReady (fun f l => semsDiv f ++ semsLogic f l) divLogicWords = true := by decide

def shiftWords : List (FWord × LWord) := [f2 .i32, f2 .n32, f2 .i8, f2 .n16, f1 .n32, f1 .i64, f1 .n32, f3 .i32, f3 .n32]
theorem ready_shift : allReady (fun f _ => semsShift f) shiftWords = true := by decide

def selectWords : List (FWord × LWord) :=
  [ (fw (.p 2) (.v 2) (.v 1) (.v 0) .i32 5, lw (.p 2) (.v 2)), (fw (.p 2) (.v 2) (.v 1) (.v 0) .i32 0, lw (.p 2) (.v 2) .n32 2),
    (fw (.v 4) (.v 2) (.v 1) (.p 1) .i32, lw (.v 4) (.v 2)), (fw (.v 4) (.v 2) (.v 1) .imm .n32 2 0x1FFF, lw (.v 4) (.v 2)),
    (fw (.v 4) (.v 2) (.v 1) (.v 0) .n32 2, lw (.v 4) (.v 2) .n32 3), f1 .i8, f1 .n32 ]
theorem ready_select : allReady semsSelect selectWords = true := by decide

def laneWords : List (FWord × LWord) :=
  [ f1 .i32, (fw (.v 4) .imm (.v 0) (.v 0) .i64 0 0x1FFF, lw (.v 4) .imm), (fw (.v 4) (.v 2) (.v 1) (.v 0), lw (.v 4) (.v 0) .f32),
    f2 .i32 2, (fw (.p 2) (.p 1) (.v 0) (.v 0) .i32 1, lw (.v 4) .imm), (fw (.v 4) (.v 2) .imm (.v 0) .i32 0 1, lw (.v 4) .imm),
    f1 .i32 8, (fw (.p 3) (.v 0) (.v 0) (.v 0), lw (.v 4) .imm), f1 .i32, (fw (.v 4) (.m 2) (.v 0) (.v 0), lw (.v 4) .imm) ]
theorem ready_lane : allReady semsLane laneWords = true := by decide

def floatWords : List (FWord × LWord) :=
  List.replicate 6 (f2 .f32) ++ [f3 .f32, f2 .f32 1] ++ List.replicate 7 (f1 .f32) ++ List.replicate 4 (f2 .f32)
    ++ [(fw (.p 2) (.v 2) (.v 1) (.v 0) .f32 5, lw (.p 2) (.v 2) .f32), (fw (.p 2) (.v 2) (.v 1) (.v 0) .f32 0, lw (.p 2) (.v 2) .f32 1), f1 .f32 3, f1 .e4m3]
theorem ready_float : allReady semsFloat floatWords = true := by decide

def convWords : List (FWord × LWord) :=
  [ (fw (.v 4) (.v 2) (.v 0) (.v 0) .e4m3 8 5, lw (.v 4) .imm), f1 .i32 4, f1 .n32 0, (fw (.v 4) (.v 0) (.v 1) (.v 0) .f32, lw (.v 4) .imm), (fw (.v 4) (.v 2) (.v 0) (.v 0) .f32, lw (.v 4) .imm), f1 .i32 1,
    (fw (.v 4) (.v 2) (.v 0) (.v 0) .i32 1, lw (.v 4) .imm), f3 .i8, (fw (.v 4) (.v 0) (.v 0) (.v 0) .f32, lw (.v 4) .imm),
    (fw (.p 2) (.s 2) (.v 1) (.v 0) .i32 2 8, lw (.v 4) .imm) ]
theorem ready_conv : allReady (fun f _ => semsConv f) convWords = true := by decide

end Sys2Proof.Tests
end

section
/-!
The encoding (R35 to R51): which words lay down an instruction. The encoder gives a word that lays its instruction down, the decoder
accepts the words that lay down a well-formed instruction and no others, and from that O38, O39 and O40 follow.
-/
namespace Sys2Proof.Encoding

/-- The word `w` lays down the instruction `i`: an F-form word of an opcode of R49 (R36), an L-form word of an opcode of R50 (R37), or a
P-form pair (R38). -/
inductive LaysDown : BitVec 64 → Instr → Prop
  | fForm {o : BitVec 9} {k : FWord → Instr} (hk : opF o = some k) (f : FWord) : LaysDown (f.bits o) (k f)
  | lForm {o : BitVec 9} {k : LWord → Instr} (hk : opL o = some k) (f : LWord) : LaysDown (f.bits o) (k f)
  | pair (h1 h2 : Half) : LaysDown (1#2 ++ h1.bits ++ h2.bits) (.pFormPair h1 h2)

/-! ### The encoder lays down its word -/

/-- The word of an instruction lays it down: its opcode is the slot in which R49 or R50 has the instruction. -/
theorem laysDown_of_encode {i : Instr} {w : BitVec 64} (h : encode i = some w) : LaysDown w i := by
  cases i with
  | nop f | bra f | brc f | brx f | call f | ret f | exit f | tail f | ypt f | mjoin f | mleave f | mwait f | mset f | mget f | serb f
  | sere f | rgn f | bar f | bara f | barw f | sleep f | lnch f | semsig f | semwt f
  | add f | sub f | mul f | mulh f | mad f | div f | rem f | min f | max f | abs f | neg f | and f | or f | xor f | not f | andn f
  | shl f | shr f | sar f | rot f | clz f | popc f | brev f | bfe f | bfi f | sel f | cmp f | lea f | sext f | zext f
  | mov f | li f | shfl f | vote f | bcst f | scan f | vred f | qget f | elect f | vshp f
  | fadd f | fsub f | fmul f | ffma f | fdiv f | fsqrt f | frcp f | frsq f | fexp2 f | flog2 f | fsinpi f | fcospi f | fmin f | fmax f
  | fcmp f | frnd f | fcvt f | f2i f | i2f f | fclass f
  | bexp f | bpack f | bscl f | bhdr f | ndot f | rnd f
  | ld f | st f | lsp f | ssp f | lhv f | shv f | atom f | cas f | red f | fence f | pchk f | pclr f | pfch f
  | cpy f | cjob f | cwait f | cpoll f | coll f | mmac f | mzero f | mload f | mdrain f | mstat f
  | sbind f | sld f | sst f | sstc f | sres f
  | cullbf f | cullfr f | cullsm f | cullhz f | pexp f | isectb f | isectt f | pix f | fdisc f | fdep f
  | mbsend f | mbrecv f | mbpoll f | mbver f | pbopen f | pbx f | pacc f | pbstat f
  | csrr f | csrw f | csrs f | csrc f | trap f | eret f | brk f =>
    obtain rfl := Option.some.inj h
    exact .fForm rfl f
  | braL f | brcL f | callL f | addL f | subL f | mulL f | minL f | maxL f | andL f | orL f | xorL f | andnL f | cmpL f | leaL f | liL f
  | faddL f | fsubL f | fmulL f | fminL f | fmaxL f | fcmpL f =>
    obtain rfl := Option.some.inj h
    exact .lForm rfl f
  | pFormPair h1 h2 =>
    obtain rfl := Option.some.inj h
    exact .pair h1 h2
  | _ => cases h

/-- The slots of the F-form map, each with its opcode: row opcode / 32, offset opcode mod 32 (R49). -/
def slotsF : List (Nat × (FWord → Instr)) :=
  mapF.zipIdx.flatMap (fun row => row.1.zipIdx.map (fun slot => (32 * row.2 + slot.2, slot.1)))

/-- An opcode that holds an F-form instruction is one of the slots. -/
theorem mem_slotsF {o : BitVec 9} {k : FWord → Instr} (hk : opF o = some k) : (o.toNat, k) ∈ slotsF := by
  obtain ⟨row, hrow, hslot⟩ := Option.bind_eq_some_iff.1 hk
  refine List.mem_flatMap.2 ⟨(row, o.toNat / 32), List.mk_mem_zipIdx_iff_getElem?.2 hrow, List.mem_map.2 ⟨(k, o.toNat % 32), ?_, ?_⟩⟩
  · exact List.mk_mem_zipIdx_iff_getElem?.2 hslot
  · rw [Nat.div_add_mod]

/-- The encoder gives the instruction of every slot the slot's opcode. -/
theorem encode_slotF : ∀ slot ∈ slotsF, ∀ f, encode (slot.2 f) = some (f.bits (BitVec.ofNat 9 slot.1)) := by
  repeat refine List.forall_mem_cons.2 ⟨fun _ => rfl, ?_⟩
  exact List.forall_mem_nil _

/-- The F-form instruction of an opcode slot has the word of that opcode. -/
theorem encode_of_opF {o : BitVec 9} {k : FWord → Instr} (hk : opF o = some k) (f : FWord) : encode (k f) = some (f.bits o) := by
  simpa using encode_slotF _ (mem_slotsF hk) f

/-- The L-form instructions, each with its opcode (R50). -/
def slotsL : List (Nat × (LWord → Instr)) :=
  [(1, .braL), (2, .brcL), (4, .callL), (32, .addL), (33, .subL), (34, .mulL), (39, .minL), (40, .maxL), (43, .andL), (44, .orL), (45, .xorL),
    (47, .andnL), (58, .cmpL), (59, .leaL), (65, .liL), (96, .faddL), (97, .fsubL), (98, .fmulL), (108, .fminL), (109, .fmaxL), (110, .fcmpL)]

/-- An opcode that holds an L-form instruction is one of those. -/
theorem mem_slotsL {o : BitVec 9} {k : LWord → Instr} (hk : opL o = some k) : (o.toNat, k) ∈ slotsL := by
  unfold opL at hk
  split at hk
  all_goals cases hk
  all_goals next ho => simp [slotsL, ho]

/-- The encoder gives each of them its opcode. -/
theorem encode_slotL : ∀ slot ∈ slotsL, ∀ f, encode (slot.2 f) = some (f.bits (BitVec.ofNat 9 slot.1)) := by
  repeat refine List.forall_mem_cons.2 ⟨fun _ => rfl, ?_⟩
  exact List.forall_mem_nil _

/-- The L-form instruction of an opcode slot has the word of that opcode. -/
theorem encode_of_opL {o : BitVec 9} {k : LWord → Instr} (hk : opL o = some k) (f : LWord) : encode (k f) = some (f.bits o) := by
  simpa using encode_slotL _ (mem_slotsL hk) f

/-- R49 has an F-form instruction in the slot of every L-form one (R50). -/
theorem opF_of_opL {o : BitVec 9} {k : LWord → Instr} (hk : opL o = some k) : (opF o).isSome = true := by
  have key : ∀ slot ∈ slotsL, (opF (BitVec.ofNat 9 slot.1)).isSome = true := by decide
  simpa using key _ (mem_slotsL hk)

/-- A word that lays down an instruction is the instruction's word. -/
theorem LaysDown.encode_eq {w : BitVec 64} {i : Instr} (h : LaysDown w i) : encode i = some w := by
  cases h with
  | fForm hk f => exact encode_of_opF hk f
  | lForm hk f => exact encode_of_opL hk f
  | pair h1 h2 => rfl

/-! ### The decoder by forms (R35, R51) -/

/-- The checks of an instruction answer it exactly when it is well formed. -/
theorem checked_eq_ok {i j : Instr} : checked i = .ok j ↔ i = j ∧ i.wellFormed = true := by
  unfold checked Instr.wellFormed
  cases i.check <;> simp

/-- An F-form word of an opcode that holds an instruction: the checks of that instruction. -/
theorem decode_fForm {w : BitVec 64} {k : FWord → Instr} (h : w.extractLsb' 62 2 = 0) (hk : opF (w.extractLsb' 53 9) = some k) :
    decode w = checked (k (FWord.ofBits w)) := by
  simp [decode, h, hk]

/-- An L-form word of an opcode that holds an L-form instruction: the checks of that instruction. -/
theorem decode_lForm {w : BitVec 64} {k : LWord → Instr} (h : w.extractLsb' 62 2 = 2) (hk : opL (w.extractLsb' 53 9) = some k) :
    decode w = checked (k (LWord.ofBits w)) := by
  obtain ⟨kF, hF⟩ := Option.isSome_iff_exists.1 (opF_of_opL hk)
  simp [decode, h, hk, hF]

/-- A word of form 1 is a pair or no instruction. -/
theorem decode_pForm {w : BitVec 64} (h : w.extractLsb' 62 2 = 1) : decode w = decodePair w := by
  simp [decode, h]

/-- A word of form 3 is reserved. -/
theorem decode_form3 {w : BitVec 64} (h : w.extractLsb' 62 2 = 3) : decode w = .error ⟨0x010, false⟩ := by
  simp [decode, h]

/-- A word of an opcode that no row of R49 gives is refused in either form. -/
theorem decode_noSlot {w : BitVec 64} (h : w.extractLsb' 62 2 = 0 ∨ w.extractLsb' 62 2 = 2) (hk : opF (w.extractLsb' 53 9) = none) :
    decode w = .error ⟨0x011, false⟩ := by
  rcases h with h | h <;> simp [decode, h, hk]

/-- An L-form word of an opcode that R49 gives and R50 does not is refused. -/
theorem decode_noLForm {w : BitVec 64} (h : w.extractLsb' 62 2 = 2) (hF : opF (w.extractLsb' 53 9) ≠ none)
    (hL : opL (w.extractLsb' 53 9) = none) : decode w = .error ⟨0x012, false⟩ := by
  obtain ⟨kF, hF⟩ := Option.ne_none_iff_exists'.1 hF
  simp [decode, h, hF, hL]

/-! ### Pairs (R38, R45, R51) -/

/-- A 31-bit field holds a half: its half-opcode and operands, with every reserved bit 0 (R38). -/
structure HoldsHalf (x : BitVec 31) (h : Half) : Prop where
  op : HalfOp.ofField (x.extractLsb' 24 7) = some h.op
  operands : Half.ofBits h.op x = h
  hmod : hmodBad x = false
  unused : halfFieldBad x = false

theorem holdsHalf_bits (h : Half) : HoldsHalf h.bits h := by
  obtain ⟨hop, hof, hm, hu⟩ := half_fields h
  exact ⟨hop, hof, hm, hu⟩

theorem HalfOp.field_of_ofField {x : BitVec 7} {o : HalfOp} (h : HalfOp.ofField x = some o) : o.field = x := by
  have key : ∀ x : BitVec 7, (HalfOp.ofField x).all (fun o => o.field == x) = true := by decide
  simpa [h] using key x

/-- The four bits of hmod with its low three 0 (R38). -/
theorem hmod_eq {x : BitVec 31} {b : BitVec 1} (hb : x.extractLsb' 11 1 = b) (hm : hmodBad x = false) :
    x.extractLsb' 8 4 = b ++ 0#3 := by
  have h0 : x.extractLsb' 8 3 = 0#3 := by simpa [hmodBad] using hm
  rw [← append_extract x 8 3 1 11 rfl, hb, h0]

/-- The field that holds a half is the half's field: no bit of it is dropped. -/
theorem HoldsHalf.bits_eq {x : BitVec 31} {h : Half} (hh : HoldsHalf x h) : h.bits = x := by
  have hop := HalfOp.field_of_ofField hh.op
  have hx : x.extractLsb' 24 7 ++ x.extractLsb' 18 6 ++ x.extractLsb' 12 6 ++ x.extractLsb' 8 4 ++ x.extractLsb' 0 8 = x := by
    rw [append_extract x 18 6 7 24 rfl, append_extract x 12 6 13 18 rfl, append_extract x 8 4 19 12 rfl, append_extract x 0 8 23 8 rfl]
    exact extract_self x
  have hu := hh.unused
  rw [← hh.operands, Half.bits, Half.ofBits]
  rcases (by decide : ∀ b : BitVec 1, b = 0 ∨ b = 1) (x.extractLsb' 11 1) with hb | hb
  · have hi : x.extractLsb' 0 8 = 0#8 := by simpa [halfFieldBad, hb] using hu
    rw [hmod_eq hb hh.hmod, hi] at hx
    simpa [hb, hop] using hx
  · have hs : x.extractLsb' 12 6 = 0#6 := by simpa [halfFieldBad, hb] using hu
    rw [hmod_eq hb hh.hmod, hs] at hx
    simpa [hb, hop] using hx

theorem firstHalf_none (l : List (Bool × Bool × Cause)) : firstHalf l = none ↔ ∀ e ∈ l, e.1 = false ∧ e.2.1 = false := by
  induction l with
  | nil => simp [firstHalf]
  | cons e l ih =>
    obtain ⟨b1, b2, c⟩ := e
    cases b1 <;> cases b2 <;> simp [firstHalf, ih]

theorem wellFormed_pair {h1 h2 : Half} : (Instr.pFormPair h1 h2).wellFormed = true ↔ pairCheck h1 h2 = none := by
  simp [Instr.wellFormed, Instr.check]

/-- Two fields that hold the halves of a well-formed pair decode to it. -/
theorem decodePair_of_halves {w : BitVec 64} {h1 h2 : Half} (hh1 : HoldsHalf (w.extractLsb' 31 31) h1)
    (hh2 : HoldsHalf (w.extractLsb' 0 31) h2) (hwf : (Instr.pFormPair h1 h2).wellFormed = true) :
    decodePair w = .ok (.pFormPair h1 h2) := by
  have hok := wellFormed_pair.1 hwf
  have hfields : firstHalf [(hmodBad (w.extractLsb' 31 31), hmodBad (w.extractLsb' 0 31), 0x021),
      (halfFieldBad (w.extractLsb' 31 31), halfFieldBad (w.extractLsb' 0 31), 0x022)] = none := by
    simp [firstHalf_none, hh1.hmod, hh1.unused, hh2.hmod, hh2.unused]
  unfold decodePair
  dsimp only
  rw [hh1.op, hh2.op]
  dsimp only
  rw [hh1.operands, hh2.operands, hfields, hok]

/-- A word that decodes as a pair holds the halves of a well-formed one. -/
theorem halves_of_decodePair {w : BitVec 64} {i : Instr} (h : decodePair w = .ok i) :
    ∃ h1 h2, HoldsHalf (w.extractLsb' 31 31) h1 ∧ HoldsHalf (w.extractLsb' 0 31) h2
      ∧ i = .pFormPair h1 h2 ∧ (Instr.pFormPair h1 h2).wellFormed = true := by
  unfold decodePair at h
  dsimp only at h
  split at h
  · cases h
  · cases h
  next o1 o2 ho1 ho2 =>
    split at h
    · cases h
    next hfields =>
      split at h
      · cases h
      next hok =>
        cases h
        simp only [firstHalf_none, List.mem_cons, List.not_mem_nil, or_false, forall_eq_or_imp, forall_eq] at hfields
        obtain ⟨⟨hm1, hm2⟩, hu1, hu2⟩ := hfields
        exact ⟨_, _, ⟨ho1, rfl, hm1, hu1⟩, ⟨ho2, rfl, hm2, hu2⟩, rfl, wellFormed_pair.2 hok⟩

/-! ### The decoder and what a word lays down -/

/-- A word that lays down a well-formed instruction decodes to it. -/
theorem LaysDown.decode_eq {w : BitVec 64} {i : Instr} (h : LaysDown w i) (hwf : i.wellFormed = true) : decode w = .ok i := by
  cases h with
  | @fForm o k hk f =>
    obtain ⟨hform, hslot, hf⟩ := fbits_fields o f
    rw [decode_fForm hform (by rw [hslot]; exact hk), hf]
    exact checked_eq_ok.2 ⟨rfl, hwf⟩
  | @lForm o k hk f =>
    obtain ⟨hform, hslot, hf⟩ := lbits_fields o f
    rw [decode_lForm hform (by rw [hslot]; exact hk), hf]
    exact checked_eq_ok.2 ⟨rfl, hwf⟩
  | pair h1 h2 =>
    obtain ⟨hform, hw1, hw2⟩ := pair_fields h1.bits h2.bits
    rw [decode_pForm hform]
    exact decodePair_of_halves (by rw [hw1]; exact holdsHalf_bits h1) (by rw [hw2]; exact holdsHalf_bits h2) hwf

/-- A word that decodes lays down its instruction, which is well formed. -/
theorem laysDown_of_decode {w : BitVec 64} {i : Instr} (h : decode w = .ok i) : LaysDown w i ∧ i.wellFormed = true := by
  rcases (by decide : ∀ b : BitVec 2, b = 0 ∨ b = 1 ∨ b = 2 ∨ b = 3) (w.extractLsb' 62 2) with hform | hform | hform | hform
  · cases hk : opF (w.extractLsb' 53 9) with
    | none => rw [decode_noSlot (.inl hform) hk] at h; cases h
    | some k =>
      rw [decode_fForm hform hk] at h
      obtain ⟨rfl, hwf⟩ := checked_eq_ok.1 h
      have hw := LaysDown.fForm hk (FWord.ofBits w)
      rw [fbits_ofBits w hform] at hw
      exact ⟨hw, hwf⟩
  · rw [decode_pForm hform] at h
    obtain ⟨h1, h2, hh1, hh2, rfl, hwf⟩ := halves_of_decodePair h
    have hw := LaysDown.pair h1 h2
    rw [hh1.bits_eq, hh2.bits_eq, show 1#2 = w.extractLsb' 62 2 from hform.symm, append_extract w 31 31 2 62 rfl,
      append_extract w 0 31 33 31 rfl, extract_self w] at hw
    exact ⟨hw, hwf⟩
  · cases hF : opF (w.extractLsb' 53 9) with
    | none => rw [decode_noSlot (.inr hform) hF] at h; cases h
    | some kF =>
      cases hk : opL (w.extractLsb' 53 9) with
      | none => rw [decode_noLForm hform (by simp [hF]) hk] at h; cases h
      | some k =>
        rw [decode_lForm hform hk] at h
        obtain ⟨rfl, hwf⟩ := checked_eq_ok.1 h
        have hw := LaysDown.lForm hk (LWord.ofBits w)
        rw [lbits_ofBits w hform] at hw
        exact ⟨hw, hwf⟩
  · rw [decode_form3 hform] at h; cases h

/-- Settles O38: the word of an instruction lays it down, and a word that lays down a well-formed instruction decodes to it. -/
theorem encodeThenDecode : Obligations.EncodeThenDecode := fun _ _ hw hwf => (laysDown_of_encode hw).decode_eq hwf

/-- Settles O39: a word that decodes lays down its instruction, and a word that lays down an instruction is its word. -/
theorem decodeThenEncode : Obligations.DecodeThenEncode := fun _ _ h =>
  ⟨(laysDown_of_decode h).1.encode_eq, (laysDown_of_decode h).2⟩

/-! ### Sample words and reserved words -/

/-- The sample words are the words of their instructions, which are well formed. -/
theorem sampleWords_encode : ∀ p ∈ sampleWords, encode p.2 = some p.1 ∧ p.2.wellFormed = true := by decide

theorem sampleWordsDecode : SampleWordsDecode := fun p hp =>
  encodeThenDecode p.2 p.1 (sampleWords_encode p hp).1 (sampleWords_encode p hp).2

/-- The opcodes with an L-form instruction are those that R50 lists. -/
theorem opcode_of_opL {o : BitVec 9} {k : LWord → Instr} (hk : opL o = some k) :
    o.toNat ∈ [1, 2, 4, 32, 33, 34, 39, 40, 43, 44, 45, 47, 58, 59, 65, 96, 97, 98, 108, 109, 110] :=
  List.mem_map_of_mem (f := Prod.fst) (mem_slotsL hk)

theorem reservedWordsRefused : ReservedWordsRefused :=
  ⟨fun _ => decode_form3, fun _ => decode_noSlot, fun _ h hF hL =>
    decode_noLForm h hF (Option.eq_none_iff_forall_ne_some.2 fun _ hk => hL (opcode_of_opL hk))⟩

/-- Settles O40: the sample words are words of well-formed instructions, and the reserved words are those whose form or slot holds none. -/
theorem words : Obligations.Words := ⟨sampleWordsDecode, reservedWordsRefused⟩

end Sys2Proof.Encoding
end

section
/-!
P-form pairs (R45 to R47): the result and the shape of a half, its write, and from that O37.
-/
namespace Sys2Proof.Pair
open Machine

/-! ### The result of a half (R45) -/

/-- A word read as i32 from the 64-bit word that holds it (R10). -/
theorem tyInt_i32_setWidth (a : Word) : tyInt .i32 (a.setWidth 64) = a.toInt := by
  have ha := a.isLt
  simp only [tyInt, Ty.signed, Ty.width, BitVec.toNat_setWidth, BitVec.toInt_eq_toNat_cond, Bool.true_and, decide_eq_true_eq]
  split <;> split <;> omega

/-- The low 32 bits survive a truncation at a 32-bit type. -/
theorem setWidth_tyTrunc {t : Ty} (ht : t.width = 32) (x : DWord) : (tyTrunc t x).setWidth 32 = x.setWidth 32 := by
  apply BitVec.eq_of_toNat_eq
  simp only [tyTrunc, ht, BitVec.toNat_setWidth, BitVec.toNat_ofNat]
  omega

theorem setWidth_shlBits (a : Word) (n : Nat) : (shlBits .n32 (a.setWidth 64) n).setWidth 32 = if n < 32 then a <<< n else 0 := by
  show BitVec.setWidth 32 (if n < 32 then tyTrunc .n32 (a.setWidth 64 <<< n) else 0) = _
  rw [apply_ite (BitVec.setWidth 32), setWidth_tyTrunc rfl]
  congr 1
  ext i hi
  simp

theorem setWidth_shrBits (a : Word) (n : Nat) : (shrBits .n32 (a.setWidth 64) n).setWidth 32 = if n < 32 then a >>> n else 0 := by
  show BitVec.setWidth 32 (if n < 32 then a.setWidth 64 >>> n else 0) = _
  rw [apply_ite (BitVec.setWidth 32)]
  congr 1
  ext i hi
  simpa using fun h => Nat.lt_trans (BitVec.lt_of_getLsbD h) (by decide : 32 < 64)

theorem setWidth_ofInt (i : Int) : (BitVec.ofInt 64 i).setWidth 32 = BitVec.ofInt 32 i := by
  apply BitVec.eq_of_toNat_eq
  simp only [BitVec.toNat_setWidth, BitVec.toNat_ofInt]
  omega

/-- The arithmetic shift at i32 (R116): the quotient by a power of two, at most 2 ^ 32. -/
theorem setWidth_sarBits (a : Word) (n : Nat) :
    (sarBits .i32 (a.setWidth 64) n).setWidth 32 = BitVec.ofInt 32 (a.toInt / 2 ^ min n 32) := by
  unfold sarBits
  dsimp only
  rw [setWidth_tyTrunc rfl, setWidth_ofInt]
  congr 2
  · have hm : (a.setWidth 64 : DWord).getLsbD (Ty.i32.width - 1) = a.msb := by simp [Ty.width, BitVec.msb_eq_getLsbD_last]
    rw [hm, BitVec.toInt_eq_msb_cond, BitVec.toNat_setWidth_of_le (by decide)]
    rfl
  · congr 1
    show (if n < 32 then n else 32) = min n 32
    split <;> omega

/-- The lesser of two words as `combine` takes it at i32. -/
theorem setWidth_combine_min (a b : Word) :
    (combine 1 .i32 (a.setWidth 64) (b.setWidth 64)).setWidth 32 = if b.toInt < a.toInt then b else a := by
  show BitVec.setWidth 32 (if tyInt .i32 (b.setWidth 64) < tyInt .i32 (a.setWidth 64) then b.setWidth 64 else a.setWidth 64) = _
  rw [tyInt_i32_setWidth, tyInt_i32_setWidth, apply_ite (BitVec.setWidth 32)]
  simp

/-- The greater of two words as `combine` takes it at i32. -/
theorem setWidth_combine_max (a b : Word) :
    (combine 2 .i32 (a.setWidth 64) (b.setWidth 64)).setWidth 32 = if a.toInt < b.toInt then b else a := by
  show BitVec.setWidth 32 (if tyInt .i32 (b.setWidth 64) > tyInt .i32 (a.setWidth 64) then b.setWidth 64 else a.setWidth 64) = _
  rw [tyInt_i32_setWidth, tyInt_i32_setWidth, apply_ite (BitVec.setWidth 32)]
  simp

/-- The model's result of a half is that of its half-opcode. -/
theorem halfVal_eq (op : HalfOp) (a b : Word) : halfVal op a b = pairVal op a b := by
  cases op with
  | shl => exact (setWidth_shlBits a _).trans (by simp [pairVal])
  | shr => exact (setWidth_shrBits a _).trans (by simp [pairVal])
  | sar => exact (setWidth_sarBits a _).trans (by simp [pairVal])
  | minI32 => exact setWidth_combine_min a b
  | maxI32 => exact setWidth_combine_max a b
  | _ => rfl

/-- A half's source is the register, or the byte as its half-opcode reads it. -/
theorem halfSrc_eq (x : Ix) (h : Half) (L : Nat) : x.halfSrc h L = pairSrc x h L := by
  unfold Ix.halfSrc pairSrc
  cases h.s <;> rfl

/-! ### The shape of a half's result (R65) -/

/-- What a shape tag says of the words of a register or a result: one word in every lane, or a base and a stride (R64). -/
structure Shaped (sh : Shape) (f : Nat → Word) : Prop where
  uniform : sh = .u → ∀ L L', f L = f L'
  affine : ∀ b t, sh = .a b t → ∀ L, f L = b + BitVec.ofNat 32 L * t

theorem shaped_g (f : Nat → Word) : Shaped .g f := ⟨fun h => (nomatch h), fun _ _ h => (nomatch h)⟩

theorem shaped_const (c : Word) : Shaped .u (fun _ => c) := ⟨fun _ _ _ => rfl, fun _ _ h => (nomatch h)⟩

theorem shaped_readV (w : Warp) (n : Nat) : Shaped (w.shapeV n) (w.readV n) := ⟨readV_of_u, fun _ _ => readV_of_a⟩

theorem shaped_affine {b t : Word} {f : Nat → Word} (hf : ∀ L, f L = b + BitVec.ofNat 32 L * t) : Shaped (.a b t) f where
  uniform h := nomatch h
  affine b' t' h L := by
    obtain ⟨rfl, rfl⟩ := Shape.a.inj h
    exact hf L

/-- The shape of a sum or a difference holds of its words; a uniform operand is read in any one lane `k`. -/
theorem Shaped.sum {sa sb : Shape} {f g : Nat → Word} (hf : Shaped sa f) (hg : Shaped sb g) (sub : Bool) (k : Nat) :
    Shaped (shapeSum sub sa sb (f k) (g k)) (fun L => if sub then f L - g L else f L + g L) := by
  cases sa with
  | u =>
    cases sb with
    | u => exact ⟨fun _ L L' => by rw [hf.uniform rfl L L', hg.uniform rfl L L'], fun _ _ h => nomatch h⟩
    | a b t =>
      refine shaped_affine fun L => ?_
      rw [hf.uniform rfl k L, hg.affine b t rfl L]
      cases sub <;> grind
    | g => exact shaped_g _
  | a b t =>
    cases sb with
    | u =>
      refine shaped_affine fun L => ?_
      rw [hg.uniform rfl k L, hf.affine b t rfl L]
      cases sub <;> grind
    | a b' t' =>
      refine shaped_affine fun L => ?_
      rw [hf.affine b t rfl L, hg.affine b' t' rfl L]
      cases sub <;> grind
    | g => exact shaped_g _
  | g => exact shaped_g _

/-- The shape of a half's source holds of its words. -/
theorem shaped_halfSrc (x : Ix) (h : Half) : Shaped (x.shapeOf (halfReg h) 1) (x.halfSrc h) := by
  obtain ⟨op, d, s⟩ := h
  cases s with
  | reg n => exact shaped_readV x.w n.toNat
  | imm b => exact shaped_const _

/-- The words that a half gives its destination: its sources are those from before either half's write (R47). -/
def halfResult (x : Ix) (h : Half) (L : Nat) : Word := halfVal h.op (x.w.readV h.d.toNat L) (x.halfSrc h L)

section
variable (x : Ix) {h : Half}

theorem halfShape_add (hop : h.op = .addI32) : x.halfShape h = shapeSum false (x.w.shapeV h.d.toNat) (x.shapeOf (halfReg h) 1)
    (x.w.readV h.d.toNat (lowest x.w.live)) (x.halfSrc h (lowest x.w.live)) := by
  obtain ⟨op, d, s⟩ := h
  subst hop
  cases s <;> rfl

theorem halfShape_sub (hop : h.op = .subI32) : x.halfShape h = shapeSum true (x.w.shapeV h.d.toNat) (x.shapeOf (halfReg h) 1)
    (x.w.readV h.d.toNat (lowest x.w.live)) (x.halfSrc h (lowest x.w.live)) := by
  obtain ⟨op, d, s⟩ := h
  subst hop
  cases s <;> rfl

theorem halfShape_mov (hop : h.op = .mov) : x.halfShape h = x.shapeOf (halfReg h) 1 := by
  obtain ⟨op, d, s⟩ := h
  subst hop
  cases s <;> rfl

theorem halfShape_other (hadd : h.op ≠ .addI32) (hsub : h.op ≠ .subI32) (hmov : h.op ≠ .mov) : x.halfShape h =
    if x.w.shapeV h.d.toNat == .u && x.shapeOf (halfReg h) 1 == .u then .u else .g := by
  obtain ⟨op, d, s⟩ := h
  cases op with
  | addI32 => exact absurd rfl hadd
  | subI32 => exact absurd rfl hsub
  | mov => exact absurd rfl hmov
  | _ => cases s <;> rfl

/-- The shape that a half's full write has holds of its words. -/
theorem shaped_halfResult : Shaped (x.halfShape h) (halfResult x h) := by
  have hd := shaped_readV x.w h.d.toNat
  have hs := shaped_halfSrc x h
  by_cases hadd : h.op = .addI32
  · have e : halfResult x h = fun L => x.w.readV h.d.toNat L + x.halfSrc h L := by unfold halfResult; rw [hadd]; rfl
    rw [halfShape_add x hadd, e]
    exact hd.sum hs false _
  by_cases hsub : h.op = .subI32
  · have e : halfResult x h = fun L => x.w.readV h.d.toNat L - x.halfSrc h L := by unfold halfResult; rw [hsub]; rfl
    rw [halfShape_sub x hsub, e]
    exact hd.sum hs true _
  by_cases hmov : h.op = .mov
  · have e : halfResult x h = x.halfSrc h := by unfold halfResult; rw [hmov]; rfl
    rw [halfShape_mov x hmov, e]
    exact hs
  rw [halfShape_other x hadd hsub hmov]
  split
  next hu =>
    rw [Bool.and_eq_true, beq_iff_eq, beq_iff_eq] at hu
    obtain ⟨hud, hus⟩ := hu
    refine ⟨fun _ L L' => ?_, fun _ _ h => (nomatch h)⟩
    unfold halfResult
    rw [hd.uniform hud L L', hs.uniform hus L L']
  · exact shaped_g _

end

/-- A word is the low word of its image at n32. -/
theorem image_word (a : Word) : (tyImage .n32 (a.setWidth 64)).setWidth 32 = a := by
  have hint : tyInt .n32 (a.setWidth 64) = (a.toNat : Int) := by
    have ha := a.isLt
    simp only [tyInt, Ty.signed, Ty.width, BitVec.toNat_setWidth, Bool.false_and, Bool.false_eq_true, if_false]
    omega
  rw [tyImage, setWidth_ofInt, hint, BitVec.ofInt_natCast, BitVec.ofNat_toNat, BitVec.setWidth_eq]

/-- A shape that holds of words is that of their full write at n32. -/
theorem Shaped.img {sh : Shape} {f : Nat → Word} (hf : Shaped sh f) (ok : LaneSet) : ImgShape .n32 sh ok (fun L => (f L).setWidth 64) where
  u h L _ L' _ := by rw [hf.uniform h L L']
  a b k h := ⟨rfl, fun L _ => by rw [image_word, hf.affine b k h L]⟩

/-! ### The write of a half (R47) -/

section
variable {x : Ix} {h : Half} {w : Warp} {ok : LaneSet}

/-- An empty half writes nothing. -/
theorem writeHalf_hnop (hop : h.op = .hnop) : w.writeHalf x h ok = w := by
  simp [Warp.writeHalf, hop]

/-- A half that is not empty writes its words at n32. -/
theorem writeHalf_eq (hop : h.op ≠ .hnop) : w.writeHalf x h ok = w.writeD (.v h.d) .n32 ok (x.shapeFor (x.halfShape h) ok)
    (fun L => (halfResult x h L).setWidth 64) := by
  simp [Warp.writeHalf, hop, halfResult]

/-- A half touches the vector and proposal registers alone. -/
theorem writeHalf_frame (x : Ix) (h : Half) (w : Warp) (ok : LaneSet) : ∃ v p, w.writeHalf x h ok = { w with v := v, prop := p } := by
  by_cases hop : h.op = .hnop
  · exact ⟨w.v, w.prop, writeHalf_hnop hop⟩
  rw [writeHalf_eq hop]
  unfold Warp.writeD
  split
  · exact ⟨w.v, w.prop, rfl⟩
  · exact writeV_frame _ _ _ _

@[simp] theorem writeHalf_live (x : Ix) (h : Half) (w : Warp) (ok : LaneSet) : (w.writeHalf x h ok).live = w.live := by
  obtain ⟨v, p, e⟩ := writeHalf_frame x h w ok
  rw [e]

/-- The write of a half that is not empty, by the law of writes of a destination. -/
theorem writeHalf_spec (hlive : w.live = x.w.live) (hsub : ∀ L, ok.getLsbD L = true → x.w.live.getLsbD L = true) (hop : h.op ≠ .hnop) :
    (∀ L, ok.getLsbD L = true → Holds (w.writeHalf x h ok) .n32 (.v h.d) L (tyImage .n32 ((halfResult x h L).setWidth 64)))
      ∧ KeptRegs w (w.writeHalf x h ok) (useAt .n32 (.v h.d)) ok 0 := by
  have himg : ImgShape .n32 (x.shapeFor (x.halfShape h) ok) ok (fun L => (halfResult x h L).setWidth 64) := by
    by_cases hg : x.shapeFor (x.halfShape h) ok = .g
    · rw [hg]
      exact (shaped_g _).img ok
    · rw [(shapeFor_full hg).2]
      exact (shaped_halfResult x).img ok
  obtain ⟨hholds, hkept, -⟩ := writeD_spec w (.v h.d) .n32 ok (x.shapeFor (x.halfShape h) ok) (fun L => (halfResult x h L).setWidth 64)
    (by rw [hlive]; exact hsub) (by rw [hlive]; exact fun hg => (shapeFor_full hg).1) himg (fun hk => (nomatch hk))
  rw [writeHalf_eq hop]
  exact ⟨hholds, hkept⟩

/-- A half's destination holds its words in the lanes it writes. -/
theorem readV_writeHalf_dst (hlive : w.live = x.w.live) (hsub : ∀ L, ok.getLsbD L = true → x.w.live.getLsbD L = true)
    (hop : h.op ≠ .hnop) {L : Nat} (hL : ok.getLsbD L = true) :
    (w.writeHalf x h ok).readV h.d.toNat L = pairVal h.op (x.w.readV h.d.toNat L) (pairSrc x h L) := by
  have hh : (w.writeHalf x h ok).readV h.d.toNat L = (tyImage .n32 ((halfResult x h L).setWidth 64)).setWidth 32 :=
    (writeHalf_spec hlive hsub hop).1 L hL
  rw [hh, image_word, halfResult, halfVal_eq, halfSrc_eq]

/-- A half leaves every other register of the live lanes, and every lane it does not write. -/
theorem readV_writeHalf_other (hlive : w.live = x.w.live) (hsub : ∀ L, ok.getLsbD L = true → x.w.live.getLsbD L = true)
    {n L : Nat} (hL : x.w.live.getLsbD L = true) (hn : ok.getLsbD L = false ∨ h.op = .hnop ∨ h.d.toNat ≠ n) :
    (w.writeHalf x h ok).readV n L = w.readV n L := by
  by_cases hop : h.op = .hnop
  · rw [writeHalf_hnop hop]
  refine (writeHalf_spec hlive hsub hop).2.vec n L (by rw [hlive]; exact hL) ?_
  rcases hn with hn | hn | hn
  · exact .inr hn
  · exact absurd hn hop
  · refine .inl ?_
    have h1 : useAt .n32 (.v h.d) = (.v h.d, 1) := rfl
    simp only [useHasV, h1, decide_eq_false_iff_not]
    omega

end

/-! ### The pair -/

/-- A pair has no guard: its lanes are the issuing ones (R45). -/
theorem guard_plainOp (x : Ix) : x.guard plainOp = x.iss :=
  BitVec.and_allOnes

/-- The halves of a well-formed pair write different registers, as their destinations lie in different banks (R46). -/
theorem dst_ne {h1 h2 : Half} (hwf : (Instr.pFormPair h1 h2).wellFormed = true) (hop1 : h1.op ≠ .hnop) (hop2 : h2.op ≠ .hnop) :
    h1.d.toNat ≠ h2.d.toNat := by
  intro e
  have hbank : dstBankBad h1 h2 = true := by simp [dstBankBad, hop1, hop2, e]
  have hcheck := Encoding.wellFormed_pair.1 hwf
  rw [pairCheck, Encoding.firstHalf_none] at hcheck
  exact Bool.false_ne_true ((hcheck (false, dstBankBad h1 h2, 0x026) (by simp)).2.symm.trans hbank)

/-- The warp after both halves of a pair. -/
def pairWrites (x : Ix) (h1 h2 : Half) (w : Warp) : Warp := (w.writeHalf x h1 x.iss).writeHalf x h2 x.iss

/-- A pair that no check stops writes both halves and ends its issue. -/
theorem pair_eq_ended {d : Dev} {x : Ix} {h1 h2 : Half} (hix : d.ix = some x) (hbad : d.badReg = [])
    (hal : allocFault x.x.lr (halfDst h1 ++ halfDst h2 ++ (halfUses h1 ++ halfUses h2)) [] = none)
    (hcomp : ∀ h ∈ [h1, h2], (halfDst h).any x.x.lr.isCompact = true → x.iss = x.w.live ∧ x.halfShape h ≠ .g) :
    d.pair h1 h2 = ended d x (lanesOf x.iss).length (pairWrites x h1 h2) 0 := by
  have hbad' : ∀ h ∈ [h1, h2], ((halfDst h).any x.x.lr.isCompact && x.shapeFor (x.halfShape h) x.iss == .g) = false := by
    intro h hh
    by_cases hc : (halfDst h).any x.x.lr.isCompact = true
    · obtain ⟨hall, hg⟩ := hcomp h hh hc
      simp [Ix.shapeFor, hall, hg]
    · simp [hc]
  unfold Dev.pair
  rw [hix]
  dsimp only
  rw [plan_clear d x plainOp _ _ _ _ [] [] hbad (by simpa using hal) (fun _ _ => rfl) (by
    intro _ hg
    rw [guard_plainOp] at hg
    rw [hbad' h1 (by simp), hbad' h2 (by simp)] at hg
    cases hg)]
  dsimp only
  rw [guard_plainOp, mend_nil _ _ _ _ (by simpa using hbad), finish_warp]
  rfl

section
variable {x : Ix} {h1 h2 : Half} (hsub : ∀ L, x.iss.getLsbD L = true → x.w.live.getLsbD L = true)
include hsub

/-- After a pair each half's destination holds its result on the registers as they stood before either half wrote (R47). -/
theorem readV_pairWrites_dst (hwf : (Instr.pFormPair h1 h2).wellFormed = true) : ∀ h ∈ [h1, h2], h.op ≠ .hnop →
    ∀ L, x.iss.getLsbD L = true →
      (pairWrites x h1 h2 x.w).readV h.d.toNat L = pairVal h.op (x.w.readV h.d.toNat L) (pairSrc x h L) := by
  intro h hmem hop L hL
  rcases List.mem_cons.1 hmem with rfl | hmem2
  · have hother : h2.op = .hnop ∨ h2.d.toNat ≠ h.d.toNat := Classical.or_iff_not_imp_left.2 fun hop2 => (dst_ne hwf hop hop2).symm
    rw [pairWrites, readV_writeHalf_other (writeHalf_live ..) hsub (hsub L hL) (.inr hother)]
    exact readV_writeHalf_dst rfl hsub hop hL
  · obtain rfl := List.mem_singleton.1 hmem2
    exact readV_writeHalf_dst (writeHalf_live ..) hsub hop hL

/-- A pair leaves every register that neither half writes, and every lane that does not issue. -/
theorem readV_pairWrites_other {n L : Nat} (hL : x.w.live.getLsbD L = true)
    (hn : x.iss.getLsbD L = false ∨ ∀ h ∈ [h1, h2], h.op = .hnop ∨ h.d.toNat ≠ n) :
    (pairWrites x h1 h2 x.w).readV n L = x.w.readV n L := by
  have hhalf : ∀ h ∈ [h1, h2], x.iss.getLsbD L = false ∨ h.op = .hnop ∨ h.d.toNat ≠ n := fun h hmem => hn.imp_right (· h hmem)
  rw [pairWrites, readV_writeHalf_other (writeHalf_live ..) hsub hL (hhalf h2 (by simp)),
    readV_writeHalf_other rfl hsub hL (hhalf h1 (by simp))]

end

/-- A pair touches the vector and proposal registers alone. -/
theorem pairWrites_frame (x : Ix) (h1 h2 : Half) (w : Warp) : ∃ v p, pairWrites x h1 h2 w = { w with v := v, prop := p } := by
  obtain ⟨v1, p1, e1⟩ := writeHalf_frame x h1 w x.iss
  obtain ⟨v2, p2, e2⟩ := writeHalf_frame x h2 (w.writeHalf x h1 x.iss) x.iss
  exact ⟨v2, p2, by rw [pairWrites, e2, e1]⟩

theorem exec_pFormPair (h1 h2 : Half) (s : State) : exec (.pFormPair h1 h2) s = s.onDev (·.pair h1 h2) := rfl

/-- Settles O37: both halves take their sources from the warp as it stood, and they write different registers. -/
theorem pairResult : Obligations.PairResult := by
  intro h1 h2 s x hwf hclear hcomp
  obtain ⟨-, -, hsub, -⟩ := ix_spec hclear.ix hclear.first
  obtain ⟨v, p, hframe⟩ := pairWrites_frame x h1 h2 x.w
  refine ended_onWarp (n := (lanesOf x.iss).length) (f := pairWrites x h1 h2) (stay := 0) ?_ hclear.ix hclear.first ⟨?_, ?_, ?_, ?_⟩
  · rw [exec_pFormPair, State.onDev, pair_eq_ended hclear.ix hclear.good hclear.alloc hcomp]
  · exact ended_stepped hclear.ix hclear.first _ (by rw [hframe]) (by rw [hframe])
  · exact readV_pairWrites_dst hsub hwf
  · exact fun n L hL hn => readV_pairWrites_other hsub hL hn
  · rw [hframe]
    rfl

end Sys2Proof.Pair
end

section
/-!
Threads (04): what a step runs (R57, R58, R60, R201), the instructions that only step their lanes and the fence (R70, R175, R182 to
R185), the read of a result register (R72, R128), and the lanes that resume (R87, R345, R364). From these follow O41, O9 and O18, and
that O46 fails.
-/
namespace Sys2Proof.Threads
open Machine

/-! ### The move of a step (log 1) -/

/-- A queued move is the move of a step. -/
theorem step_agenda {s : State} {m : Move} {rest : List Move} (h : s.agenda = m :: rest) :
    step s = runMove m { s.advance with agenda := rest } := by
  have hnext : s.advance.nextMove = (some m, { s.advance with agenda := rest }) := by
    have hadv : s.advance.agenda = m :: rest := h
    simp [State.nextMove, hadv]
  simp [step, hnext]

/-- With nothing queued the first move that is due is the move of a step. -/
theorem step_due {s : State} {i : Instr} {is : List Instr} (h : s.agenda = []) (hdue : s.advance.dev.due = i :: is) :
    step s = runMove (.event i) s.advance := by
  have hnext : s.advance.nextMove = (some (.event i), s.advance) := by
    have hadv : s.advance.agenda = [] := h
    simp [State.nextMove, hadv, hdue]
  simp [step, hnext]

/-- With nothing queued and nothing due the move of a step is the one that `Config.pick` takes from the machine's own. -/
theorem nextMove_free {s : State} (h : s.agenda = []) (hdue : s.dev.due = []) :
    s.nextMove = (s.moves[Config.pick s.tick % s.moves.length]?, s) := by
  simp [State.nextMove, h, hdue]

/-- With nothing queued and nothing due a step makes one of the machine's own moves, if there is one. -/
theorem step_free {s : State} (h : s.agenda = []) (hdue : s.advance.dev.due = []) :
    if s.advance.moves = [] then step s = .next s.advance else ∃ m ∈ s.advance.moves, step s = runMove m s.advance := by
  have hnext := nextMove_free (s := s.advance) h hdue
  split
  next hnone => simp [step, hnext, hnone]
  next hsome =>
    have hlt : Config.pick s.advance.tick % s.advance.moves.length < s.advance.moves.length :=
      Nat.mod_lt _ (List.length_pos_iff.2 hsome)
    refine ⟨_, List.getElem_mem hlt, ?_⟩
    simp [step, hnext, List.getElem?_eq_getElem hlt]

/-! ### What a move runs (R57, R58, R60) -/

/-- Where one word alone stands at an address, a fetch reads it and leaves the device as it is. -/
theorem fetchWord_one {d : Dev} {grid pa : Nat} {v : DWord} (h : d.words grid pa = [v]) : d.fetchWord grid pa = (d, v) := by
  simp [Dev.fetchWord, h]

/-- A fetch that neither faults nor meets a hazard begins the issue of the word that stands at the lanes' counter. -/
theorem fetch_begins {d d1 : Dev} {g wi pa : Nat} {x : Group} {w : Warp} {ls : LaneSet} {pc : Addr} {sm : Bool} {v : DWord}
    (htr : d.translate x.core x.vf .fetch pc.toNat = (d1, .ok (pa, sm))) (hfault : d1.fetchFault x.die pc.toNat pa = none)
    (hword : d1.words x.grid pa = [v]) (hhaz : x.hazard w (decode v).instr = none) :
    d.fetch g wi x w ls pc =
      ({ ((d1.settleFor g wi (decode v).instr).noteIssue g wi x w).modWarp g wi
          (fun y => (y.begin ls pc v).gain ls (x.tileJoin w (decode v).instr pc)) with
        cur := some ⟨g, wi, ls, pc, v, 0⟩ }, some (decode v).instr) := by
  simp only [Dev.fetch, htr, hfault, fetchWord_one hword, hhaz]

/-- A ready warp of a group fetches for its issuing lanes, at the counter of the lowest of them. -/
theorem issue_fetches {d : Dev} {g wi : Nat} {x : Group} {w : Warp} (hg : d.group? g = some x) (hw : d.warp? g wi = some w)
    (hready : x.ready w = true) : d.issue g wi = d.fetch g wi x w w.issuing (w.pcOf (lowest w.issuing)) := by
  have hiss : (w.issuing != 0) = true := by
    simp only [Group.ready, Bool.and_eq_true] at hready
    exact hready.1.2
  simp only [Dev.issue, hg, hw, hready, hiss, Bool.and_self, if_true]

/-- An arrival that rests goes on with the word that it issued, in the lanes that rest, after the loads of its warp are performed. -/
theorem resume_goes {d : Dev} {arr : Nat} {r : Rested} {x : Group} {w : Warp} (hr : d.rested.find? (·.arr == arr) = some r)
    (hg : d.group? r.g = some x) (hw : d.warp? r.g r.w = some w) (hls : w.restingIn arr ≠ 0) (hsave : x.saving = none)
    (htile : ∀ t, instrTile (decode r.word).instr = some t → x.held t = false) :
    d.resume arr =
      ({ (d.settleLoads r.g r.w).modWarp r.g r.w (·.setWait (w.restingIn arr) .none) with
        cur := some ⟨r.g, r.w, w.restingIn arr, r.pc, r.word, arr⟩ }, some (decode r.word).instr) := by
  have hfree : ((instrTile (decode r.word).instr).map x.held).getD false = false := by
    cases ht : instrTile (decode r.word).instr with
    | none => rfl
    | some t => exact htile t ht
  have hgo : (decide (w.restingIn arr = 0) || x.saving.isSome || ((instrTile (decode r.word).instr).map x.held).getD false) = false := by
    simp only [hls, hsave, hfree, decide_false, Option.isSome_none, Bool.or_self]
  simp only [Dev.resume, hr, hg, hw, hgo, Bool.false_eq_true, if_false]

/-- The instruction that a warp has begun runs where the part answers it. -/
theorem runFetched_some {s : State} {d : Dev} {i : Instr} (h : d.admits i = true) : runFetched s (d, some i) = exec i { s with dev := d } := by
  simp [runFetched, h]

/-- Settles O41: the head of the agenda is the move of a step, then what is due, then a free choice; and an issue or the end of a rest
runs the word that `Dev.fetch` or `Dev.resume` gives it. -/
theorem stepRunsDecoded : Obligations.StepRunsDecoded := by
  intro s
  refine ⟨?issue, ?resume, ?event, fun hagenda => ⟨fun i is hdue => step_due hagenda hdue, step_free hagenda⟩⟩
  case issue =>
    intro g wi rest x w d1 pa sm v hagenda d L pc i t hg hw hready htr hfault hword hhaz hadm
    rw [step_agenda hagenda]
    have hissue : d.issue g wi = (t.dev, some i) := (issue_fetches hg hw hready).trans (fetch_begins htr hfault hword hhaz)
    exact (congrArg (runFetched _) hissue).trans (runFetched_some hadm)
  case resume =>
    intro arr rest r x w hagenda d i t hr hg hw hls hsave htile hadm
    rw [step_agenda hagenda]
    have hresume : d.resume arr = (t.dev, some i) := resume_goes hr hg hw hls hsave htile
    exact (congrArg (runFetched _) hresume).trans (runFetched_some hadm)
  case event =>
    intro i rest hagenda t
    exact step_agenda hagenda

/-! ### Instructions that only step their lanes (R70, R75) -/

/-- An instruction that runs as `Dev.nop` only steps its lanes. -/
theorem nop_onWarp {s : State} {x : Ix} {i : Instr} {o : OpW} (hi : exec i s = s.onDev (·.nop o)) (hc : Clear s x []) :
    OnWarp s i x (fun w' => Stepped x w' ∧ { w' with pc := x.w.pc } = x.w) := by
  refine laneAct_onWarp (f := fun w => w) (stay := 0) hi hc (fun _ _ => rfl) (fun h => nomatch h) ?_ ⟨?_, rfl⟩
  · rw [modWarp_self]
  · exact ended_stepped hc.ix hc.first x.w rfl rfl

/-! ### Sets of writes and views (R182 to R185) -/

theorem mem_uni {i : Nat} {a b : List Nat} : i ∈ uni a b ↔ i ∈ a ∨ i ∈ b := by
  by_cases h : i ∈ a <;> simp [uni, h]

theorem uni_nil_left (b : List Nat) : uni [] b = b := by simp [uni]

/-- What a set gains from some writes: each of them, and all that happens before it. -/
theorem mem_foldl_uni {i : Nat} (ws : List Write) (m : List Nat) :
    i ∈ ws.foldl (fun m w => uni (w.id :: m) w.before) m ↔ i ∈ m ∨ ∃ w ∈ ws, i = w.id ∨ i ∈ w.before := by
  induction ws generalizing m with
  | nil => simp
  | cons w ws ih =>
    rw [List.foldl_cons, ih, mem_uni]
    simp only [List.mem_cons, exists_eq_or_imp, or_assoc]
    exact or_left_comm

/-- An acquire on reads gains each release write that they returned and that it meets, with all that happens before it (R183, R184). -/
theorem mem_gains {d : Dev} {t : Thr} {scope : Nat} {ids : List Nat} {w : Write} (hpast : w ∈ d.past) (hread : w.id ∈ ids) (hrel : 0 < w.rel)
    (hmeet : meets (w.rel - 1) w.by_ scope t = true) :
    w.id ∈ d.gains t scope ids ∧ ∀ i ∈ w.before, i ∈ d.gains t scope ids := by
  have hof : w ∈ d.writesOf ids := List.mem_filter.2 ⟨hpast, by simpa using hread⟩
  have hfrom : w ∈ d.past.filter (fun w => w.rel > 0 && meets (w.rel - 1) w.by_ scope t
      && (d.writesOf ids).any (fun r => r.id == w.id || r.rmw && w.spans r.place r.old.length && (d.past.dropWhile (·.id != r.id)).contains w)) := by
    refine List.mem_filter.2 ⟨hpast, ?_⟩
    rw [Bool.and_eq_true, Bool.and_eq_true]
    exact ⟨⟨decide_eq_true hrel, hmeet⟩, List.any_eq_true.2 ⟨w, hof, by simp⟩⟩
  exact ⟨(mem_foldl_uni _ _).2 (.inr ⟨w, hfrom, .inl rfl⟩), fun i hi => (mem_foldl_uni _ _).2 (.inr ⟨w, hfrom, .inr hi⟩)⟩

/-- Gaining what happens before some fences takes nothing from what a thread knows. -/
theorem know_foldl_gain {i : Nat} {fs : List (Thr × Nat × List Nat)} {v : View} (h : i ∈ v.know) :
    i ∈ (fs.foldl (fun v f => v.gain f.2.2) v).know := by
  induction fs generalizing v with
  | nil => exact h
  | cons f fs ih => exact ih (mem_uni.2 (.inl h))

theorem lanesOf_laneBit {L : Nat} (h : L < 32) : lanesOf (laneBit L) = [L] := by
  have key : ∀ L < 32, lanesOf (laneBit L) = [L] := by decide
  exact key L h

/-- What one lane has met is its own view. -/
theorem viewAt_lane {d : Dev} {x : Ix} {w : Warp} (hw : d.warp? x.g x.wi = some w) {L : Nat} (hL : L < 32) :
    d.viewAt x (laneBit L) = w.viewOf L := by
  simp [Dev.viewAt, hw, lanesOf_laneBit hL, View.join, View.init, uni_nil_left]

theorem viewOf_modView_lane {L : Nat} (hL : L < 32) (w : Warp) (f : View → View) (k : Nat) :
    (w.modView (laneBit L) f).viewOf k = if k = L then f (w.viewOf L) else w.viewOf k := by
  simp [Warp.modView, Warp.viewOf, lanesOf_laneBit hL, look_put]

theorem modWarp_modWarp (d : Dev) (g wi : Nat) (f f' : Warp → Warp) : (d.modWarp g wi f).modWarp g wi f' = d.modWarp g wi (fun w => f' (f w)) := by
  have hgroup : ∀ y : Group, (if (if y.id = g then y.modWarp wi f else y).id = g then (if y.id = g then y.modWarp wi f else y).modWarp wi f'
      else (if y.id = g then y.modWarp wi f else y)) = if y.id = g then y.modWarp wi (fun w => f' (f w)) else y := by
    intro y
    by_cases hy : y.id = g
    · simp only [hy, if_true, Group.modWarp, List.modify_modify_eq]
      rfl
    · simp [hy]
  simp only [Dev.modWarp, Dev.modGroup, List.map_map]
  congr 1
  exact List.map_congr_left fun y _ => hgroup y

/-! ### The fences of some lanes (R175, R185) -/

/-- The fence of one lane sets what the lane has met and the order of fences; an acquire side gains for the lane (R182, R183). -/
theorem fenceLane_spec (ord scope : Nat) {x : Ix} {d : Dev} {w : Warp} (hw : d.warp? x.g x.wi = some w) {L : Nat} (hL : L < 32) :
    ∃ v F, Dev.fenceLane ord scope x d L = { d.modWarp x.g x.wi (·.modView (laneBit L) (fun _ => v)) with fences := F }
      ∧ (ord % 2 = 1 → ∀ i ∈ d.gains (x.x.thr x.wi L) scope (w.viewOf L).seen, i ∈ v.know) := by
  have hacq : ∀ i ∈ d.gains (x.x.thr x.wi L) scope (w.viewOf L).seen,
      i ∈ (d.acquire (x.x.thr x.wi L) scope (w.viewOf L).seen (w.viewOf L)).know := fun i hi => mem_uni.2 (.inr hi)
  unfold Dev.fenceLane
  simp only [viewAt_lane hw hL]
  split
  next hboth =>
    refine ⟨_, _, rfl, fun hodd i hi => mem_uni.2 (.inl (know_foldl_gain ?_))⟩
    rw [if_pos hodd, if_pos (by omega : ord ≥ 2)]
    exact hacq i hi
  next =>
    refine ⟨_, d.fences, rfl, fun hodd i hi => ?_⟩
    rw [if_pos hodd]
    split
    · exact hacq i hi
    · exact hacq i hi

/-- The fences of the lanes `ls` of the warp `w`, one after the other, have taken the device from `d` to `e`: they changed the warp by `f`,
which sets what those lanes have met, and the order of fences. -/
structure Fenced (ord scope : Nat) (x : Ix) (w : Warp) (ls : List Nat) (d e : Dev) (f : Warp → Warp) : Prop where
  dev : ∃ F, e = { d.modWarp x.g x.wi f with fences := F }
  frame : ∀ w, f w = { w with view := (f w).view }
  other : ∀ L, L ∉ ls → (f w).viewOf L = w.viewOf L
  acquired : ord % 2 = 1 → ∀ L ∈ ls, ∀ i ∈ d.gains (x.x.thr x.wi L) scope (w.viewOf L).seen, i ∈ ((f w).viewOf L).know

theorem fenced_foldl (ord scope : Nat) (x : Ix) (ls : List Nat) : ∀ (d : Dev) (w : Warp), d.warp? x.g x.wi = some w → ls.Nodup →
    (∀ L ∈ ls, L < 32) → ∃ f, Fenced ord scope x w ls d (ls.foldl (Dev.fenceLane ord scope x) d) f := by
  induction ls with
  | nil => exact fun d w _ _ _ => ⟨fun w => w, ⟨d.fences, by rw [modWarp_self]; rfl⟩, fun _ => rfl, fun _ _ => rfl,
      fun _ _ h => (nomatch h)⟩
  | cons L ls ih =>
    intro d w hw hnd hlt
    obtain ⟨hL, hlt'⟩ := List.forall_mem_cons.1 hlt
    obtain ⟨hnot, hnd'⟩ := List.nodup_cons.1 hnd
    obtain ⟨v, F, hfence, hgain⟩ := fenceLane_spec ord scope hw hL
    have hw1 : (Dev.fenceLane ord scope x d L).warp? x.g x.wi = some (w.modView (laneBit L) (fun _ => v)) := by
      rw [hfence]
      exact (warp?_modWarp_same d x.g x.wi _).trans (congrArg (Option.map _) hw)
    have hpast : (Dev.fenceLane ord scope x d L).past = d.past := by rw [hfence]; rfl
    obtain ⟨f, hf⟩ := ih _ _ hw1 hnd' hlt'
    obtain ⟨F', hF'⟩ := hf.dev
    refine ⟨fun w => f (w.modView (laneBit L) (fun _ => v)), ⟨F', ?_⟩, fun w => ?_, fun k hk => ?_, fun hodd k hk i hi => ?_⟩
    · rw [List.foldl_cons, hF', hfence]
      exact congrArg (fun e : Dev => { e with fences := F' }) (modWarp_modWarp d x.g x.wi _ f)
    · rw [hf.frame]
      rfl
    · obtain ⟨hkL, hkls⟩ := not_or.1 (fun h => hk (List.mem_cons.2 h))
      rw [hf.other k hkls, viewOf_modView_lane hL, if_neg hkL]
    · by_cases hkL : k = L
      · subst hkL
        rw [hf.other k hnot, viewOf_modView_lane hL, if_pos rfl]
        exact hgain hodd i hi
      · refine hf.acquired hodd k ((List.mem_cons.1 hk).resolve_left hkL) i ?_
        rw [viewOf_modView_lane hL, if_neg hkL]
        simpa only [Dev.gains, Dev.writesOf, hpast] using hi

/-- The order of fences is no part of what an issue of a warp reads or of what its end leaves alone. -/
theorem keptElse_of_fences {s u : State} {x : Ix} {F : List (Thr × Nat × List Nat)}
    (h : KeptElse { s with dev := { s.dev with fences := F } } u x) : KeptElse s { u with dev := { u.dev with fences := s.dev.fences } } x where
  state := congrArg (fun t : State => { t with dev := s.dev }) h.state
  dev := congrArg (fun d : Dev => { d with fences := s.dev.fences }) h.dev
  groups := h.groups
  group := h.group
  warps := h.warps

theorem nodup_lanesOf (s : LaneSet) : (lanesOf s).Nodup := List.nodup_range.filter _

/-- A fence that no check stops is the fences of its lanes in turn, and then the end of the issue. -/
theorem fence_eq_ended {d : Dev} {x : Ix} {o : OpW} (ord scope : Nat) (hix : d.ix = some x) (h0 : x.arr = 0) (hbad : d.badReg = [])
    (hal : allocFault x.x.lr [] [] = none) :
    ∃ e g F, Fenced ord scope x x.w (lanesOf (x.guard o)) d e g
      ∧ d.fence o ord scope = ended { d with fences := F } x (lanesOf (x.guard o)).length g 0 := by
  obtain ⟨-, hw, -, -⟩ := ix_spec hix h0
  obtain ⟨g, hg⟩ := fenced_foldl ord scope x (lanesOf (x.guard o)) d x.w hw (nodup_lanesOf _) (fun L hL => lt_of_lane ((mem_lanesOf _ L).1 hL))
  obtain ⟨F, hF⟩ := hg.dev
  refine ⟨_, g, F, hg, ?_⟩
  calc d.fence o ord scope
      = ((lanesOf (x.guard o)).foldl (Dev.fenceLane ord scope x) d).finish x (x.guard o) 0 [] :=
        laneAct_clear hix hbad hal (fun _ _ => rfl) (fun h => nomatch h)
    _ = (Dev.modWarp { d with fences := F } x.g x.wi g).finish x (x.guard o) 0 [] := by rw [hF]; rfl
    _ = ended { d with fences := F } x (lanesOf (x.guard o)).length g 0 := finish_warp ..

theorem exec_fence (f : FWord) (s : State) : exec (.fence f) s =
    s.onDev (·.fence (fop f) (f.sub.toNat % 4) (f.sub.toNat / 4 + 4 * (f.ty.code.toNat % 2))) := rfl

/-- A fence steps its lanes and changes nothing but what they have met and the order of fences; its acquire side gains in each executing
lane the release writes that the lane's reads have returned. -/
theorem fence_completes (f : FWord) {s : State} {x : Ix} (hc : Clear s x []) :
    ∃ u w', exec (.fence f) s = .next u ∧ u.dev.warp? x.g x.wi = some w' ∧ Stepped x w' ∧ { MetAs x.w w' with pc := x.w.pc } = x.w
      ∧ KeptElse s { u with dev := { u.dev with fences := s.dev.fences } } x
      ∧ (f.sub.toNat % 2 = 1 → ∀ L, (x.guard (fop f)).getLsbD L = true →
          ∀ i ∈ s.dev.gains (x.x.thr x.wi L) (f.sub.toNat / 4 + 4 * (f.ty.code.toNat % 2)) (x.w.viewOf L).seen, i ∈ (w'.viewOf L).know) := by
  obtain ⟨e, g, F, hg, hfence⟩ := fence_eq_ended (o := fop f) (f.sub.toNat % 4) (f.sub.toNat / 4 + 4 * (f.ty.code.toNat % 2))
    hc.ix hc.first hc.good hc.alloc
  have hexec : exec (.fence f) s = .next { s with dev := ended { s.dev with fences := F } x (lanesOf (x.guard (fop f))).length g 0 } := by
    rw [exec_fence, State.onDev, hfence]
  have hix : ({ s.dev with fences := F } : Dev).ix = some x := hc.ix
  have hframe := hg.frame x.w
  refine ⟨_, _, hexec, ended_warp hix hc.first _ g 0, ?_, ?_,
    keptElse_of_fences (ended_kept (s := { s with dev := { s.dev with fences := F } }) hix hc.first _ g 0), fun hodd L hL => ?_⟩
  · exact ended_stepped hix hc.first (g x.w) (by rw [hframe]) (by rw [hframe])
  · rw [hframe]
    rfl
  · exact hg.acquired (by omega) L ((mem_lanesOf _ L).2 hL)

/-- Settles O9: `nop` and `rgn` run as `Dev.nop`, and what the acquire side of a fence gains holds every release write that it meets. -/
theorem noEffect : Obligations.NoEffect := by
  intro f
  refine ⟨fun i hi s x _ hc => ?_, fun s x _ hc => ?_⟩
  · simp only [List.mem_cons, List.not_mem_nil, or_false] at hi
    rcases hi with rfl | rfl
    · exact nop_onWarp rfl hc
    · exact nop_onWarp rfl hc
  · obtain ⟨u, w', hexec, hw', hstep, hwarp, helse, hknow⟩ := fence_completes f hc
    refine ⟨u, w', hexec, hw', hstep, hwarp, helse, fun hodd L hL w hpast hseen hrel hmeet => ?_⟩
    obtain ⟨hid, hbefore⟩ := mem_gains hpast hseen hrel hmeet
    exact ⟨hknow hodd L hL _ hid, fun i hi => hknow hodd L hL i (hbefore i hi)⟩

/-! ### The read of a result register (R72, R128) -/

/-- The lanes whose wait satisfies a test that no wait of the warp does. -/
theorem waiting_eq_zero {w : Warp} {p : Wait → Bool} (h : ∀ L, p (look .none w.wait L) = false) : w.waiting p = 0 := by
  have hnone : (List.range 32).filter (fun L => w.live.getLsbD L && p (look .none w.wait L)) = [] :=
    List.filter_eq_nil_iff.2 fun L _ => by simp only [h, Bool.and_false, Bool.false_eq_true, not_false_eq_true]
  exact congrArg Machine.setOf hnone

/-- A warp none of whose lanes rests at a `qget` has no orphaned one (R360). -/
theorem qgetCheck_noQget {d : Dev} {g wi : Nat} {w : Warp} (hw : d.warp? g wi = some w) (hq : NoQget w) : d.qgetCheck g wi = d := by
  have hnone : w.waiting w.qgetFails = 0 := by
    refine waiting_eq_zero fun L => ?_
    unfold Warp.qgetFails
    split
    next a q e hwait => exact absurd hwait (hq L a q e)
    next => rfl
  have hall : (w.live != 0 && w.allWait w.qgetFails) = false := by
    have hnot : ~~~((0 : LaneSet) &&& ~~~w.handler) = BitVec.allOnes 32 := by simp
    rw [Warp.allWait, hnone, hnot, BitVec.and_allOnes]
    exact Bool.not_and_self (w.live == 0)
  simp only [Dev.qgetCheck, hw, hall, Bool.false_eq_true, if_false]

/-- R72's condition as arithmetic of the two numbers. -/
theorem seqMet_iff (n : BitVec 16) (e : Nat) : seqMet n e = true ↔ (n.toNat + 2 ^ 16 - e % 2 ^ 16) % 2 ^ 16 < 2 ^ 15 := by
  have he : e % 2 ^ 16 < 2 ^ 16 := Nat.mod_lt _ (by decide)
  rw [seqMet, decide_eq_true_eq, BitVec.toNat_sub, BitVec.toNat_ofNat, ← Nat.sub_add_comm (Nat.le_of_lt he), Nat.add_comm (2 ^ 16)]

theorem firstBad_eq_none {l : List (Bool × Cause)} (h : firstBad l = none) : ∀ e ∈ l, e.1 = false := by
  induction l with
  | nil => exact fun _ h => (nomatch h)
  | cons e l ih =>
    obtain ⟨b, c⟩ := e
    cases b with
    | false => exact List.forall_mem_cons.2 ⟨rfl, ih h⟩
    | true => exact nomatch h

/-- A word that passes its checks has a destination of a kind that its instruction accepts (R51, check 4). -/
theorem dst_kind_of_check {sp : FSpec} {f : FWord} (h : sp.check f = none) (hd : sp.d ≠ []) : f.d.kind ∈ sp.d := by
  have hbad := firstBad_eq_none h _ (List.mem_cons_self ..)
  simp only [Bool.or_eq_false_iff] at hbad
  obtain ⟨⟨⟨⟨⟨-, hdst⟩, -⟩, -⟩, -⟩, -⟩ := hbad
  have hne : sp.d.isEmpty = false := by simpa using hd
  simp only [dstBad, hne, Bool.not_false, Bool.true_and, Bool.or_eq_false_iff, Bool.not_eq_false', List.contains_iff_mem] at hdst
  exact hdst.1

/-- A well-formed `qget` writes a scalar register. -/
theorem qget_dst {f : FWord} (h : (Instr.qget f).wellFormed = true) : ∃ m, f.d = .s m := by
  have hcheck : spQget.check f = none := by simpa [Instr.wellFormed, Instr.check] using h
  have hkind : f.d.kind = .s := List.mem_singleton.1 (dst_kind_of_check hcheck (by decide))
  cases hd : f.d with
  | s m => exact ⟨m, rfl⟩
  | _ => rw [hd] at hkind; cases hkind

/-- A step of program counters changes no register. -/
theorem keptRegs_stepPc {w w' : Warp} {u : Use} {e drew : LaneSet} (h : KeptRegs w w' u e drew) (ls : LaneSet) :
    KeptRegs w (w'.stepPc ls) u e drew :=
  ⟨h.vec, h.sca, h.pred, h.rng, h.rest⟩

/-- A write of a scalar register is a write of that register alone. -/
theorem keptRegs_writeS (w : Warp) (m : BitVec 5) (v : DWord) (e : LaneSet) : KeptRegs w (w.writeS m.toNat v) (.s m, 1) e 0 where
  vec _ _ _ _ := rfl
  sca n hn := look_put_other _ _ _ _ _ (fun hnm => by simp [useHasS, hnm] at hn)
  pred _ _ _ _ := rfl
  rng _ _ := by simp [Warp.writeS]
  rest := rfl

/-- A `qget` whose number is reached writes its destination and ends its issue, in a warp none of whose lanes rests at another. -/
theorem qget_eq_ended {d : Dev} {x : Ix} {o : OpW} {n : BitVec 2} {m : BitVec 5} (hix : d.ix = some x) (h0 : x.arr = 0) (hbad : d.badReg = [])
    (ha : o.a = .q n) (hd : o.d = .s m) (hal : allocFault x.x.lr [(o.d, 1), (o.a, 1), (o.b, 1)] [] = none) (he : x.guard o ≠ 0)
    (hq : NoQget x.w) (hmet : seqMet (look (0, 0) x.w.q n.toNat).2 ((x.sval o o.b).toNat % 2 ^ 16) = true) :
    d.qget o = ended d x (lanesOf (x.guard o)).length (·.writeS m.toNat (look (0, 0) x.w.q n.toNat).1) 0 := by
  rw [ha] at hal
  unfold Dev.qget
  simp only [hix, ha]
  rw [scalarAct_done (d' := d.modWarp x.g x.wi (·.writeS m.toNat (look (0, 0) x.w.q n.toNat).1)) hix hbad hbad hal he
    (by simp only [hmet, if_true, hd, Dev.setS]), finish_warp]
  exact qgetCheck_noQget (ended_warp hix h0 _ _ _) hq

theorem exec_qget (f : FWord) (s : State) : exec (.qget f) s = s.onDev (·.qget (fop f)) := rfl

/-- Settles O18: the number is reached, so that the arrival completes, and no lane of the warp rests at a `qget` that could be orphaned. -/
theorem resultRead : Obligations.ResultRead := by
  intro f s x n hwf ha hc he hq hseq
  obtain ⟨m, hd⟩ := qget_dst hwf
  have hmet : seqMet (look (0, 0) x.w.q n.toNat).2 ((x.sval (fop f) f.b).toNat % 2 ^ 16) = true := by
    rw [seqMet_iff, Nat.mod_mod]
    exact hseq
  have hend := qget_eq_ended (o := fop f) hc.ix hc.first hc.good ha hd hc.alloc he hq hmet
  refine ended_onWarp (n := (lanesOf (x.guard (fop f))).length) (f := (·.writeS m.toNat (look (0, 0) x.w.q n.toNat).1)) (stay := 0)
    ?_ hc.ix hc.first ⟨ended_stepped hc.ix hc.first _ rfl rfl, fun L => ?_, ?_⟩
  · rw [exec_qget, State.onDev, hend]
  · rw [hd]
    exact look_put_same ..
  · rw [hd]
    exact keptRegs_stepPc (keptRegs_writeS x.w m _ _) _

/-! ### Lanes that resume (R345, R355, R364) -/

theorem dev_of_rewalk {g wi arr : Nat} {s u : State} (h : exec (.faultServiceRewalk g wi arr) s = .next u) :
    u.dev = s.dev.faultService g wi arr :=
  (congrArg State.dev (Host.Outcome.next.inj h)).symm

/-- A warp whose lane 0 is parked with a cause of `trap`, 0x1C0. No run parks a lane with it: the causes that park are 0x060, 0x070 and
0x0F5 (`causeParks`). -/
def warpParked : Warp := { Warp.entry 1 0x10000 0 0 1 with park := [(0, some ⟨0x1C0, 0x80000000, false, 0, 0x80000000, 3⟩)] }

def groupParked : Group := { fixtureGroup 1 1 with warps := [warpParked] }

/-- A state after reset with that warp, where no page is mapped and the grid has a handler. The trap records of its queue lie above 2^56, so
that they are lost (R402). -/
def sParked : State := { State.reset with dev := { Dev.init with
  groups := [groupParked]
  grids := [{ fixtureGrid 1 with tvec := 0x18000 }]
  queues := [(0, { Queue.init with save := 0x00FFFFFFFFFFF000 })] } }

/-- The second walk for lane 0 meets V = 0 at the root. -/
theorem sParked_walk : sParked.dev.walk 0 0 0x80000000 = .stop 0 0 := by decide

set_option maxRecDepth 100000 in
/-- The second walk sends lane 0 to the handler as a `trap` is sent, to resume past its instruction (R355). -/
theorem sParked_epc : ((sParked.dev.faultService 1 0 3).warp? 1 0).map (fun w => look 0 w.epc 0) = some 0x10008 := by decide

/-- Refutes O46: the statement does not say with which causes lanes are parked, and a lane that is parked with the cause of a `trap` enters
the handler with the counter of the next word saved, 0x10008, where it stood at 0x10000. -/
theorem not_lanesResume : ¬ Obligations.LanesResume := by
  intro h
  obtain ⟨-, -, hrewalk⟩ := h sParked 1 0 groupParked warpParked (by decide) (by decide)
  obtain ⟨-, hfault⟩ := hrewalk 3 (by decide) (fun _ _ _ _ => nofun) (fun _ _ _ => BitVec.getLsbD_zero)
  have hunmapped : ¬∃ p e l, look none warpParked.park 0 = some p ∧ sParked.dev.walk 0 0 p.va = .leaf e l := by
    rintro ⟨p, e, l, hp, hwalk⟩
    obtain rfl := Option.some.inj hp
    exact nomatch sParked_walk.symm.trans hwalk
  obtain ⟨u, hexec, -, -, -, w', hw', hlanes⟩ := hfault ⟨0, by decide, by decide, hunmapped⟩
    (fun _ _ _ => BitVec.getLsbD_zero) (by decide)
  obtain ⟨-, -, -, hepc⟩ := hlanes 0 (by decide) (by decide)
  have hsaved := sParked_epc
  rw [← dev_of_rewalk hexec, hw', Option.map_some, hepc] at hsaved
  exact absurd hsaved (by decide)

end Sys2Proof.Threads
end
